-- ==== Sys2Proof/Word.lean ====
section
/-! DEFINITION. The word types of the module and their plainest arithmetic (00_scope.md R7, R8). -/

namespace Sys2Proof

/-- One byte of scratch, LPDDR5X, flash or a page. -/
abbrev Byte := BitVec 8

/-- A 32-bit register or word. -/
abbrev Word := BitVec 32

/-- A 64-bit register or word. -/
abbrev DWord := BitVec 64

/-- A plain byte string. -/
abbrev Bytes := List Byte

end Sys2Proof
end

