-- ==== Sys2Proof/Syntax.lean ====
section
/-! DEFINITION. The commands of the block: one constructor per row of spec/opcode_table.json, with the operands that
only the sender can supply (the unit acted on, the index of a message in flight, a measured value, bytes read by
DMA, a check that fired). What a step-table entry, a stream instruction or a mailbox request itself says is never an
operand: it is read from the state. -/

namespace Sys2Proof

/-- A check that fires during a step (11_integrity.md R310): its code, the unit it names (R330), the replay unit of
the invocation it falls in (R318) and its syndrome bytes (R334), byte 0 in bits [7:0]. -/
structure Det where
  code : Nat
  uclass : Nat
  uid : Nat
  unit : Nat
  syndrome : BitVec 128
deriving DecidableEq, Repr

/-- A known-answer vector that fails in a self-test (11_integrity.md R316, R332): core, datapath unit (0 A0, 1 A1, 2 vector
unit, 3 pooling unit, 4 resize sampler), vector, the drained outputs followed by the four conversion counters, and whether
the inverted bit was reported. -/
structure KatOut where
  core : Nat
  unit : Nat
  vector : Nat
  drained : Bytes
  injSeen : Bool
deriving DecidableEq, Repr

/-- Readings of the input and temperature monitors, updated every 1 ms (14_module_hw.md, readings table). -/
structure Sample where
  vin : BitVec 16
  iin : BitVec 16
  pin : BitVec 16
  cool : BitVec 32
  flow : BitVec 16
  /-- sensor id and reading in 1/16 °C -/
  sensors : List (Nat × BitVec 16)
  /-- plot and core rail in mV (14_module_hw.md R399) -/
  rails : List (Nat × BitVec 16)
deriving DecidableEq, Repr

/-- What the hardware under a boot turns out to be (15_power_boot.md R406): the self-tests, the stage the firmware hangs
in (4 to 7; 0 none), the controllers that train, the units (class, id) the march test finds bad, and where power fails during
the burning of the anti-rollback fuses, how many were burnt (R411). -/
structure BootIn where
  stage1 : Bool
  stage2 : Bool
  hangs : Nat
  trained : List Nat
  bad : List (Nat × Nat)
  burnt : Option Nat
deriving DecidableEq, Repr

/-- How a power stage left its range, or a sensor reading: sensor id (14_module_hw.md R399, R401) and value. -/
structure Reading where
  sensor : Nat
  value : BitVec 64
deriving DecidableEq, Repr

/-- The commands, in the order of spec/opcode_table.json. `c` is a core id, `a` an array (0 or 1), `f` a function
(0 to 16), `m` a mailbox (0 to 3), `x` a stream context (0 to 3), `p` a port (0 to 15). -/
inductive Instr where
  -- array entries
  | matmul (c : Nat)
  | score (c : Nat)
  | conv (c : Nat)
  -- pooling and resampling entries; `d` = a check that fires
  | poolMax (c : Nat) (d : Option Det)
  | poolAvg (c : Nat) (d : Option Det)
  | resizeNearest (c : Nat) (d : Option Det)
  | resizeBilinear (c : Nat) (d : Option Det)
  -- NORM and CONVERT
  | normStats (c : Nat) (d : Option Det)
  | normApply (c : Nat) (d : Option Det)
  | normStatsApply (c : Nat) (d : Option Det)
  | normRecompute (c : Nat) (d : Option Det)
  | convert (c : Nat) (d : Option Det)
  -- ELEMWISE
  | elemAdd (c : Nat) (d : Option Det)
  | elemSub (c : Nat) (d : Option Det)
  | elemMul (c : Nat) (d : Option Det)
  | elemFma (c : Nat) (d : Option Det)
  | elemMax (c : Nat) (d : Option Det)
  | elemMin (c : Nat) (d : Option Det)
  | elemAbs (c : Nat) (d : Option Det)
  | elemNeg (c : Nat) (d : Option Det)
  | elemCopysign (c : Nat) (d : Option Det)
  | elemSelect (c : Nat) (d : Option Det)
  | elemCmpEq (c : Nat) (d : Option Det)
  | elemCmpLt (c : Nat) (d : Option Det)
  | elemCmpLe (c : Nat) (d : Option Det)
  | elemScale2 (c : Nat) (d : Option Det)
  | elemRcp (c : Nat) (d : Option Det)
  | elemSqrt (c : Nat) (d : Option Det)
  | elemRsqrt (c : Nat) (d : Option Det)
  | elemDiv (c : Nat) (d : Option Det)
  | elemExp (c : Nat) (d : Option Det)
  | elemExp2 (c : Nat) (d : Option Det)
  | elemLog (c : Nat) (d : Option Det)
  | elemLog2 (c : Nat) (d : Option Det)
  | elemSin (c : Nat) (d : Option Det)
  | elemCos (c : Nat) (d : Option Det)
  | elemTanh (c : Nat) (d : Option Det)
  | elemSigmoid (c : Nat) (d : Option Det)
  | elemSilu (c : Nat) (d : Option Det)
  | elemGelu (c : Nat) (d : Option Det)
  -- REDUCE, DIGEST, GATHER/SCATTER
  | reduceSum (c : Nat) (d : Option Det)
  | reduceMax (c : Nat) (d : Option Det)
  | reduceMin (c : Nat) (d : Option Det)
  | digest (c : Nat) (d : Option Det)
  | gather (c : Nat) (d : Option Det)
  | scatter (c : Nat) (d : Option Det)
  -- control entries
  | wait (c : Nat)
  | signal (c : Nat)
  | barrier (c : Nat)
  | stream (c : Nat)
  | loop (c : Nat)
  | param (c : Nat)
  | seqEnd (c : Nat)
  -- datapath events
  | tileAccumulationStart (c a : Nat)
  | accumulatorSwap (c a : Nat)
  | drainRow (c a : Nat) (d : Option Det)
  | drainRowToRing (c a : Nat) (d : Option Det := none)
  | drainQueueWrite (c a : Nat) (d : Option Det)
  | accumulatorPreload (c a : Nat)
  | invocationComplete (c : Nat)
  -- `outputs`, `counters` = what the test drained and the four conversion counters; `reported` = the row the unit's checker
  -- reports when `lastRow` is repeated with a bit inverted
  | knownAnswerTestComplete (c unit : Nat) (outputs counters : Bytes) (lastRow : Nat) (reported : Option Nat)
  -- Yarrow instructions
  | yarrowEnd (c x : Nat)
  | yarrowSetb (c x : Nat)
  | yarrowSets (c x : Nat)
  | yarrowLoop (c x : Nat)
  | yarrowEndl (c x : Nat)
  | yarrowMove (c x : Nat)
  | yarrowRel (c x : Nat)
  | yarrowWait (c x : Nat)
  | yarrowSignal (c x : Nat)
  | yarrowArrive (c x : Nat)
  | yarrowFence (c x : Nat)
  -- `k` = the MOVE's place among the core's MOVEs in flight; `taken` = flits the stream port has taken
  | moveComplete (c k : Nat) (d : Option Det := none)
  | flitArrival (c k taken : Nat) (d : Option Det)
  -- synchronisation messages; `k` = the message's place among those in flight
  | signalAtHome (k : Nat)
  | waitAtHome (k : Nat)
  | barrierArrival (k : Nat)
  | barrierReleaseBroadcast (k : Nat)
  | waiterResume (k : Nat)
  | waitBoundExpiry
  -- beats, runs, energy
  | beatBoundary (readings : Option Sample)
  | runStart (f : Nat)
  | planExceeded (f : Nat)
  | energyWindowCheck (metered : Nat)
  -- LPDDR5X
  | lpddrRequest (ctl owner port addr len : Nat) (data : Option Bytes)
  | lpddrSlotService (ctl pos : Nat) (d : Option Det)
  -- integrity
  | parCtrl (c : Nat) (reg bit : Nat)
  -- `result` = what the replay drained, what the arbiter computed
  | replayComplete (c unit : Nat) (d : Option Det) (result : Bytes := [])
  | arbitrationComplete (f arbiter : Nat) (passed : Bool) (result : Bytes)
  | replacementAfterFencing (f : Nat)
  | rollback (f : Nat)
  | tansyLogFlashWrite
  | epochVerdict (e : Nat)
  -- Bindweed
  | frameStart (p : Nat)
  | cellReceive (p : Nat) (cell : Bytes) (uncorrectable : Bool)
  | slotPublish (p channel : Nat)
  | marker (p : Nat) (phErr : BitVec 8) (beatJump : Nat)
  | markerTimeout
  | ack (p : Nat)
  | nak (p : Nat)
  | arrive (p : Nat)
  | releaseMessage (p : Nat)
  | credit (p : Nat)
  | epochClear (p : Nat)
  | poison (p : Nat)
  | echoReq (p turnaround : Nat)
  | echoRsp (p now : Nat)
  | lanes (p : Nat)
  | laneFailure (p lane reason : Nat)
  | retrainComplete (p : Nat) (ok : Bool) (good : BitVec 4 := 15)
  | portBringUp (p : Nat) (trainedLanes : BitVec 4)
  -- Ethernet and Teasel; `h` = export handle
  | ethernetFrameReceive (p : Nat) (frame : Bytes)
  | teaselAckSegment (p : Nat)
  | teaselRetransmitTimeout (h : Nat)
  | teaselPageMessage (h : Nat) (d : Option Det)
  | exportEnd (h : Nat)
  -- prefix directory; `host` = the request came by PREFIX_QUERY
  | lookup (f : Nat) (host : Bool)
  | attach (f : Nat) (host : Bool)
  | publish (f : Nat) (host : Bool)
  | release (f : Nat) (host : Bool)
  | pin (f : Nat) (host : Bool)
  | unpin (f : Nat) (host : Bool)
  | flush (f : Nat) (host : Bool)
  -- module mailbox commands
  | getInfo (f m : Nat)
  | getState (f m : Nat)
  | readLog (f m : Nat)
  | fenceUnit (f m : Nat)
  | unfenceUnit (f m : Nat)
  | runSelftest (f m : Nat) (fails : List KatOut)
  | setPowerStateDormant (f m : Nat)
  | dormantEntryComplete (f m : Nat)
  | setPowerStateOperational (f m : Nat)
  -- `bad` = restored state that fails its ECC check
  | wakeComplete (bad : List Det := [])
  | fwOpen (f m : Nat)
  | fwWrite (f m : Nat) (dma : Bytes)
  | fwCommit (f m : Nat)
  | fwAbort (f m : Nat)
  | getVersion (f m : Nat)
  | getCapabilities (f m : Nat)
  | negotiateAlgorithms (f m : Nat)
  | getDigests (f m : Nat)
  | getCertificate (f m : Nat)
  | challenge (f m : Nat)
  | getMeasurements (f m : Nat)
  | spdmUnsupportedRequest (f m : Nat)
  -- partition mailbox commands
  | partitionCreate (f m : Nat)
  | partitionDestroy (f m : Nat)
  | loadImage (f m : Nat) (dma : Option Bytes)
  | unloadImage (f m : Nat)
  | start (f m : Nat)
  | pause (f m : Nat)
  | pauseComplete (f : Nat)
  | pauseTimeout (f : Nat)
  | resume (f m : Nat)
  | stop (f m : Nat)
  | checkpointSave (f m : Nat)
  | checkpointRestore (f m : Nat)
  | setShapes (f m : Nat)
  | prefixQuery (f m : Nat)
  | kvExport (f m : Nat)
  -- registers and BARs; `off` = byte offset in the function's BAR, `n` = access size in bytes
  | registerWrite (f off n : Nat) (value : DWord)
  | registerReadClear (f off n : Nat)
  | hostBarAccess (f bar off len : Nat) (data : Option Bytes)
  | lpdTrnGo (f ctl : Nat) (value : Word) (trained : Bool)
  | chkInjGo (f c : Nat) (value : Word)
  | pwrBootClr (f : Nat) (value : Word)
  | msixEnable (f : Nat)
  | msixUnmask (f v : Nat)
  | ptmRequest
  | ptmResponse (utc : DWord)
  | flr (f : Nat)
  | flrComplete (f : Nat)
  | flrFunction0 (clearVfEnable : Bool)
  | hotReset (linkDisable : Bool)
  | ucieLinkTraining (ok0 ok1 at32 : Bool)
  | ucieLaneFailure (mdl : Nat)
  -- power, supply, cooling
  | powerOn
  -- `stands` = the condition of an overvoltage or thermal trip still stands
  | mainRailStart (stands : Bool := false)
  -- `boots` = what the boot and each boot after a failed start turn out to be
  | rootPllLock (boots : List BootIn)
  | watchdogExpiry (boots : List BootIn)
  | undervoltageTrip
  | overvoltageTrip
  | hardwareTrip (sensor : Nat)
  -- `lowNs` = how long MRST_N has been low; `risen` = it has risen again
  | mrstN (lowNs : Nat) (risen : Bool := true)
  | undervoltageRestart
  | supplyWarning (vin : BitVec 16)
  | ref100Lost
  | ref156Lost (n : Nat)
  | referenceRestored (n : Nat)
  | temperatureWarning (sensor : Nat) (value : BitVec 16)
  | thermalHalt (sensor : Nat) (value : BitVec 16)
  | thermalHaltEnd
  | coolantWarning (inlet : BitVec 16) (flow : BitVec 16)
  | coolantHalt (inlet : BitVec 16) (flow : BitVec 16) (sensorsFailed : Bool)
  | sensorFailure (sensor : Nat)
  -- PMBus
  | clearFaults
  | statusWord
  | statusInput
  | statusTemperature
  | readVin
  | readIin
  | readPin
  | readTemperature1
  | readTemperature2
  | pmbusRevision
  | mfrId
  | mfrModel
  | mfrSerial
  | pmbusUnsupportedCommand (code : Nat)
  | pmbusSclTimeout
  -- I3C
  | setdasa (static dynamic : BitVec 7)
  | i3cPrivateRead (off : Nat)
  | i3cPrivateWrite (off : Nat) (data : Bytes)
  | i3cIdleTimeout
  -- supply end, SR-IOV
  | standbyDomainOff
  | vfEnable (numVfs : Nat)
deriving DecidableEq, Repr

end Sys2Proof
end

