-- ==== Sys2Proof/Config.lean ====
section
/-! DEFINITION. What an implementation fixes and the free values: constants with no body, so that nothing can be
proved of a value the spec leaves open. Each is named in a row of the assumption log. -/

namespace Sys2Proof.Config

/-- Number of cores (01_module.md R15, R17). -/
def numCores : Nat := 25600

/-- Number of plots (01_module.md R18). -/
def numPlots : Nat := 64

/-- Number of virtual functions (12_host.md R340). -/
def numVfs : Nat := 16

/-- FREE: the bytes an entry or MOVE abandoned by STOP leaves ('their outputs are undefined', 12_host.md R358), by
the free-value counter and the byte's device address (log 9). -/
opaque abandonedByte : Nat → Nat → Byte

/-- FREE: the bytes of a ring slot or ring counter after two agents published to one ring (06_streams.md R165,
log 9). -/
opaque brokenRing : Nat → BitVec 16

/-- FREE: the modulus and the private exponent of the identity key (15_power_boot.md R419: the private key never leaves the
security root, log 15). -/
opaque identityModulus : Nat
opaque identityExponent : Nat

/-- FREE: the salt of a signature, by the free-value counter (log 15). -/
opaque signSalt : Nat → Bytes

/-- FREE: the certificates of the one-time-programmable store in DER (15_power_boot.md R419, log 15): 0 the Celninum root,
1 the Birdothal intermediate, 2 and 3 what stands before and after the serial number in the module certificate. -/
opaque certificate : Nat → Bytes

/-- FREE: the SHA-512 measurement of the Sorrel ROM and of a factory firmware image, by measurement index
(15_power_boot.md R421, log 15). -/
opaque measurement : Nat → Bytes

/-- FREE: the drained outputs and four counters from which the table of the Sorrel firmware has a known-answer vector's
expected signature (11_integrity.md R316, log 9), by the unit (0 A0, 1 A1, 2 vector, 3 pooling, 4 resize) and the vector. -/
opaque katResult : Nat → Nat → Bytes

/-- FREE: a nonce the responder draws (15_power_boot.md R420, log 15), by the free-value counter. -/
opaque nonce : Nat → Bytes

/-- FREE: the vendor identifier of the PCI-SIG (12_host.md R340). -/
opaque vendorId : BitVec 16

/-- FREE: whether an MRST_N pulse of 1 to 10 microseconds resets the module ('may or may not', 14_module_hw.md
R396, log 9), by the free-value counter. -/
opaque pulseResets : Nat → Bool

/-- FREE: which telemetry word a 2-byte I3C offset names ('returns the TEL_ and PWR_ telemetry registers', 14_module_hw.md
R403, log 9). -/
opaque i3cIndex : Nat → Nat

/-- FREE: which 4 KiB of the module reserve hold a table of a function's translation ('all tables lie in the module
reserve', 13_memory.md R379, log 9), by function and table. -/
opaque tablePage : Nat → Nat → Nat

/-- FREE: the columns of the SECDED code over a granule of scratch ('a SECDED code with 9 check bits', 11_integrity.md R313,
log 9). -/
opaque eccColumn : Nat → BitVec 9

/-- FREE: a result the spec does not state for the operands given (log 9), by the free-value counter. -/
opaque freeWord : Nat → BitVec 64

end Sys2Proof.Config
end

