-- ==== Sys2Proof/Machine/Exact.lean ====
section
/-! DEFINITION. Exact values: the numbers the arithmetic of 03_arithmetic.md never rounds. A magnitude is a rational
num / den × 2^exp, never normalised, so that nothing is lost and every operation is plain integer arithmetic. -/

namespace Sys2Proof.Machine

/-- An exact rational number num / den × 2^exp; den is never 0 in a value the model builds. -/
structure Q where
  num : Int
  den : Nat
  exp : Int
deriving DecidableEq, Repr

/-- The exact zero. -/
def Q.zero : Q := { num := 0, den := 1, exp := 0 }

/-- The integer n. -/
def Q.ofInt (n : Int) : Q := { num := n, den := 1, exp := 0 }

/-- 2^e. -/
def Q.pow2 (e : Int) : Q := { num := 1, den := 1, exp := e }

/-- m × 2^e. -/
def Q.dy (m e : Int) : Q := { num := m, den := 1, exp := e }

/-- n × 2^k for k ≥ 0, n unchanged for k < 0. -/
def shlInt (n : Int) (k : Int) : Int := n * (2 ^ k.toNat : Nat)

/-- Product of two exact numbers. -/
def Q.mul (a b : Q) : Q := { num := a.num * b.num, den := a.den * b.den, exp := a.exp + b.exp }

/-- Negation. -/
def Q.neg (a : Q) : Q := { a with num := -a.num }

/-- Magnitude. -/
def Q.abs (a : Q) : Q := { a with num := (a.num.natAbs : Int) }

/-- Sum: both operands are brought to the smaller exponent, and to a common denominator where they differ. -/
def Q.add (a b : Q) : Q :=
  let e := min a.exp b.exp
  let na := shlInt a.num (a.exp - e)
  let nb := shlInt b.num (b.exp - e)
  if a.den = b.den then { num := na + nb, den := a.den, exp := e }
  else { num := na * b.den + nb * a.den, den := a.den * b.den, exp := e }

/-- Difference. -/
def Q.sub (a b : Q) : Q := a.add b.neg

/-- Quotient; only called with b ≠ 0. -/
def Q.div (a b : Q) : Q :=
  { num := a.num * b.den * b.num.sign, den := a.den * b.num.natAbs, exp := a.exp - b.exp }

/-- a = 0. -/
def Q.isZero (a : Q) : Bool := a.num == 0

/-- a < 0. -/
def Q.isNeg (a : Q) : Bool := decide (a.num < 0)

/-- a < b. -/
def Q.lt (a b : Q) : Bool := (a.sub b).isNeg

/-- a ≤ b. -/
def Q.le (a b : Q) : Bool := !(b.lt a)

/-- The binade e of a non-zero a: 2^e ≤ |a| < 2^(e+1). -/
def Q.binade (a : Q) : Int :=
  let n := a.num.natAbs
  let g : Int := (Nat.log2 n : Int) - (Nat.log2 a.den : Int)
  -- 2^(g-1) < n/den < 2^(g+1)
  let atLeast : Bool := if 0 ≤ g then decide (a.den * 2 ^ g.toNat ≤ n) else decide (a.den ≤ n * 2 ^ (-g).toNat)
  a.exp + (if atLeast then g else g - 1)

/-- How a magnitude that is not on the grid is placed on it. -/
inductive RMode where
  | nearestEven
  | nearestAway
  | towardZero
  | awayFromZero
deriving DecidableEq, Repr

/-- |a| divided by 2^q, rounded to an integer by the mode. -/
def Q.roundMag (a : Q) (q : Int) (md : RMode) : Nat :=
  let n := a.num.natAbs
  let s := a.exp - q
  let N := if 0 ≤ s then n * 2 ^ s.toNat else n
  let D := if 0 ≤ s then a.den else a.den * 2 ^ (-s).toNat
  let k := N / D
  let r := N % D
  match md with
  | .towardZero => k
  | .awayFromZero => if r = 0 then k else k + 1
  | .nearestAway => if 2 * r < D then k else k + 1
  | .nearestEven => if 2 * r < D then k else if D < 2 * r then k + 1 else if k % 2 = 0 then k else k + 1

/-- a rounded to p significant bits, exponent range unbounded (the first step of every rounding, 02_formats.md R55,
03_arithmetic.md R74). -/
def Q.roundSig (a : Q) (p : Nat) (md : RMode) : Q :=
  if a.isZero then Q.zero
  else
    let q := a.binade - ((p : Int) - 1)
    Q.dy (a.num.sign * (a.roundMag q md : Int)) q

/-- a rounded to an integer multiple of 2^q. -/
def Q.roundFix (a : Q) (q : Int) (md : RMode) : Q := Q.dy (a.num.sign * (a.roundMag q md : Int)) q

/-- floor(a) as an integer. -/
def Q.floor (a : Q) : Int :=
  let d : Int := a.den
  if 0 ≤ a.exp then Int.fdiv (a.num * (2 ^ a.exp.toNat : Nat)) d
  else Int.fdiv a.num (d * (2 ^ (-a.exp).toNat : Nat))

/-- A value in flight: NaN (its FP32 form, and whether it is signalling), infinity, signed zero, or a non-zero
rational. -/
inductive Val where
  | nan (bits : BitVec 32) (signalling : Bool)
  | inf (neg : Bool)
  | zero (neg : Bool)
  | fin (q : Q)
deriving DecidableEq, Repr

/-- The exact number of a finite value; 0 for the others. -/
def Val.toQ : Val → Q
  | .fin q => q
  | _ => Q.zero

/-- NaN test. -/
def Val.isNaN : Val → Bool
  | .nan _ _ => true
  | _ => false

/-- Infinity test. -/
def Val.isInf : Val → Bool
  | .inf _ => true
  | _ => false

/-- Zero test. -/
def Val.isZero : Val → Bool
  | .zero _ => true
  | _ => false

/-- The value's sign bit. -/
def Val.sign : Val → Bool
  | .nan b _ => b.msb
  | .inf n => n
  | .zero n => n
  | .fin q => q.isNeg

/-- An exact number as a value; an exact zero takes the sign given. -/
def Val.ofQ (q : Q) (negZero : Bool) : Val := if q.isZero then .zero negZero else .fin q

/-- |v|, a NaN's sign cleared too. -/
def Val.abs : Val → Val
  | .nan b s => .nan (b &&& 0x7FFF_FFFF#32) s
  | .inf _ => .inf false
  | .zero _ => .zero false
  | .fin q => .fin q.abs

/-- −v, a NaN's sign inverted too. -/
def Val.negate : Val → Val
  | .nan b s => .nan (b ^^^ 0x8000_0000#32) s
  | .inf n => .inf (!n)
  | .zero n => .zero (!n)
  | .fin q => .fin q.neg

/-- v with the sign given. -/
def Val.withSign (v : Val) (neg : Bool) : Val := if neg then v.abs.negate else v.abs

/-- v < w for two values that are no NaN; zeros of either sign are equal. -/
def Val.lt (v w : Val) : Bool :=
  match v, w with
  | .nan _ _, _ => false
  | _, .nan _ _ => false
  | .inf a, .inf b => a && !b
  | .inf a, _ => a
  | _, .inf b => !b
  | v, w => v.toQ.lt w.toQ

/-- v = w for two values that are no NaN. -/
def Val.eqv (v w : Val) : Bool := !v.isNaN && !w.isNaN && !v.lt w && !w.lt v

end Sys2Proof.Machine
end

