-- ==== Sys2Proof/Machine/State.lean ====
section
/-! DEFINITION. The state of the module, as plain data. Registers live in ONE list keyed by device address
(Machine/RegMap.lean names them); scratch and LPDDR5X bytes in ONE list of cells keyed by device address; everything
the spec gives the machine beside them has a field here. Sparse lists hold strictly ascending keys and no entry equal
to what an unlisted key reads as. -/

namespace Sys2Proof.Machine

/-- Why a step stops with a fault. -/
inductive Fault where
  /-- Raised by every meaning that names a unit the module does not have (a core id of 25,600 or more, an array other
  than 0 and 1, a stream context above 3, a port above 15, a function above 16, a mailbox above 3, a controller above
  15): 01_module.md R15 says no such unit exists. Safe: the hardware cannot be sent the command. -/
  | noSuchUnit
deriving DecidableEq, Repr

/-- Why a step has no meaning. -/
inductive Refusal where
  /-- Raised by exec's arms for a command without a meaning yet. Safe: nothing is said of the command. -/
  | notModelled (mnemonic : String)
deriving DecidableEq, Repr

/-! ## Cores -/

/-- An array tile of the walk (05_step_tables.md R134); CONV uses b1 for its batch. -/
structure Tile where
  b2 : Nat
  b1 : Nat
  mt : Nat
  nt : Nat
deriving DecidableEq, Repr

/-- One accumulator: the FP32 word and the X32 error word (04_core.md R104), with the tags and strict flags its
element carries (03_arithmetic.md R74, R78), and the residues that the datapath carried beside the two words
(11_integrity.md R311). flags: bit 3 invalid, 2 overflow, 1 underflow, 0 inexact. -/
structure Acc where
  s : Word
  e : Word
  ovf : Bool
  flush : Bool
  flags : BitVec 4
  sRes : Nat
  eRes : Nat
deriving DecidableEq, Repr

/-- The accumulator at +0. -/
def Acc.clear : Acc := { s := 0, e := 0, ovf := false, flush := false, flags := 0, sRes := 0, eRes := 0 }

/-- The four conversion counters (02_formats.md R67), holding at 0xFFFF_FFFF. -/
structure Counters where
  sat : Nat
  flush : Nat
  nan : Nat
  ovf : Nat
deriving DecidableEq, Repr

/-- No count. -/
def Counters.zero : Counters := { sat := 0, flush := 0, nan := 0, ovf := 0 }

/-- A finished output row in the drain queue (04_core.md R108): the runs of bytes it writes, each with its core-local
byte address (with ROUTE = 1, its offset in the slot). -/
structure QRow where
  tile : Tile
  row : Nat
  puts : List (Nat × Bytes)
deriving DecidableEq, Repr

/-- A replay in progress or an escalation (11_integrity.md R319, R322): which replay runs (1 or 2), the unit of the
core it concerns (0 A0, 1 A1, 2 vector unit), the unit named by R330, the place of the replay unit, whether CHK_INJECT
caused it, and the records of its detections, complete but for SEQNO, disposition and CRC, each with whether that
detection made the unit permanent (R424). -/
structure Replay where
  attempt : Nat
  dp : Nat
  uclass : Nat
  uid : Nat
  tile : Tile
  injected : Bool
  pend : List (Bytes × Bool)
deriving DecidableEq, Repr

/-- One array: accumulator sets, drain, queue (04_core.md R104-R108). An empty row list stands for 32 rows at +0. -/
structure ArrState where
  /-- the first tile of the walk not started yet -/
  next : Option Tile
  live : List (List Acc)
  liveTile : Option Tile
  /-- decode counts of the live tile (03_arithmetic.md R77), taken by the invocation as the tile drains -/
  liveCnt : Counters
  shadow : List (List Acc)
  shadowTile : Option Tile
  shadowCnt : Counters
  drained : Nat
  preloaded : Nat
  queue : List QRow
  ringWait : Nat          -- ROUTE = 1: 0 none, 1 WAIT issued, 2 released (06_streams.md R173)
  replay : Option Replay
  armed : Bool            -- CHK_INJ_GO has armed the next replay unit
deriving DecidableEq, Repr

/-- An idle array. -/
def ArrState.reset : ArrState :=
  { next := none, live := [], liveTile := none, liveCnt := Counters.zero, shadow := [], shadowTile := none,
    shadowCnt := Counters.zero, drained := 0, preloaded := 0,
    queue := [], ringWait := 0, replay := none, armed := false }

/-- The invocation in progress: what it latched in its first cycle (02_formats.md R64, 03_arithmetic.md R91,
05_step_tables.md R130, R149) and what it has gathered since. -/
structure Invocation where
  entry : BitVec 512
  index : Nat
  /-- runtime extents, in the order of the opcode's shape words -/
  ext : List Nat
  klen : Int
  qbase : Int
  kbase : Int
  sa : Word
  sb : Word
  /-- output scale S -/
  scale : Word
  /-- the eight words of the extension block -/
  extw : List Word
  cnt : Counters
  flags : BitVec 4
  skipped : Nat
  /-- largest finite magnitude converted so far -/
  amax : Q
  invoc : Nat
  startBeat : Nat
  /-- replay units (vector, pooling, resize) already written -/
  units : Nat
  /-- all outputs written -/
  workDone : Bool
  /-- a zero extent: it waits for its planned duration only (05_step_tables.md R152, R153) -/
  zero : Bool
deriving DecidableEq, Repr

/-- An open loop of the step table (05_step_tables.md R144, R145); limit and index stand in SEQ_LOOPn. -/
structure LoopFrame where
  entry : Nat
  len : Nat
  count : Nat
  keep : Bool
deriving DecidableEq, Repr

/-- Where the bytes of a MOVE go. -/
inductive MoveDst where
  /-- device address in the scratch window -/
  | scratch (addr : Nat)
  /-- translated: device-address segments, each with its length -/
  | virt (segs : List (Nat × Nat))
  /-- ring of a core, with the offset in the slot -/
  | ring (core ring off : Nat)
  /-- transmit queue of a port, on a channel -/
  | link (port channel : Nat)
deriving DecidableEq, Repr

/-- A MOVE in flight (06_streams.md R179): its context, destination, bytes not yet delivered and already arrived. -/
structure Move where
  ctx : Nat
  pc : Nat
  flow : Nat
  dst : MoveDst
  dstCore : Nat
  data : Bytes
  /-- flits injected so far -/
  done : Nat
  pub : Bool
  /-- the beat of its first flit (11_integrity.md R310), of its issue until then -/
  beat : Nat
  /-- the pages it was translated under: virtual base and size (13_memory.md R381) -/
  pages : List (Nat × Nat)
  /-- core and offset of a source in scratch (01_module.md R20) -/
  src : Option (Nat × Nat) := none
  /-- flits with bytes of an uncorrectable block: their parity is inverted (13_memory.md R374) -/
  spoilt : List Nat := []
deriving DecidableEq, Repr

/-- One stream context (06_streams.md R176). STR_CTXc holds its program, PC, and state bits. -/
structure CtxState where
  args : List Word
  lc : List Nat
  lim : List Nat
  active : List Bool
  kind : List Nat
  base : List Nat
  stride : List (List Int)
  /-- the instruction that issued the pending wait or arrival -/
  waiting : Bool
deriving DecidableEq, Repr

/-- A free context. -/
def CtxState.reset : CtxState :=
  { args := List.replicate 4 0, lc := List.replicate 8 0, lim := List.replicate 8 0, active := List.replicate 8 false,
    kind := List.replicate 8 0, base := List.replicate 8 0, stride := List.replicate 8 (List.replicate 8 0),
    waiting := false }

/-- The state of a core that has no register and no address: its control storage and datapath (01_module.md R21). -/
structure CoreState where
  steps : List (BitVec 512)
  durs : List Nat
  progs : List (List DWord)
  inv : Option Invocation
  loops : List LoopFrame
  /-- the sequencer's WAIT or BARRIER has been issued -/
  seqWaiting : Bool
  /-- the sequencer has executed END in this run -/
  ended : Bool
  /-- who published to, and who released, each ring in this run (06_streams.md R165): ring, then kind (0 sequencer,
  1 drain path, 2 program, 3 link receiver), core or port, program or channel -/
  ringPub : List (Nat × Nat × Nat × Nat)
  ringRel : List (Nat × Nat × Nat × Nat)
  arr0 : ArrState
  arr1 : ArrState
  /-- replay of a vector, pooling or resize unit -/
  vecReplay : Option Replay
  vecArmed : Bool
  ctxs : List CtxState
  moves : List Move
  /-- flits held in the inbound queue: the device address of each and its bytes -/
  inq : List (Nat × Bytes)
  /-- translation cache: virtual page base, log2 size, device base, write permission; most recent first -/
  tlb : List (Nat × Nat × Nat × Bool)
  /-- arbiters already tried, the unit an escalation concerns, and the result its second replay drained
  (11_integrity.md R322) -/
  arbTried : Nat
  escalated : Option Replay
  kept : Bytes
  /-- start beat of the control entry in progress -/
  entryBeat : Nat
  /-- for each of the five units: beat of its latest passing known-answer test, beat of its latest test, tests run
  (11_integrity.md R314, R316) -/
  katAt : List Nat
  katTry : List Nat
  katRun : List Nat
deriving DecidableEq, Repr

/-- A core with no image. -/
def CoreState.reset : CoreState :=
  { steps := [], durs := [], progs := [], inv := none, loops := [], seqWaiting := false, ended := false, ringPub := [],
    ringRel := [], arr0 := ArrState.reset,
    arr1 := ArrState.reset, vecReplay := none, vecArmed := false, ctxs := List.replicate 4 CtxState.reset, moves := [],
    inq := [], tlb := [], arbTried := 0, escalated := none, kept := [], entryBeat := 0, katAt := List.replicate 5 0,
    katTry := List.replicate 5 0, katRun := List.replicate 5 0 }

/-! ## Synchronisation -/

/-- An agent that waits, signals or arrives (06_streams.md R158, R159). -/
inductive Agent where
  | seq (core : Nat)
  | drain (core arr : Nat)
  | ctx (core x : Nat)
  | bind (port channel : Nat)
  | dir (func : Nat)
  /-- a remote barrier participant, by the port its arrival came on -/
  | port (port : Nat)
deriving DecidableEq, Repr

/-- A queued waiter or a held participant: the amount it waits for and the beat boundaries left of its bound
(06_streams.md R166); none = no bound (08_attention.md R239). -/
structure Waiter where
  agent : Agent
  n : Nat
  left : Option Nat
deriving DecidableEq, Repr

/-- A synchronisation message in flight (06_streams.md R162); `obj` is a physical object number. -/
inductive SyncMsg where
  /-- `pos` is the entry or instruction that issued it: an entry's index, or program × 32 + PC -/
  | sig (obj n : Nat) (agent : Agent) (pos : Nat)
  | wait (obj : Nat) (w : Waiter)
  | arr (obj : Nat) (w : Waiter)
  /-- a plot unit's combined arrival (06_streams.md R161) -/
  | comb (obj plot share : Nat)
  /-- a home's release broadcast to a plot unit -/
  | bcast (obj plot : Nat)
  /-- a release on its way to its agent -/
  | rel (agent : Agent)
deriving DecidableEq, Repr

/-- What a synchronisation object holds beside its registers. -/
structure ObjState where
  init : Nat
  queue : List Waiter
  /-- participants held by the barrier, with their bounds -/
  held : List Waiter
  /-- participants counted per plot in this generation -/
  localCnt : List (Nat × Nat)
  /-- participants the image places in each plot -/
  shares : List (Nat × Nat)
  remote : Nat
  /-- PROXY: port and object of the home -/
  home : Option (Nat × Nat)
  /-- ports that brought an arrival in this generation -/
  ports : List Nat
  /-- PROXY: the arrival has been sent to the home -/
  sent : Bool
deriving DecidableEq, Repr

/-- An unused object. -/
def ObjState.reset : ObjState :=
  { init := 0, queue := [], held := [], localCnt := [], shares := [], remote := 0, home := none, ports := [],
    sent := false }

/-! ## Images and partitions -/

/-- A flow record (09_schedules.md R249). -/
structure Flow where
  id : Nat
  srcKind : Nat
  dstKind : Nat
  src : Nat
  dst : Nat
  phases : BitVec 256
deriving DecidableEq, Repr

/-- An object record (09_schedules.md R250). -/
structure ObjRec where
  obj : Nat
  typ : Nat
  proxy : Bool
  bound : Nat
  init : Nat
  p : Nat
  remote : Nat
  homePort : Nat
  homeObj : Nat
deriving DecidableEq, Repr

/-- The data an image holds for one logical core (09_schedules.md R246). -/
structure LCore where
  steps : List (BitVec 512)
  durs : List Nat
  progs : List (List DWord)
  rings : List (Word × Word × Word)
  slots : List (Nat × Word × Word)
  shapes : List Word
  scratch : List (Nat × Bytes)
deriving DecidableEq, Repr

/-- The cache geometry (08_attention.md R220). -/
structure Geometry where
  l : Nat
  h : Nat
  d : Nat
  efmt : Nat
  re : Nat
  rx : Nat
  pmax : Nat
  tmax : Nat
  nseq : Nat
  seqBase : Nat
  seqStride : Nat
  seed : DWord
  qva : Nat
  qlen : Nat
  req : Nat
  rsp : Nat
  sscale : List Word
deriving DecidableEq, Repr

/-- The domain record (09_schedules.md R262). -/
structure Domain where
  id : Nat
  nmemb : Nat
  member : Nat
  upport : Nat
  depth : Nat
  ldmax : List Nat
deriving DecidableEq, Repr

/-- A transmit record and a receive record of a link plan (10_links.md R290). -/
structure TxRec where
  channel : Nat
  send : Nat
  flow : Nat
  pos : BitVec 192
deriving DecidableEq, Repr

/-- A receive binding of a link plan (10_links.md R290). -/
structure RxRec where
  channel : Nat
  lcore : Nat
  ring : Nat
  flow : Nat
deriving DecidableEq, Repr

/-- The plan of one port (10_links.md R290). -/
structure PortPlan where
  port : Nat
  profile : Nat
  tx : List TxRec
  rx : List RxRec
deriving DecidableEq, Repr

/-- A schedule image, parsed (09_schedules.md R245-R262). -/
structure Image where
  imageId : DWord
  nvar : Nat
  length : Nat
  planBeats : Nat
  plots : Nat
  cores : List LCore
  objs : List ObjRec
  /-- barrier participants: object, agent code, logical core -/
  parts : List (Nat × Nat × Nat)
  place : List (List Nat)
  flows : List (List Flow)
  peak : Nat
  energy : List Nat
  cache : Option Geometry
  domain : Option Domain
  hasLink : Bool
  plan : List PortPlan
deriving DecidableEq, Repr

/-- What one checkpoint generation holds of a logical core (13_memory.md R383). -/
structure CoreSnap where
  regs : List (Nat × DWord)
  scratch : List (Nat × Byte)
  core : CoreState
deriving DecidableEq, Repr

/-- One checkpoint generation (13_memory.md R383, 11_integrity.md R327). -/
structure Ckpt where
  gen : Nat
  began : Nat
  /-- epochs of data sent (2e) and received (2e + 1) before, that have not cleared -/
  pendingEpochs : List Nat
  beatsRun : Nat
  /-- where the directory engine stands in the schedule queue -/
  qidx : Nat
  qwait : Nat
  cores : List CoreSnap
  /-- relative object, CFG, STATE, WAITERS words and object state -/
  objs : List (Nat × Word × Word × Word × ObjState)
deriving DecidableEq, Repr

/-- Partition states (12_host.md R361). -/
inductive PState where
  | empty
  | ready
  | loaded
  | running
  | paused
  | faulted
deriving DecidableEq, Repr

/-- Why a partition is stopping at its next step boundaries. -/
inductive PauseWhy where
  /-- a PAUSE command of function f, mailbox m -/
  | command (f m : Nat)
  /-- a fencing (09_schedules.md R255) -/
  | fence
  /-- a thermal halt (15_power_boot.md R418) -/
  | halt
deriving DecidableEq, Repr

/-- The first fault of a partition's run (12_host.md R355). -/
structure FirstFault where
  cause : Nat
  lcore : Nat
  pc : Nat
deriving DecidableEq, Repr

/-- A pending directory request by PREFIX_QUERY: the function it acts on, the function and mailbox that issued it, and
the record. -/
structure DirReq where
  func : Nat
  issuer : Nat
  mbox : Nat
  record : Bytes
deriving DecidableEq, Repr

/-- A page of a partition's virtual space (13_memory.md R379, R380): virtual base, log2 of the page size, device base,
permissions to read and to write. -/
structure Mapping where
  va : Nat
  size : Nat
  pa : Nat
  r : Bool
  w : Bool
deriving DecidableEq, Repr

/-- A partition, by the function that owns it (12_host.md R344). -/
structure Partition where
  st : PState
  plots : DWord
  memgib : Nat
  lslots : Nat
  hostw : Nat
  ports : BitVec 16
  engine : Nat
  portcfg : List Nat
  power : Nat
  dirquota : Nat
  /-- SHARE_SCHED, SHARE_HOST, TSLRATE0, TSLRATE1 as given at PARTITION_CREATE (12_host.md R356, 00_scope.md R14) -/
  shares : List Nat
  rates : List Nat
  poolmib : Nat
  /-- chunks in draw order: controller and chunk index (13_memory.md R377) -/
  chunks : List (Nat × Nat)
  /-- the entries of the translation tables that are not 0, each by its level and index (13_memory.md R379;
  Machine/Translate.lean pteKey) -/
  maps : List (Nat × DWord)
  image : Option Image
  variant : Nat
  startBeat : Nat
  /-- the run's sequencers have begun entry 0 -/
  started : Bool
  beatsRun : Nat
  planLogged : Bool
  pausing : Option PauseWhy
  /-- the halt that pauses it: event code, sensor id and value (14_module_hw.md R401) -/
  halted : Option (Nat × Nat × Nat)
  pauseBeats : Nat
  fault : Option FirstFault
  cancelled : Nat
  ckpts : List Ckpt
  nextGen : Nat
  /-- epochs in which ports or Teasel carried the partition's data, not yet judged; and those received, each as
  16 × epoch + port -/
  sentEpochs : List Nat
  recvEpochs : List Nat
  /-- taint start of an uncontained detection whose rollback is due -/
  taint : Option Nat
  /-- the receipt of a POISON whose rollback is due: 16 × its epoch + port -/
  poisonedBy : Option Nat
  /-- every taint start with the beat at which the partition stopped sending, all ones until then (11_integrity.md R324) -/
  taints : List (Nat × Nat)
  /-- beat at which the first slot of each received epoch was published, by 16 × epoch + port -/
  recvAt : List (Nat × Nat)
  /-- a variant change is due after the pause -/
  replace : Bool
  measurement : Bytes
  /-- START, RESUME or restore has happened since the latest translation fault was recorded -/
  fltOpen : Bool
deriving DecidableEq, Repr

/-- No partition. -/
def Partition.reset : Partition :=
  { st := .empty, plots := 0, memgib := 0, lslots := 0, hostw := 0, ports := 0, engine := 0, portcfg := [], power := 0,
    dirquota := 0, shares := [], rates := [], poolmib := 0, chunks := [], maps := [], image := none, variant := 0xFF, startBeat := 0,
    started := false, beatsRun := 0, planLogged := false, pausing := none, halted := none, pauseBeats := 0, fault := none,
    cancelled := 0, ckpts := [], nextGen := 0, sentEpochs := [], recvEpochs := [], taint := none, poisonedBy := none, taints := [], recvAt := [],
    replace := false, measurement := [], fltOpen := true }

/-! ## Host side -/

/-- SPDM connection of a function (15_power_boot.md R420): how far it has come, and its transcripts. -/
structure Spdm where
  version : Bool
  caps : Bool
  algs : Bool
  /-- messages so far, for signatures: version to algorithms, then digests and certificates, then measurements -/
  vca : Bytes
  certs : Bytes
  meas : Bytes
deriving DecidableEq, Repr

/-- A latched request page (12_host.md R347), its number in the order in which GO writes are accepted, and whether its
execution has begun (R351). -/
structure Latched where
  bytes : Bytes
  order : Nat
  begun : Bool
deriving DecidableEq, Repr

/-- What a function holds beside its MBX_ registers (12_host.md R340, R347). -/
structure Func where
  bme : Bool
  msixEn : Bool
  /-- latched request pages of the busy mailboxes -/
  latched : List (Nat × Latched)
  spdm : Spdm
  /-- the host path's translation cache, as a core's (13_memory.md R381) -/
  tlb : List (Nat × Nat × Nat × Bool)
  /-- configuration registers that were written, by offset (12_host.md R340, R342, log 22) -/
  cfg : List (Nat × Nat)
deriving DecidableEq, Repr

/-- A function after reset. -/
def Func.reset : Func :=
  { bme := false, msixEn := false, latched := [],
    spdm := { version := false, caps := false, algs := false, vca := [], certs := [], meas := [] }, tlb := [], cfg := [] }

/-! ## Links -/

/-- A control message (10_links.md R277), with the beat it was issued in. -/
structure CtlMsg where
  mtype : Nat
  id : Nat
  arg0 : Nat
  arg1 : Nat
  beat : Nat
deriving DecidableEq, Repr

/-- Data of one MOVE or Teasel slot waiting in a transmit queue (10_links.md R284). -/
structure TxItem where
  channel : Nat
  data : Bytes
  last : Bool
  epoch : Nat
  teasel : Option Nat
deriving DecidableEq, Repr

/-- A slot on a bound channel at the receiving end (10_links.md R285): WAIT on FREE issued (1) and released (2), LAST
received, and the beat from which it is published. -/
structure RxChan where
  channel : Nat
  core : Nat
  ring : Nat
  func : Nat
  got : Bytes
  epochs : List Nat
  wait : Nat
  complete : Bool
  dueBeat : Nat
deriving DecidableEq, Repr

/-- A published slot whose CREDIT has not been issued (10_links.md R286, R293). -/
structure HeldSlot where
  channel : Nat
  epochs : List Nat
  freed : Bool
deriving DecidableEq, Repr

/-- A link port beside its LNK_ registers. -/
structure PortState where
  func : Nat
  txq : List TxItem
  /-- frames sent and not acknowledged: frame number and its cells, idle ones left out -/
  replayBuf : List (Nat × List Bytes)
  /-- cells waiting to be retransmitted, REPLAY set -/
  replayQ : List Bytes
  /-- next frame number that FRAME_START may send, and the plan position a stretched plan stands at -/
  txFrame : Nat
  planPos : Nat
  /-- bytes of Teasel cells sent in the latest frame -/
  tslBytes : Nat
  msgs : List CtlMsg
  /-- messages received: `beat` is the beat from which each may be applied -/
  inbox : List CtlMsg
  /-- slots being received or not published yet, oldest first -/
  rx : List RxChan
  held : List HeldSlot
  /-- epochs received as cleared, and as poisoned, each with the beat of its notice -/
  cleared : List (Nat × Nat)
  poisoned : List (Nat × Nat)
  /-- highest frame received complete and in order; the frame of the latest cell accepted, the cells accepted of it, the
  cells arrived in the frame in progress; the frame a bad cell was in, and the replayed cells passed over since -/
  ackFrame : Nat
  rxFrame : Nat
  rxCount : Nat
  rxPos : Nat
  badFrame : Option Nat
  rxSkip : Nat
  /-- cells are being replayed, or may be after a retrain; the control cell 0 sent ahead of them; slots' last cells that came
  after a bad cell, as their replay will bring them, and the beat of the frame each was sent in (10_links.md R279, R281) -/
  rxReplay : Bool
  rxAhead : Option Bytes
  rxSeen : List (Bytes × Nat)
  /-- NAKs received, and NAKs sent, for each frame that is still open -/
  nakCounts : List (Nat × Nat)
  nakSent : List (Nat × Nat)
  lastProgress : Nat
  echoes : List Nat
  /-- ECHO_REQ still to send after a bring-up or retrain (10_links.md R289) -/
  echoLeft : Nat
  echoSeq : Nat
  lanesOk : BitVec 4
  /-- lanes that failed training at the latest bring-up (11_integrity.md R329) -/
  laneFails : BitVec 4
  peerLanes : Option (Nat × Nat)
  /-- widest width the port may take until it is brought up with no partition on it active (10_links.md R282) -/
  widest : Nat
  /-- every lane is tested again in the retrain in progress (10_links.md R280) -/
  retest : Bool
  /-- epochs whose data the port carried, not yet judged -/
  epochs : List Nat
  /-- segments received in Ethernet mode and not yet taken -/
  ethIn : List Bytes
  /-- data read for segments sent without HOLD: epoch, function and descriptor of the export (10_links.md R297) -/
  ethSent : List (Nat × Nat × Bytes)
  /-- acceptance number of the export whose page message was the latest of the port (10_links.md R301) -/
  tslTurn : Nat
  downSince : Nat
deriving DecidableEq, Repr

/-- An idle port. -/
def PortState.reset : PortState :=
  { func := 0x1F, txq := [], replayBuf := [], replayQ := [], txFrame := 0, planPos := 1, tslBytes := 0, msgs := [],
    inbox := [], rx := [], held := [], cleared := [], poisoned := [], ackFrame := 0, rxFrame := 0, rxCount := 0, rxPos := 0,
    badFrame := none, rxSkip := 0, rxReplay := false, rxAhead := none, rxSeen := [], nakCounts := [], nakSent := [], lastProgress := 0, echoes := [], echoLeft := 0, echoSeq := 0,
    lanesOk := 0xF, laneFails := 0, peerLanes := none, widest := 4, retest := false, epochs := [], ethIn := [], ethSent := [],
    tslTurn := 0, downSince := 0 }

/-- A Teasel export (10_links.md R298-R306), by handle. -/
structure Export where
  func : Nat
  desc : Bytes
  /-- cache geometry of the image loaded when it was accepted -/
  geom : Option Geometry
  /-- pages referenced -/
  pages : List Nat
  nextPage : Nat
  totalPages : Nat
  /-- bytes of page messages not yet cut into segments or slots, each run with the epoch it was read in -/
  buf : List (Nat × Bytes)
  /-- frames of segments sent and not acknowledged, by number; segments held under HOLD with their epochs -/
  unacked : List (Nat × Bytes)
  heldSegs : List (Nat × List Nat × Bytes)
  /-- its place in the order in which exports were accepted -/
  accNo : Nat
  /-- detections of the page message in progress, with the records held and the beat of its first read
  (11_integrity.md R310, R319) -/
  convPend : List (Bytes × Bool)
  readBeat : Nat
  seqno : Nat
  ackno : Nat
  lastAck : Nat
  timeouts : Nat
  credits : Nat
  /-- epochs of the data read so far that have no verdict yet -/
  epochs : List Nat
  /-- status that ends the export, once decided -/
  ending : Option Nat
deriving DecidableEq, Repr

/-! ## Prefix directory -/

/-- States of a page (08_attention.md R228). -/
inductive PageSt where
  | opened
  | sealed
deriving DecidableEq, Repr

/-- A page of the cache (08_attention.md R223-R229); FREE pages are not listed. -/
structure Page where
  num : Nat
  st : PageSt
  t0 : Nat
  len : Nat
  dataPA : Nat
  sidePA : Nat
  dataLen : Nat
  sideLen : Nat
  /-- slots that map it -/
  slots : List Nat
  exports : Nat
  pin : Nat
  stamp : Nat
deriving DecidableEq, Repr

/-- A directory entry (08_attention.md R236). -/
structure DirEntry where
  set : Nat
  way : Nat
  hash : DWord
  seed : DWord
  page : Nat
  pos : Nat
  stamp : Nat
deriving DecidableEq, Repr

/-- The directory state of one function. -/
structure DirFn where
  pages : List Page
  entries : List DirEntry
  nextPage : Nat
  /-- index of the next record of the schedule queue; whether the engine's WAIT on REQ is issued, and released -/
  qidx : Nat
  qwait : Nat
deriving DecidableEq, Repr

/-- No page, no entry. -/
def DirFn.reset : DirFn := { pages := [], entries := [], nextPage := 0, qidx := 0, qwait := 0 }

/-! ## Campion, module level -/

/-- A history entry (11_integrity.md R337). -/
structure Hist where
  uclass : Nat
  unit : Nat
  fenced : Bool
  kat : Bool
  disp : Nat
  total : Nat
  session : Nat
  beatA : Nat
  beatB : Nat
  /-- for a controller, the same two beats of its ECC_LPD_UE detections alone (13_memory.md R376) -/
  ueA : Nat
  ueB : Nat
deriving DecidableEq, Repr

/-- A header copy of the fault-history region (11_integrity.md R336). -/
structure Header where
  magic : Nat
  gen : Nat
  session : Nat
  /-- history entries in use; head and tail sectors of the log -/
  entries : Nat
  head : Nat
  tail : Nat
  crc : Nat
deriving DecidableEq, Repr

/-- A copy that has not been written: it is not valid, and the region is empty (log 40). -/
def Header.reset : Header := { magic := 0, gen := 0, session := 0, entries := 0, head := 0, tail := 0, crc := 0 }

/-- Campion's module-level state: history, Tansy buffer, flash log and the header's copies (11_integrity.md
R328-R337). -/
structure Campion where
  hist : List Hist
  buffer : List Bytes
  log : List Bytes
  copy0 : Header
  copy1 : Header
deriving DecidableEq, Repr

/-- A region with no record. -/
def Campion.reset : Campion := { hist := [], buffer := [], log := [], copy0 := Header.reset, copy1 := Header.reset }

/-! ## Memory controllers -/

/-- A request in a controller's queue (13_memory.md R372): bytes not carried yet, and what a read returns (the bytes
as they stood when it was queued; none where the model keeps them elsewhere). Owners: 1 to 16 a partition; the host path's
users 0x80 Teasel and directory engines, 0x82 walks and Sorrel, 0x84 BAR requests, 0x83 scrub; 0x100 + f the checkpoint
transfers of f, each chunk's a request of its own length (R371, R384). -/
structure LpdReq where
  owner : Nat
  addr : Nat
  len : Nat
  write : Bool
  left : Nat
  data : Bytes
  /-- the function whose translation walk it is part of, if it is (13_memory.md R381) -/
  walkOf : Option Nat := none
deriving DecidableEq, Repr

/-- A host BAR request of up to 64 bytes that waits at an edge die (12_host.md R346): its function and block. -/
structure BarReq where
  f : Nat
  addr : Nat
  write : Bool
deriving DecidableEq, Repr

/-- The host requests of an edge die, each function's in order, the function whose turn it is, and the requests left of
that turn (12_host.md R346). -/
structure HostQ where
  reqs : List BarReq
  turn : Nat
  left : Nat
deriving DecidableEq, Repr

/-- An edge die with no host request. -/
def HostQ.reset : HostQ := { reqs := [], turn := 0, left := 0 }

/-- A controller beside its LPD_ registers. -/
structure Lpd where
  queue : List LpdReq
  /-- block addresses uncorrectable until overwritten -/
  bad : List Nat
  trainFails : Nat
  /-- the first slot that has not passed: 64 × the frame's number + position (13_memory.md R371) -/
  nextSlot : Nat
  /-- the byte the scrubber reads next, and the beat its latest pass began in (13_memory.md R375) -/
  scrubAt : Nat
  scrubFrom : Option Nat
deriving DecidableEq, Repr

/-- An idle controller. -/
def Lpd.reset : Lpd := { queue := [], bad := [], trainFails := 0, nextSlot := 0, scrubAt := 0, scrubFrom := none }

/-! ## Power, boot, sideband -/

/-- Phases of power-up (14_module_hw.md R395). -/
inductive Phase where
  /-- standby domain off -/
  | off
  /-- standby domain on, main rails off -/
  | standby
  /-- main rails up, root PLL not locked -/
  | rails
  /-- root PLL locked -/
  | locked
deriving DecidableEq, Repr

/-- A firmware slot of the flash (15_power_boot.md R408): an image placed at manufacture, known to be valid but for
its SVN (log 12), or the bytes programmed since. -/
structure FwSlot where
  factory : Bool
  version : DWord
  svn : Nat
  /-- the image may be booted: FW_COMMIT has passed since the header sector was erased (15_power_boot.md R414) -/
  committed : Bool
  /-- bytes programmed since the last erase of the header sector, by offset -/
  cells : List (Nat × Byte)
deriving DecidableEq, Repr

/-- A firmware-update session (12_host.md R353): the mailbox that opened it, and the slot. -/
structure FwSession where
  f : Nat
  m : Nat
  slot : Nat
deriving DecidableEq, Repr

/-- The privilege modes of a control core (01_module.md R22). -/
inductive HartMode where
  | machine
  | user
deriving DecidableEq, Repr

/-- One of Sorrel's RV64GC control cores (01_module.md R22): its mode, program counter, the integer registers x1 to x31
(x0 reads as 0 and is not held), the floating-point registers, fcsr, the control and status registers that are not zero by
number, and the address of a load reservation. No command runs an instruction of the firmware (log 66). -/
structure Hart where
  mode : HartMode
  pc : DWord
  x : List DWord
  f : List DWord
  fcsr : BitVec 8
  csrs : List (Nat × DWord)
  reserved : Option DWord
deriving DecidableEq, Repr

/-- A control core that starts at an address in machine mode (log 66). -/
def Hart.startedAt (pc : Nat) : Hart :=
  { mode := .machine, pc := BitVec.ofNat 64 pc, x := List.replicate 31 0, f := List.replicate 32 0, fcsr := 0, csrs := [],
    reserved := none }

/-- Power and boot state (14_module_hw.md R391-R404, 15_power_boot.md R405-R417). -/
structure Power where
  phase : Phase
  /-- the trips that keep the rails down, by PWR_LAST_TRIP's codes: latched overvoltage and thermal trips, undervoltage
  (14_module_hw.md R397) -/
  trips : List Nat
  /-- the cause recorded since the rails were last up; 0 none -/
  cause : Nat
  /-- the sensor or input of the last trip, kept beside PWR_LAST_TRIP (14_module_hw.md R401) -/
  tripInput : Option Nat
  /-- MRST_N is low -/
  mrstLow : Bool
  /-- references that are lost: 0 REF100, 1 REF156_0, 2 REF156_1 (14_module_hw.md R394) -/
  refs : List Nat
  holdover : Bool
  bsync : Bool
  watchdog : Bool
  /-- a boot stands in stage 1 -/
  stage1 : Bool
  /-- the slot whose image Sorrel's SRAM holds, and the address its control cores were entered at (15_power_boot.md R406) -/
  entered : Option (Nat × Nat)
  /-- the four control cores of Sorrel (01_module.md R22) -/
  harts : List Hart
  /-- in DORMANT, the core whose control storage holds a plot's synchronisation unit's state (15_power_boot.md R415) -/
  keepers : List (Nat × Nat)
  /-- c before the boot in progress (15_power_boot.md R412) -/
  cBefore : Nat
  reason3 : Nat
  slotA : FwSlot
  slotB : FwSlot
  session : Option FwSession
  /-- mailbox waiting for DORMANT entry, and the wake's beat W with its mailbox -/
  dormantReq : Option (Nat × Nat)
  wake : Option (Nat × Nat × Nat)
  /-- sensors at or above their warning threshold (14_module_hw.md R400) -/
  hotSensors : List Nat
  /-- sensors and causes of the halt in force; its event code, sensor id and value as it began -/
  haltSensors : List Nat
  haltCoolant : Bool
  halt : Option (Nat × Nat × Nat)
  /-- sensors that have failed (14_module_hw.md R399) -/
  failed : List Nat
  rails : List (Nat × BitVec 16)
  pmbusStatus : Word
  pmbusOpen : Bool
  i3cAddr : Option (BitVec 7)
  i3cOpen : Bool
deriving DecidableEq, Repr

/-- What the module emits, in order (log 10). -/
inductive Output where
  | msix (f v : Nat)
  | reply (bytes : Bytes)
  | nack
  /-- a cell on a lane of a port -/
  | cell (port lane : Nat) (bytes : Bytes)
  | ethFrame (port : Nat) (bytes : Bytes)
  | readData (bytes : Bytes)
  | discarded
  | lpdData (ctl : Nat) (bytes : Bytes)
  | ptmRequest
  | configured (what : Nat)
  /-- the 80 ns pulse of BSYNC (14_module_hw.md R391) -/
  | bsync
deriving DecidableEq, Repr

/-- The beat lock (09_schedules.md R262-R265); while it is being acquired, the domain, SRL_DOM_ID and SRL_DOM_STATUS
from before. -/
structure Lock where
  domain : Option Domain
  prev : Option (Option Domain × Nat × Nat)
  badMarkers : Nat
  sinceMarker : Nat
deriving DecidableEq, Repr

/-! ## The state -/

/-- How Sorrel's cores serve mailboxes (12_host.md R351): GO writes accepted so far, and the function whose long command
began latest. -/
structure Service where
  accepted : Nat
  turn : Nat
deriving DecidableEq, Repr

/-- Everything of the module that has no address: the units. -/
structure Units where
  freeCtr : Nat
  outbox : List Output
  power : Power
  cores : List (Nat × CoreState)
  objs : List (Nat × ObjState)
  syncNet : List SyncMsg
  parts : List (Nat × Partition)
  funcs : List (Nat × Func)
  /-- VF Enable with NumVFs (0 = clear), PTM enable -/
  vfs : Nat
  ptm : Bool
  ports : List (Nat × PortState)
  exports : List (Nat × Export)
  dirs : List (Nat × DirFn)
  dirReqs : List DirReq
  campion : Campion
  lpds : List (Nat × Lpd)
  lock : Lock
  service : Service
  /-- the edge dies' queues of host requests, by edge die -/
  hostqs : List (Nat × HostQ)
deriving DecidableEq, Repr

/-- The block: its units, its registers by device address, its scratch and LPDDR5X bytes by device address. -/
structure Block extends Units where
  regs : List (Nat × DWord)
  mem : List Host.Cell
deriving DecidableEq, Repr

/-- The whole module: the block and the commands that wait, first in, first out. -/
structure State extends Block where
  pending : List Instr
deriving DecidableEq, Repr

/-- Power and boot after the standby domain has never been on (log 11, log 12). -/
def Power.reset : Power :=
  { phase := .off, trips := [], cause := 0, tripInput := none, mrstLow := false, refs := [], holdover := false, bsync := false,
    watchdog := false, stage1 := false, entered := none, harts := List.replicate 4 (.startedAt 0),
    keepers := [], cBefore := 0, reason3 := 0,
    slotA := { factory := true, version := 0, svn := 0, committed := true, cells := [] },
    slotB := { factory := false, version := 0, svn := 0, committed := false, cells := [] },
    session := none, dormantReq := none, wake := none, hotSensors := [], haltSensors := [], haltCoolant := false, halt := none, failed := [],
    rails := [], pmbusStatus := 0, pmbusOpen := false, i3cAddr := none, i3cOpen := false }

/-- The units with no partition, no message and no power. -/
def Units.reset : Units :=
  { freeCtr := 0, outbox := [], power := Power.reset, cores := [], objs := [], syncNet := [], parts := [], funcs := [],
    vfs := 0, ptm := false, ports := [], exports := [], dirs := [], dirReqs := [],
    campion := Campion.reset, lpds := [],
    lock := { domain := none, prev := none, badMarkers := 0, sinceMarker := 0 }, service := { accepted := 0, turn := 0 }, hostqs := [] }

/-- The module right after reset: every register at its table's reset value (the register list lists none),
memory with nothing listed, no partition, no command. -/
def State.reset : State :=
  { Units.reset with regs := [], mem := [], pending := [] }

end Sys2Proof.Machine
end

