-- ==== Sys2Proof/Machine/Store.lean ====
section
/-! DEFINITION. Sparse lists with ascending keys, bit fields, and byte-order helpers (00_scope.md R7, R8). -/

namespace Sys2Proof.Machine

/-- The entry of key k. -/
def smGet {α : Type} (l : List (Nat × α)) (k : Nat) : Option α :=
  match l with
  | [] => none
  | (j, v) :: r => if j = k then some v else smGet r k

/-- The entry of key k, or d. -/
def smGetD {α : Type} (l : List (Nat × α)) (k : Nat) (d : α) : α := (smGet l k).getD d

/-- l with key k holding v, keys kept ascending. -/
def smPut {α : Type} (l : List (Nat × α)) (k : Nat) (v : α) : List (Nat × α) :=
  match l with
  | [] => [(k, v)]
  | (j, w) :: r => if j < k then (j, w) :: smPut r k v else if j = k then (k, v) :: r else (k, v) :: (j, w) :: r

/-- l without key k. -/
def smDel {α : Type} (l : List (Nat × α)) (k : Nat) : List (Nat × α) :=
  match l with
  | [] => []
  | (j, w) :: r => if j = k then smDel r k else (j, w) :: smDel r k

/-- l with key k reading as v, where an unlisted key reads as d. -/
def smSet {α : Type} [DecidableEq α] (l : List (Nat × α)) (k : Nat) (v d : α) : List (Nat × α) :=
  if v = d then smDel l k else smPut l k v

/-- l without the keys of [lo, hi). -/
def smDelRange {α : Type} (l : List (Nat × α)) (lo hi : Nat) : List (Nat × α) :=
  l.filter (fun e => !(decide (lo ≤ e.1) && decide (e.1 < hi)))

/-- Keys strictly ascending. -/
def smSorted {α : Type} : List (Nat × α) → Bool
  | [] => true
  | [_] => true
  | (j, _) :: (k, w) :: r => decide (j < k) && smSorted ((k, w) :: r)

/-- Bits [hi:lo] of n. -/
def bitsOf (n hi lo : Nat) : Nat := n / 2 ^ lo % 2 ^ (hi + 1 - lo)

/-- Bit i of n. -/
def bitOf (n i : Nat) : Bool := n / 2 ^ i % 2 == 1

/-- n with bits [hi:lo] replaced by x. -/
def putBits (n hi lo x : Nat) : Nat :=
  n - (bitsOf n hi lo) * 2 ^ lo + (x % 2 ^ (hi + 1 - lo)) * 2 ^ lo

/-- n as a signed number of w bits. -/
def signedOf (n w : Nat) : Int := if n % 2 ^ w < 2 ^ (w - 1) then (n % 2 ^ w : Nat) else ((n % 2 ^ w : Nat) : Int) - (2 ^ w : Nat)

/-- The w-bit two's-complement code of i. -/
def codeOf (i : Int) (w : Nat) : Nat := (i % (2 ^ w : Nat)).toNat

/-- The number of set bits among the lowest w of n. -/
def popCount (n w : Nat) : Nat := ((List.range w).filter (fun i => bitOf n i)).length

/-- n bytes of x, least significant first. -/
def leBytes (x n : Nat) : Bytes :=
  match n with
  | 0 => []
  | n + 1 => BitVec.ofNat 8 x :: leBytes (x / 256) n

/-- The number a byte string holds, least significant byte first. -/
def leNat (b : Bytes) : Nat :=
  match b with
  | [] => 0
  | x :: r => x.toNat + 256 * leNat r

/-- n bytes of x, most significant first. -/
def beBytes (x n : Nat) : Bytes := (leBytes x n).reverse

/-- The number a byte string holds, most significant byte first. -/
def beNat (b : Bytes) : Nat := leNat b.reverse

/-- The number at offset o of n bytes, absent bytes reading as 0. -/
def leAt (b : Bytes) (o n : Nat) : Nat := leNat ((b.drop o).take n)

/-- b with bytes from offset o replaced by d, within b's length. -/
def spliceBytes (b : Bytes) (o : Nat) (d : Bytes) : Bytes :=
  (b.take o ++ d ++ b.drop (o + d.length)).take b.length

/-- Element i of a list of naturals, 0 beyond its end. -/
def natAt (l : List Nat) (i : Nat) : Nat := (l[i]?).getD 0

/-- Add to a counter of w bits that holds at its maximum. -/
def satAdd (x n w : Nat) : Nat := min (x + n) (2 ^ w - 1)

/-- ⌈a / b⌉. -/
def ceilDiv (a b : Nat) : Nat := (a + b - 1) / b

/-- a rounded up to a multiple of b. -/
def roundUp (a b : Nat) : Nat := ceilDiv a b * b

/-- Remove element i of a list. -/
def dropAt {α : Type} (l : List α) (i : Nat) : List α := l.take i ++ l.drop (i + 1)

/-- Element i of a list becomes v; a list that is shorter reads as d beyond its end. -/
def putAt {α : Type} (l : List α) (d : α) (i : Nat) (v : α) : List α :=
  match l, i with
  | [], 0 => [v]
  | [], i + 1 => d :: putAt [] d i v
  | _ :: r, 0 => v :: r
  | x :: r, i + 1 => x :: putAt r d i v

end Sys2Proof.Machine
end

