-- ==== Sys2Proof/Machine/RegMap.lean ====
section
/-! DEFINITION. The registers by name: address (01_module.md R34, R35), width, and the fields with their access codes
and reset values (00_scope.md R12), as the register tables of each chapter give them. -/

namespace Sys2Proof.Machine

/-- Access codes (00_scope.md R12). -/
inductive Access where
  | rw
  | ro
  | wo
  | w1c
  | rc
deriving DecidableEq, Repr

/-- A field of a register table. -/
structure Fld where
  name : String
  hi : Nat
  lo : Nat
  acc : Access
  reset : Nat
deriving DecidableEq, Repr

/-- The registers; the arguments are the core `c`, array `a`, set `st`, word `w`, context `x`, function `f`, mailbox
`m`, port `p`, engine or instance `e`, controller or key `k`, sensor `i`, and otherwise the index `n`. -/
inductive Reg where
  /-- SRL_ID (01_module.md, SRL_ 0x0000) -/
  | srlId
  /-- SRL_SERIAL (01_module.md, SRL_ 0x0008 (log 4)) -/
  | srlSerial
  /-- SRL_FENCED_PLOTS (01_module.md, SRL_ 0x0010) -/
  | srlFencedPlots
  /-- SRL_BEAT (09_schedules.md, SRL_ 0x0100) -/
  | srlBeat
  /-- SRL_DOM_ID (09_schedules.md) -/
  | srlDomId
  /-- SRL_DOM_STATUS (09_schedules.md) -/
  | srlDomStatus
  /-- SRL_DOM_LOSSES (09_schedules.md) -/
  | srlDomLosses
  /-- SRL_DOM_LATE (09_schedules.md) -/
  | srlDomLate
  /-- CORE_ID (04_core.md, CORE_ 0x0000) -/
  | coreId (c : Nat)
  /-- CORE_STATUS (04_core.md) -/
  | coreStatus (c : Nat)
  /-- CORE_BANK_WAIT (04_core.md) -/
  | coreBankWait (c : Nat)
  /-- CORE_SSLOT_SCALE (02_formats.md) -/
  | coreSslotScale (c n : Nat)
  /-- CORE_SSLOT_AMAX (02_formats.md) -/
  | coreSslotAmax (c n : Nat)
  /-- CORE_SSLOT_CFG (02_formats.md) -/
  | coreSslotCfg (c n : Nat)
  /-- CORE_CNV_SAT (02_formats.md R67) -/
  | coreCnvSat (c : Nat)
  /-- CORE_CNV_FLUSH (02_formats.md R67) -/
  | coreCnvFlush (c : Nat)
  /-- CORE_CNV_NAN (02_formats.md R67) -/
  | coreCnvNan (c : Nat)
  /-- CORE_CNV_OVF (02_formats.md R67) -/
  | coreCnvOvf (c : Nat)
  /-- ARR_STATUS (04_core.md) -/
  | arrStatus (c a : Nat)
  /-- ARR_TILES (04_core.md) -/
  | arrTiles (c a : Nat)
  /-- ARR_ACC_CYC (04_core.md) -/
  | arrAccCyc (c a : Nat)
  /-- ARR_HOLD_CYC (04_core.md) -/
  | arrHoldCyc (c a : Nat)
  /-- ARR_DRAIN_WAIT (04_core.md) -/
  | arrDrainWait (c a : Nat)
  /-- SEQ_STATUS (04_core.md) -/
  | seqStatus (c : Nat)
  /-- SEQ_INVOC (04_core.md) -/
  | seqInvoc (c : Nat)
  /-- SEQ_FAULT (04_core.md) -/
  | seqFault (c : Nat)
  /-- SEQ_CREC (05_step_tables.md) -/
  | seqCrec (c w : Nat)
  /-- SEQ_LOOP (05_step_tables.md; n = loop level - 1) -/
  | seqLoop (c n : Nat)
  /-- SEQ_RS (05_step_tables.md) -/
  | seqRs (c st w : Nat)
  /-- STR_STATUS (06_streams.md) -/
  | strStatus (c : Nat)
  /-- STR_FAULT (06_streams.md) -/
  | strFault (c : Nat)
  /-- STR_INQ_HWM (06_streams.md) -/
  | strInqHwm (c : Nat)
  /-- STR_MOVES (06_streams.md) -/
  | strMoves (c : Nat)
  /-- STR_CTX (06_streams.md) -/
  | strCtx (c x : Nat)
  /-- STR_RING_BASE (06_streams.md) -/
  | strRingBase (c n : Nat)
  /-- STR_RING_GEOM (06_streams.md) -/
  | strRingGeom (c n : Nat)
  /-- STR_RING_OBJ (06_streams.md) -/
  | strRingObj (c n : Nat)
  /-- STR_RING_PTR (06_streams.md) -/
  | strRingPtr (c n : Nat)
  /-- CHK_STATUS (11_integrity.md) -/
  | chkStatus (c : Nat)
  /-- CHK_INJECT (11_integrity.md) -/
  | chkInject (c : Nat)
  /-- CHK_DETECTIONS (11_integrity.md) -/
  | chkDetections (c : Nat)
  /-- CHK_REPLAYS (11_integrity.md) -/
  | chkReplays (c : Nat)
  /-- CHK_ECC_CORR (11_integrity.md) -/
  | chkEccCorr (c : Nat)
  /-- CHK_KAT_RUNS (11_integrity.md) -/
  | chkKatRuns (c : Nat)
  /-- CHK_KAT_GAP_MAX (11_integrity.md) -/
  | chkKatGapMax (c : Nat)
  /-- CHK_KAT_LAST_A0 (11_integrity.md) -/
  | chkKatLastA0 (c : Nat)
  /-- CHK_KAT_LAST_A1 (11_integrity.md) -/
  | chkKatLastA1 (c : Nat)
  /-- CHK_KAT_LAST_VEC (11_integrity.md) -/
  | chkKatLastVec (c : Nat)
  /-- MBX_PAGE (12_host.md R347: word w of the request and response pages) -/
  | mbxPage (f w : Nat)
  /-- MBX_MB (12_host.md) -/
  | mbxMb (f m : Nat)
  /-- MBX_FUNC (12_host.md) -/
  | mbxFunc (f : Nat)
  /-- MBX_WIN_BASE (12_host.md) -/
  | mbxWinBase (f : Nat)
  /-- MBX_EXP_DONE (12_host.md) -/
  | mbxExpDone (f n : Nat)
  /-- MBX_EVENT (12_host.md) -/
  | mbxEvent (f : Nat)
  /-- MSIX_TABLE (12_host.md; word 3 of each entry holds the mask bit (log 13)) -/
  | msixTable (f w : Nat)
  /-- MSIX_PBA (12_host.md) -/
  | msixPba (f : Nat)
  /-- EXP_TABLE (12_host.md R360) -/
  | expTable (f w : Nat)
  /-- SYN_STATUS (06_streams.md) -/
  | synStatus
  /-- SYN_OVERRUNS (06_streams.md) -/
  | synOverruns
  /-- SYN_OBJ_CFG (06_streams.md) -/
  | synObjCfg (n : Nat)
  /-- SYN_OBJ_STATE (06_streams.md; a semaphore reads its count in [15:0]) -/
  | synObjState (n : Nat)
  /-- SYN_OBJ_WAITERS (06_streams.md) -/
  | synObjWaiters (n : Nat)
  /-- SYN_OBJ_OWNER (06_streams.md) -/
  | synObjOwner (n : Nat)
  /-- CHK_PERM (11_integrity.md) -/
  | chkPerm
  /-- CHK_SESSION (11_integrity.md (log 12)) -/
  | chkSession
  /-- CHK_UTC_OFFSET (11_integrity.md) -/
  | chkUtcOffset
  /-- CHK_LOG_SEQ (11_integrity.md (log 12)) -/
  | chkLogSeq
  /-- CHK_LOG_DROPPED (11_integrity.md) -/
  | chkLogDropped
  /-- CHK_FENCED (11_integrity.md (log 12)) -/
  | chkFenced
  /-- CHK_EPOCHS_FAILED (11_integrity.md) -/
  | chkEpochsFailed
  /-- CHK_UNCONTAINED (11_integrity.md) -/
  | chkUncontained
  /-- LNK_CFG (10_links.md) -/
  | lnkCfg (p : Nat)
  /-- LNK_STATUS (10_links.md) -/
  | lnkStatus (p : Nat)
  /-- LNK_DELAY (10_links.md) -/
  | lnkDelay (p : Nat)
  /-- LNK_TX_CELLS (10_links.md) -/
  | lnkTxCells (p : Nat)
  /-- LNK_RX_CELLS (10_links.md) -/
  | lnkRxCells (p : Nat)
  /-- LNK_RX_BAD (10_links.md) -/
  | lnkRxBad (p : Nat)
  /-- LNK_REPLAYS (10_links.md) -/
  | lnkReplays (p : Nat)
  /-- LNK_FEC_CORR (10_links.md) -/
  | lnkFecCorr (p : Nat)
  /-- LNK_FEC_UNCORR (10_links.md) -/
  | lnkFecUncorr (p : Nat)
  /-- LNK_DOWNSHIFTS (10_links.md) -/
  | lnkDownshifts (p : Nat)
  /-- LNK_ETH_DISCARD (10_links.md) -/
  | lnkEthDiscard (p : Nat)
  /-- LNK_ETH_MAC (10_links.md) -/
  | lnkEthMac (p : Nat)
  /-- LNK_ETH_IP6 (10_links.md) -/
  | lnkEthIp6 (p w : Nat)
  /-- LNK_ETH_IP4 (10_links.md) -/
  | lnkEthIp4 (p : Nat)
  /-- LNK_ETH_L4 (10_links.md; reset 0xC1A5_4000, bits [1:0] reserved) -/
  | lnkEthL4 (p : Nat)
  /-- LNK_ETH_SEG (10_links.md) -/
  | lnkEthSeg (p : Nat)
  /-- LNK_ETH_RTO (10_links.md) -/
  | lnkEthRto (p : Nat)
  /-- TSL_STATUS (10_links.md) -/
  | tslStatus (e : Nat)
  /-- TSL_PAGES (10_links.md) -/
  | tslPages (e : Nat)
  /-- TSL_BYTES (10_links.md) -/
  | tslBytes (e : Nat)
  /-- TSL_RETX (10_links.md) -/
  | tslRetx (e : Nat)
  /-- TSL_CNV_SAT (10_links.md) -/
  | tslCnvSat (e : Nat)
  /-- TSL_CNV_FLUSH (10_links.md) -/
  | tslCnvFlush (e : Nat)
  /-- TSL_CNV_NAN (10_links.md) -/
  | tslCnvNan (e : Nat)
  /-- TSL_POISONED (10_links.md) -/
  | tslPoisoned (e : Nat)
  /-- TSL_RATE (10_links.md) -/
  | tslRate (e f : Nat)
  /-- TSL_DIR_CFG (08_attention.md) -/
  | tslDirCfg (e f : Nat)
  /-- TSL_DIR_QUOTA (08_attention.md) -/
  | tslDirQuota (e f : Nat)
  /-- TSL_DIR_ENTRIES (08_attention.md) -/
  | tslDirEntries (e f : Nat)
  /-- TSL_DIR_POOL (08_attention.md) -/
  | tslDirPool (e f : Nat)
  /-- TSL_DIR_FREE (08_attention.md) -/
  | tslDirFree (e f : Nat)
  /-- TSL_DIR_HITS (08_attention.md) -/
  | tslDirHits (e f : Nat)
  /-- TSL_DIR_MISSES (08_attention.md) -/
  | tslDirMisses (e f : Nat)
  /-- TSL_DIR_DROPS (08_attention.md) -/
  | tslDirDrops (e f : Nat)
  /-- TSL_DIR_INS_SKIP (08_attention.md) -/
  | tslDirInsSkip (e f : Nat)
  /-- LPD_STATUS (13_memory.md) -/
  | lpdStatus (k : Nat)
  /-- LPD_TRN_OVR (13_memory.md) -/
  | lpdTrnOvr (k : Nat)
  /-- LPD_SCRUB (13_memory.md) -/
  | lpdScrub (k : Nat)
  /-- LPD_ECC_CORR (13_memory.md) -/
  | lpdEccCorr (k : Nat)
  /-- LPD_ECC_UNCORR (13_memory.md) -/
  | lpdEccUncorr (k : Nat)
  /-- LPD_RD_BYTES (13_memory.md) -/
  | lpdRdBytes (k : Nat)
  /-- LPD_WR_BYTES (13_memory.md) -/
  | lpdWrBytes (k : Nat)
  /-- LPD_SCRUB_PASSES (13_memory.md) -/
  | lpdScrubPasses (k : Nat)
  /-- LPD_SLOT (13_memory.md) -/
  | lpdSlot (k n : Nat)
  /-- XLT_ROOT (13_memory.md) -/
  | xltRoot (f : Nat)
  /-- XLT_FLT_VA (13_memory.md) -/
  | xltFltVa (f : Nat)
  /-- XLT_FLT_INFO (13_memory.md) -/
  | xltFltInfo (f : Nat)
  /-- XLT_WALKS (13_memory.md) -/
  | xltWalks (f : Nat)
  /-- XLT_DROPS (13_memory.md) -/
  | xltDrops (f : Nat)
  /-- PWR_IN_STATUS (14_module_hw.md) -/
  | pwrInStatus
  /-- PWR_IN_LATCH (14_module_hw.md) -/
  | pwrInLatch
  /-- PWR_VIN (14_module_hw.md) -/
  | pwrVin
  /-- PWR_IIN (14_module_hw.md) -/
  | pwrIin
  /-- PWR_PIN (14_module_hw.md) -/
  | pwrPin
  /-- PWR_COOL (14_module_hw.md) -/
  | pwrCool
  /-- PWR_FLOW (14_module_hw.md) -/
  | pwrFlow
  /-- PWR_LAST_TRIP (14_module_hw.md (log 12)) -/
  | pwrLastTrip
  /-- PWR_MODSTATE (15_power_boot.md) -/
  | pwrModstate
  /-- PWR_BOOT (15_power_boot.md (log 12)) -/
  | pwrBoot
  /-- PWR_BOOT_RSN (15_power_boot.md (log 12)) -/
  | pwrBootRsn
  /-- PWR_LIMIT (09_schedules.md) -/
  | pwrLimit
  /-- PWR_FIX (09_schedules.md) -/
  | pwrFix
  /-- PWR_EXCESS (09_schedules.md) -/
  | pwrExcess
  /-- PWR_ALLOC (09_schedules.md) -/
  | pwrAlloc (f : Nat)
  /-- PWR_SENSOR (14_module_hw.md) -/
  | pwrSensor (i : Nat)
  /-- TEL_BOOT (15_power_boot.md) -/
  | telBoot (e : Nat)
  /-- TEL_BOOT_TIME (15_power_boot.md) -/
  | telBootTime (e : Nat)
  /-- SEC_STATUS (15_power_boot.md (log 4)) -/
  | secStatus
  /-- SEC_ARB (15_power_boot.md (log 4)) -/
  | secArb
  /-- SEC_KEYHASH (15_power_boot.md (log 4)) -/
  | secKeyhash (k w : Nat)
  /-- UCI_STATUS (12_host.md) -/
  | uciStatus (e : Nat)
  /-- UCI_CFG (12_host.md) -/
  | uciCfg (e : Nat)
  /-- UCI_CRC_ERR (12_host.md) -/
  | uciCrcErr (e : Nat)
  /-- UCI_REPLAYS (12_host.md) -/
  | uciReplays (e : Nat)
  /-- UCI_DOWNS (12_host.md) -/
  | uciDowns (e : Nat)
deriving DecidableEq, Repr

/-- Bases of the register blocks (01_module.md R34, R35). -/
def srlBase : Nat := 0x0F0080000000
def mbxBase : Nat := 0x0F0081000000
def synBase : Nat := 0x0F0082000000
def chkBase : Nat := 0x0F0083000000
def lnkBase : Nat := 0x0F0084000000
def tslBase : Nat := 0x0F0085000000
def lpdBase : Nat := 0x0F0086000000
def xltBase : Nat := 0x0F0087000000
def pwrBase : Nat := 0x0F0088000000
def telBase : Nat := 0x0F0089000000
def secBase : Nat := 0x0F008A000000
def uciBase : Nat := 0x0F008B000000
/-- A core's register frame (01_module.md R34). -/
def coreBase (c : Nat) : Nat := 0x0F0000000000 + c * 0x10000

/-- CORE_ID_POOL of a core (01_module.md R19). -/
def poolCapable (c : Nat) : Bool := c % 3200 / 80 % 4 == 0 && c % 80 % 4 == 0

/-- The plot of a core (01_module.md R18). -/
def plotOf (c : Nat) : Nat := c / 3200 * 8 + c % 3200 / 80 / 20 * 4 + c % 80 / 20

/-- The device address of a register. -/
def Reg.addr : Reg → Nat
  | .srlId => srlBase
  | .srlSerial => srlBase + 0x8
  | .srlFencedPlots => srlBase + 0x10
  | .srlBeat => srlBase + 0x100
  | .srlDomId => srlBase + 0x108
  | .srlDomStatus => srlBase + 0x110
  | .srlDomLosses => srlBase + 0x114
  | .srlDomLate => srlBase + 0x118
  | .coreId c => coreBase c + 0x0
  | .coreStatus c => coreBase c + 0x4
  | .coreBankWait c => coreBase c + 0x10
  | .coreSslotScale c n => coreBase c + 0x400 + n * 0x10
  | .coreSslotAmax c n => coreBase c + 0x404 + n * 0x10
  | .coreSslotCfg c n => coreBase c + 0x408 + n * 0x10
  | .coreCnvSat c => coreBase c + 0x800
  | .coreCnvFlush c => coreBase c + 0x804
  | .coreCnvNan c => coreBase c + 0x808
  | .coreCnvOvf c => coreBase c + 0x80c
  | .arrStatus c a => coreBase c + 0x1000 + a * 0x1000
  | .arrTiles c a => coreBase c + 0x1000 + a * 0x1000 + 0x8
  | .arrAccCyc c a => coreBase c + 0x1000 + a * 0x1000 + 0x10
  | .arrHoldCyc c a => coreBase c + 0x1000 + a * 0x1000 + 0x18
  | .arrDrainWait c a => coreBase c + 0x1000 + a * 0x1000 + 0x20
  | .seqStatus c => coreBase c + 0x3000
  | .seqInvoc c => coreBase c + 0x3008
  | .seqFault c => coreBase c + 0x3010
  | .seqCrec c w => coreBase c + 0x3040 + w * 4
  | .seqLoop c n => coreBase c + 0x3060 + n * 4
  | .seqRs c st w => coreBase c + 0x3100 + st * 0x20 + w * 4
  | .strStatus c => coreBase c + 0x4000
  | .strFault c => coreBase c + 0x4004
  | .strInqHwm c => coreBase c + 0x4008
  | .strMoves c => coreBase c + 0x4010
  | .strCtx c x => coreBase c + 0x4040 + x * 4
  | .strRingBase c n => coreBase c + 0x4100 + n * 0x10
  | .strRingGeom c n => coreBase c + 0x4104 + n * 0x10
  | .strRingObj c n => coreBase c + 0x4108 + n * 0x10
  | .strRingPtr c n => coreBase c + 0x410C + n * 0x10
  | .chkStatus c => coreBase c + 0x5000
  | .chkInject c => coreBase c + 0x5004
  | .chkDetections c => coreBase c + 0x5008
  | .chkReplays c => coreBase c + 0x5010
  | .chkEccCorr c => coreBase c + 0x5018
  | .chkKatRuns c => coreBase c + 0x5020
  | .chkKatGapMax c => coreBase c + 0x5028
  | .chkKatLastA0 c => coreBase c + 0x5030
  | .chkKatLastA1 c => coreBase c + 0x5038
  | .chkKatLastVec c => coreBase c + 0x5040
  | .mbxPage f w => mbxBase + f * 0x10000 + w * 4
  | .mbxMb f m => mbxBase + f * 0x10000 + 0x8000 + m * 4
  | .mbxFunc f => mbxBase + f * 0x10000 + 0x8100
  | .mbxWinBase f => mbxBase + f * 0x10000 + 0x8108
  | .mbxExpDone f n => mbxBase + f * 0x10000 + 0x8110 + n * 4
  | .mbxEvent f => mbxBase + f * 0x10000 + 0x8120
  | .msixTable f w => mbxBase + f * 0x10000 + 0x9000 + w * 4
  | .msixPba f => mbxBase + f * 0x10000 + 0x9800
  | .expTable f w => mbxBase + f * 0x10000 + 0xA000 + w * 4
  | .synStatus => synBase
  | .synOverruns => synBase + 0x8
  | .synObjCfg n => synBase + 0x100000 + n * 0x10
  | .synObjState n => synBase + 0x100000 + n * 0x10 + 0x4
  | .synObjWaiters n => synBase + 0x100000 + n * 0x10 + 0x8
  | .synObjOwner n => synBase + 0x100000 + n * 0x10 + 0xC
  | .chkPerm => chkBase
  | .chkSession => chkBase + 0x4
  | .chkUtcOffset => chkBase + 0x8
  | .chkLogSeq => chkBase + 0x10
  | .chkLogDropped => chkBase + 0x14
  | .chkFenced => chkBase + 0x18
  | .chkEpochsFailed => chkBase + 0x20
  | .chkUncontained => chkBase + 0x28
  | .lnkCfg p => lnkBase + p * 0x10000
  | .lnkStatus p => lnkBase + p * 0x10000 + 0x4
  | .lnkDelay p => lnkBase + p * 0x10000 + 0x8
  | .lnkTxCells p => lnkBase + p * 0x10000 + 0x10
  | .lnkRxCells p => lnkBase + p * 0x10000 + 0x18
  | .lnkRxBad p => lnkBase + p * 0x10000 + 0x20
  | .lnkReplays p => lnkBase + p * 0x10000 + 0x28
  | .lnkFecCorr p => lnkBase + p * 0x10000 + 0x30
  | .lnkFecUncorr p => lnkBase + p * 0x10000 + 0x38
  | .lnkDownshifts p => lnkBase + p * 0x10000 + 0x40
  | .lnkEthDiscard p => lnkBase + p * 0x10000 + 0x48
  | .lnkEthMac p => lnkBase + p * 0x10000 + 0x100
  | .lnkEthIp6 p w => lnkBase + p * 0x10000 + 0x110 + w * 4
  | .lnkEthIp4 p => lnkBase + p * 0x10000 + 0x120
  | .lnkEthL4 p => lnkBase + p * 0x10000 + 0x124
  | .lnkEthSeg p => lnkBase + p * 0x10000 + 0x128
  | .lnkEthRto p => lnkBase + p * 0x10000 + 0x12C
  | .tslStatus e => tslBase + e * 0x100000
  | .tslPages e => tslBase + e * 0x100000 + 0x10
  | .tslBytes e => tslBase + e * 0x100000 + 0x18
  | .tslRetx e => tslBase + e * 0x100000 + 0x20
  | .tslCnvSat e => tslBase + e * 0x100000 + 0x28
  | .tslCnvFlush e => tslBase + e * 0x100000 + 0x2c
  | .tslCnvNan e => tslBase + e * 0x100000 + 0x30
  | .tslPoisoned e => tslBase + e * 0x100000 + 0x34
  | .tslRate e f => tslBase + e * 0x100000 + 0x100 + f * 4
  | .tslDirCfg e f => tslBase + e * 0x100000 + 0x80000 + f * 0x40
  | .tslDirQuota e f => tslBase + e * 0x100000 + 0x80000 + f * 0x40 + 0x4
  | .tslDirEntries e f => tslBase + e * 0x100000 + 0x80000 + f * 0x40 + 0x8
  | .tslDirPool e f => tslBase + e * 0x100000 + 0x80000 + f * 0x40 + 0xC
  | .tslDirFree e f => tslBase + e * 0x100000 + 0x80000 + f * 0x40 + 0x10
  | .tslDirHits e f => tslBase + e * 0x100000 + 0x80000 + f * 0x40 + 0x18
  | .tslDirMisses e f => tslBase + e * 0x100000 + 0x80000 + f * 0x40 + 0x20
  | .tslDirDrops e f => tslBase + e * 0x100000 + 0x80000 + f * 0x40 + 0x28
  | .tslDirInsSkip e f => tslBase + e * 0x100000 + 0x80000 + f * 0x40 + 0x30
  | .lpdStatus k => lpdBase + k * 0x10000
  | .lpdTrnOvr k => lpdBase + k * 0x10000 + 0x4
  | .lpdScrub k => lpdBase + k * 0x10000 + 0x8
  | .lpdEccCorr k => lpdBase + k * 0x10000 + 0x10
  | .lpdEccUncorr k => lpdBase + k * 0x10000 + 0x18
  | .lpdRdBytes k => lpdBase + k * 0x10000 + 0x20
  | .lpdWrBytes k => lpdBase + k * 0x10000 + 0x28
  | .lpdScrubPasses k => lpdBase + k * 0x10000 + 0x30
  | .lpdSlot k n => lpdBase + k * 0x10000 + 0x100 + n * 4
  | .xltRoot f => xltBase + 0x100 + f * 0x40
  | .xltFltVa f => xltBase + 0x100 + f * 0x40 + 0x8
  | .xltFltInfo f => xltBase + 0x100 + f * 0x40 + 0x10
  | .xltWalks f => xltBase + 0x100 + f * 0x40 + 0x18
  | .xltDrops f => xltBase + 0x100 + f * 0x40 + 0x20
  | .pwrInStatus => pwrBase
  | .pwrInLatch => pwrBase + 0x4
  | .pwrVin => pwrBase + 0x8
  | .pwrIin => pwrBase + 0xc
  | .pwrPin => pwrBase + 0x10
  | .pwrCool => pwrBase + 0x14
  | .pwrFlow => pwrBase + 0x18
  | .pwrLastTrip => pwrBase + 0x1C
  | .pwrModstate => pwrBase + 0x20
  | .pwrBoot => pwrBase + 0x24
  | .pwrBootRsn => pwrBase + 0x28
  | .pwrLimit => pwrBase + 0x100
  | .pwrFix => pwrBase + 0x104
  | .pwrExcess => pwrBase + 0x108
  | .pwrAlloc f => pwrBase + 0x140 + f * 4
  | .pwrSensor i => pwrBase + 0x400 + i * 4
  | .telBoot e => telBase + e * 0x100000
  | .telBootTime e => telBase + e * 0x100000 + 0x8
  | .secStatus => secBase
  | .secArb => secBase + 0x4
  | .secKeyhash k w => secBase + 0x100 + k * 0x40 + w * 8
  | .uciStatus e => uciBase + e * 0x100000
  | .uciCfg e => uciBase + e * 0x100000 + 0x4
  | .uciCrcErr e => uciBase + e * 0x100000 + 0x8
  | .uciReplays e => uciBase + e * 0x100000 + 0x10
  | .uciDowns e => uciBase + e * 0x100000 + 0x18

/-- The width of a register in bits (01_module.md R36). -/
def Reg.width : Reg → Nat
  | .srlSerial => 64
  | .srlFencedPlots => 64
  | .srlBeat => 64
  | .srlDomId => 64
  | .arrTiles _ _ => 64
  | .arrAccCyc _ _ => 64
  | .arrHoldCyc _ _ => 64
  | .arrDrainWait _ _ => 64
  | .seqInvoc _ => 64
  | .strMoves _ => 64
  | .chkDetections _ => 64
  | .chkReplays _ => 64
  | .chkEccCorr _ => 64
  | .chkKatRuns _ => 64
  | .chkKatLastA0 _ => 64
  | .chkKatLastA1 _ => 64
  | .chkKatLastVec _ => 64
  | .mbxWinBase _ => 64
  | .msixPba _ => 64
  | .chkUtcOffset => 64
  | .chkEpochsFailed => 64
  | .chkUncontained => 64
  | .lnkTxCells _ => 64
  | .lnkRxCells _ => 64
  | .lnkRxBad _ => 64
  | .lnkReplays _ => 64
  | .lnkFecCorr _ => 64
  | .lnkFecUncorr _ => 64
  | .lnkDownshifts _ => 64
  | .lnkEthDiscard _ => 64
  | .lnkEthMac _ => 64
  | .tslPages _ => 64
  | .tslBytes _ => 64
  | .tslRetx _ => 64
  | .tslDirHits _ _ => 64
  | .tslDirMisses _ _ => 64
  | .tslDirDrops _ _ => 64
  | .tslDirInsSkip _ _ => 64
  | .lpdEccCorr _ => 64
  | .lpdEccUncorr _ => 64
  | .lpdRdBytes _ => 64
  | .lpdWrBytes _ => 64
  | .lpdScrubPasses _ => 64
  | .xltRoot _ => 64
  | .xltFltVa _ => 64
  | .xltWalks _ => 64
  | .xltDrops _ => 64
  | .telBootTime _ => 64
  | .secKeyhash _ _ => 64
  | .uciCrcErr _ => 64
  | .uciReplays _ => 64
  | _ => 32

/-- The fields of a register that are not reserved. -/
def Reg.fields : Reg → List Fld
  | .srlId =>
    [⟨"SRL_ID_GEN", 31, 24, .ro, 3⟩, ⟨"SRL_ID_HOSTOPT", 23, 16, .ro, 1⟩, ⟨"SRL_ID_STEP", 15, 8, .ro, 0x10⟩, ⟨"SRL_ID_FMT", 7, 0, .ro, 1⟩]
  | .srlSerial =>
    [⟨"SRL_SERIAL", 63, 0, .ro, 0⟩]
  | .srlFencedPlots =>
    [⟨"SRL_FENCED_PLOTS", 63, 0, .ro, 0⟩]
  | .srlBeat =>
    [⟨"SRL_BEAT", 63, 0, .ro, 0⟩]
  | .srlDomId =>
    [⟨"SRL_DOM_ID", 63, 0, .ro, 0⟩]
  | .srlDomStatus =>
    [⟨"SRL_DOM_STATE", 31, 30, .ro, 0⟩, ⟨"SRL_DOM_MEMBER", 24, 16, .ro, 0⟩, ⟨"SRL_DOM_UPPORT", 15, 8, .ro, 0xff⟩, ⟨"SRL_DOM_PHERR", 7, 0, .ro, 0⟩]
  | .srlDomLosses =>
    [⟨"SRL_DOM_LOSSES", 31, 0, .rc, 0⟩]
  | .srlDomLate =>
    [⟨"SRL_DOM_LATE", 31, 0, .rc, 0⟩]
  | .coreId c =>
    [⟨"CORE_ID_POOL", 21, 21, .ro, if poolCapable c then 1 else 0⟩, ⟨"CORE_ID_PLOT", 20, 15, .ro, plotOf c⟩, ⟨"CORE_ID_NUM", 14, 0, .ro, c⟩]
  | .coreStatus _ =>
    [⟨"CORE_ST_A1_FENCED", 3, 3, .ro, 0⟩, ⟨"CORE_ST_A0_FENCED", 2, 2, .ro, 0⟩, ⟨"CORE_ST_FENCED", 1, 1, .ro, 0⟩, ⟨"CORE_ST_BUSY", 0, 0, .ro, 0⟩]
  | .coreBankWait _ =>
    [⟨"CORE_BANK_WAIT", 31, 0, .rc, 0⟩]
  | .coreSslotScale _ _ =>
    [⟨"CORE_SSLOT_SCALE", 31, 0, .rw, 0x3f800000⟩]
  | .coreSslotAmax _ _ =>
    [⟨"CORE_SSLOT_AMAX", 31, 0, .ro, 0⟩]
  | .coreSslotCfg _ _ =>
    [⟨"CORE_SSLOT_FMT", 11, 8, .ro, 0⟩, ⟨"CORE_SSLOT_VALID", 7, 7, .ro, 0⟩, ⟨"CORE_SSLOT_HOLD", 6, 6, .rw, 0⟩, ⟨"CORE_SSLOT_SOURCE", 5, 5, .rw, 0⟩, ⟨"CORE_SSLOT_HEADROOM", 2, 0, .rw, 1⟩]
  | .coreCnvSat _ =>
    [⟨"CORE_CNV_SAT", 31, 0, .rc, 0⟩]
  | .coreCnvFlush _ =>
    [⟨"CORE_CNV_FLUSH", 31, 0, .rc, 0⟩]
  | .coreCnvNan _ =>
    [⟨"CORE_CNV_NAN", 31, 0, .rc, 0⟩]
  | .coreCnvOvf _ =>
    [⟨"CORE_CNV_OVF", 31, 0, .rc, 0⟩]
  | .arrStatus _ _ =>
    [⟨"ARR_ST_STATE", 7, 6, .ro, 0⟩, ⟨"ARR_ST_LIVE", 5, 5, .ro, 0⟩, ⟨"ARR_ST_SHADOW_FREE", 4, 4, .ro, 1⟩]
  | .arrTiles _ _ =>
    [⟨"ARR_TILES", 63, 0, .rc, 0⟩]
  | .arrAccCyc _ _ =>
    [⟨"ARR_ACC_CYC", 63, 0, .rc, 0⟩]
  | .arrHoldCyc _ _ =>
    [⟨"ARR_HOLD_CYC", 63, 0, .rc, 0⟩]
  | .arrDrainWait _ _ =>
    [⟨"ARR_DRAIN_WAIT", 63, 0, .rc, 0⟩]
  | .seqStatus _ =>
    [⟨"SEQ_ST_STATE", 19, 16, .ro, 0⟩, ⟨"SEQ_ST_ENTRY", 11, 0, .ro, 0⟩]
  | .seqInvoc _ =>
    [⟨"SEQ_INVOC", 63, 0, .ro, 0⟩]
  | .seqFault _ =>
    [⟨"SEQ_FLT_CAUSE", 31, 24, .ro, 0⟩, ⟨"SEQ_FLT_ENTRY", 11, 0, .ro, 0⟩]
  | .seqCrec _ _ =>
    [⟨"SEQ_CREC", 31, 0, .ro, 0⟩]
  | .seqLoop _ _ =>
    [⟨"SEQ_LOOP_LIMIT", 31, 16, .ro, 0⟩, ⟨"SEQ_LOOP_IDX", 15, 0, .ro, 0⟩]
  | .seqRs _ _ _ =>
    [⟨"SEQ_RS_WORD", 31, 0, .rw, 0⟩]
  | .strStatus _ =>
    [⟨"STR_CTX_FAULT", 7, 4, .ro, 0⟩, ⟨"STR_CTX_BUSY", 3, 0, .ro, 0⟩]
  | .strFault _ =>
    [⟨"STR_FLT_CAUSE", 31, 24, .ro, 0⟩, ⟨"STR_FLT_CTX", 23, 22, .ro, 0⟩, ⟨"STR_FLT_PROG", 21, 16, .ro, 0⟩, ⟨"STR_FLT_PC", 4, 0, .ro, 0⟩]
  | .strInqHwm _ =>
    [⟨"STR_INQ_HWM", 31, 0, .rc, 0⟩]
  | .strMoves _ =>
    [⟨"STR_MOVES", 63, 0, .rc, 0⟩]
  | .strCtx _ _ =>
    [⟨"STR_CTX_ACTIVE", 31, 31, .ro, 0⟩, ⟨"STR_CTX_WAITING", 30, 30, .ro, 0⟩, ⟨"STR_CTX_PROG", 29, 24, .ro, 0⟩, ⟨"STR_CTX_PC", 20, 16, .ro, 0⟩]
  | .strRingBase _ _ =>
    [⟨"STR_RING_BASE", 16, 0, .rw, 0⟩]
  | .strRingGeom _ _ =>
    [⟨"STR_RING_SLOTSZ", 23, 16, .rw, 0⟩, ⟨"STR_RING_SLOTS", 12, 8, .rw, 0⟩, ⟨"STR_RING_DEPTH", 3, 0, .rw, 0⟩]
  | .strRingObj _ _ =>
    [⟨"STR_RING_FREE", 30, 16, .rw, 0⟩, ⟨"STR_RING_FULL", 14, 0, .rw, 0⟩]
  | .strRingPtr _ _ =>
    [⟨"STR_RING_TAIL", 31, 16, .ro, 0⟩, ⟨"STR_RING_HEAD", 15, 0, .ro, 0⟩]
  | .chkStatus _ =>
    [⟨"CHK_ST_LAST_DET", 15, 8, .ro, 0⟩, ⟨"CHK_ST_SELFCHECK", 3, 3, .ro, 0⟩, ⟨"CHK_ST_ESCALATED", 2, 2, .ro, 0⟩, ⟨"CHK_ST_REPLAY", 1, 0, .ro, 0⟩]
  | .chkInject _ =>
    [⟨"CHK_INJ_UNIT", 2, 1, .wo, 0⟩, ⟨"CHK_INJ_GO", 0, 0, .wo, 0⟩]
  | .chkDetections _ =>
    [⟨"CHK_DETECTIONS", 63, 0, .rc, 0⟩]
  | .chkReplays _ =>
    [⟨"CHK_REPLAYS", 63, 0, .rc, 0⟩]
  | .chkEccCorr _ =>
    [⟨"CHK_ECC_CORR", 63, 0, .rc, 0⟩]
  | .chkKatRuns _ =>
    [⟨"CHK_KAT_RUNS", 63, 0, .rc, 0⟩]
  | .chkKatGapMax _ =>
    [⟨"CHK_KAT_GAP_MAX", 31, 0, .rc, 0⟩]
  | .chkKatLastA0 _ =>
    [⟨"CHK_KAT_LAST_A0", 63, 0, .ro, 0⟩]
  | .chkKatLastA1 _ =>
    [⟨"CHK_KAT_LAST_A1", 63, 0, .ro, 0⟩]
  | .chkKatLastVec _ =>
    [⟨"CHK_KAT_LAST_VEC", 63, 0, .ro, 0⟩]
  | .mbxPage _ _ =>
    [⟨"MBX_PAGE", 31, 0, .rw, 0⟩]
  | .mbxMb _ _ =>
    [⟨"MBX_MB_STATUS", 31, 24, .ro, 0⟩, ⟨"MBX_MB_DONE", 2, 2, .ro, 0⟩, ⟨"MBX_MB_BUSY", 1, 1, .ro, 0⟩, ⟨"MBX_MB_GO", 0, 0, .wo, 0⟩]
  | .mbxFunc _ =>
    [⟨"MBX_MODSTATE", 31, 29, .ro, 1⟩, ⟨"MBX_PARTSTATE", 28, 26, .ro, 0⟩, ⟨"MBX_RESETTING", 25, 25, .ro, 0⟩, ⟨"MBX_FAULTCAUSE", 7, 0, .ro, 0⟩]
  | .mbxWinBase _ =>
    [⟨"MBX_WIN_BASE", 47, 36, .rw, 0⟩]
  | .mbxExpDone _ _ =>
    [⟨"MBX_EXP_DONE", 31, 0, .w1c, 0⟩]
  | .mbxEvent _ =>
    [⟨"MBX_EV_MODULE", 3, 3, .w1c, 0⟩, ⟨"MBX_EV_LOG", 2, 2, .w1c, 0⟩, ⟨"MBX_EV_EXPORT", 1, 1, .w1c, 0⟩, ⟨"MBX_EV_STATE", 0, 0, .w1c, 0⟩]
  | .msixTable _ w =>
    [⟨"MSIX_TABLE", 31, 0, .rw, if w % 4 = 3 then 1 else 0⟩]
  | .msixPba _ =>
    [⟨"MSIX_PBA", 63, 0, .ro, 0⟩]
  | .expTable _ _ =>
    [⟨"EXP_TABLE", 31, 0, .ro, 0⟩]
  | .synStatus =>
    [⟨"SYN_BARRIERS", 13, 0, .ro, 0⟩]
  | .synOverruns =>
    [⟨"SYN_OVERRUNS", 31, 0, .rc, 0⟩]
  | .synObjCfg _ =>
    [⟨"SYN_OBJ_TYPE", 31, 30, .rw, 0⟩, ⟨"SYN_OBJ_BOUND", 15, 0, .rw, 0⟩]
  | .synObjState _ =>
    [⟨"SYN_OBJ_GEN", 31, 31, .rw, 0⟩, ⟨"SYN_OBJ_PCOUNT", 29, 15, .rw, 0⟩, ⟨"SYN_OBJ_ARRIVED", 14, 0, .ro, 0⟩]
  | .synObjWaiters _ =>
    [⟨"SYN_OBJ_WAITERS", 15, 0, .ro, 0⟩]
  | .synObjOwner _ =>
    [⟨"SYN_OBJ_FUNC", 4, 0, .ro, 0⟩]
  | .chkPerm =>
    [⟨"CHK_PERM_COUNT", 31, 30, .rw, 3⟩, ⟨"CHK_PERM_WINDOW", 29, 0, .rw, 0xf4240⟩]
  | .chkSession =>
    [⟨"CHK_SESSION", 31, 0, .ro, 0⟩]
  | .chkUtcOffset =>
    [⟨"CHK_UTC_OFFSET", 63, 0, .rw, 0⟩]
  | .chkLogSeq =>
    [⟨"CHK_LOG_SEQ", 31, 0, .ro, 0xffffffff⟩]
  | .chkLogDropped =>
    [⟨"CHK_LOG_DROPPED", 31, 0, .rc, 0⟩]
  | .chkFenced =>
    [⟨"CHK_FENCED", 31, 0, .ro, 0⟩]
  | .chkEpochsFailed =>
    [⟨"CHK_EPOCHS_FAILED", 63, 0, .rc, 0⟩]
  | .chkUncontained =>
    [⟨"CHK_UNCONTAINED", 63, 0, .rc, 0⟩]
  | .lnkCfg _ =>
    [⟨"LNK_MODE", 31, 30, .rw, 0⟩, ⟨"LNK_PROFILE", 29, 28, .rw, 0⟩, ⟨"LNK_ETH_RATE", 27, 26, .rw, 0⟩, ⟨"LNK_ETH_FALLBACK", 25, 25, .rw, 0⟩]
  | .lnkStatus _ =>
    [⟨"LNK_LANES_UP", 31, 28, .ro, 0⟩, ⟨"LNK_LANES_FENCED", 27, 24, .ro, 0⟩, ⟨"LNK_STATE", 23, 20, .ro, 0⟩, ⟨"LNK_WIDTH", 19, 16, .ro, 0⟩, ⟨"LNK_LD", 15, 8, .ro, 0⟩]
  | .lnkDelay _ =>
    [⟨"LNK_DELAY", 31, 0, .ro, 0⟩]
  | .lnkTxCells _ =>
    [⟨"LNK_TX_CELLS", 63, 0, .rc, 0⟩]
  | .lnkRxCells _ =>
    [⟨"LNK_RX_CELLS", 63, 0, .rc, 0⟩]
  | .lnkRxBad _ =>
    [⟨"LNK_RX_BAD", 63, 0, .rc, 0⟩]
  | .lnkReplays _ =>
    [⟨"LNK_REPLAYS", 63, 0, .rc, 0⟩]
  | .lnkFecCorr _ =>
    [⟨"LNK_FEC_CORR", 63, 0, .rc, 0⟩]
  | .lnkFecUncorr _ =>
    [⟨"LNK_FEC_UNCORR", 63, 0, .rc, 0⟩]
  | .lnkDownshifts _ =>
    [⟨"LNK_DOWNSHIFTS", 63, 0, .rc, 0⟩]
  | .lnkEthDiscard _ =>
    [⟨"LNK_ETH_DISCARD", 63, 0, .rc, 0⟩]
  | .lnkEthMac _ =>
    [⟨"LNK_ETH_MAC", 47, 0, .rw, 0⟩]
  | .lnkEthIp6 _ _ =>
    [⟨"LNK_ETH_IP6", 31, 0, .rw, 0⟩]
  | .lnkEthIp4 _ =>
    [⟨"LNK_ETH_IP4", 31, 0, .rw, 0⟩]
  | .lnkEthL4 _ =>
    [⟨"LNK_ETH_L4", 31, 2, .rw, 0x30695000⟩]
  | .lnkEthSeg _ =>
    [⟨"LNK_ETH_SEG", 13, 0, .rw, 0x2000⟩]
  | .lnkEthRto _ =>
    [⟨"LNK_ETH_RTO", 15, 0, .rw, 0x800⟩]
  | .tslStatus _ =>
    [⟨"TSL_ACTIVE", 23, 16, .ro, 0⟩, ⟨"TSL_HOLD_KIB", 15, 0, .ro, 0⟩]
  | .tslPages _ =>
    [⟨"TSL_PAGES", 63, 0, .rc, 0⟩]
  | .tslBytes _ =>
    [⟨"TSL_BYTES", 63, 0, .rc, 0⟩]
  | .tslRetx _ =>
    [⟨"TSL_RETX", 63, 0, .rc, 0⟩]
  | .tslCnvSat _ =>
    [⟨"TSL_CNV_SAT", 31, 0, .rc, 0⟩]
  | .tslCnvFlush _ =>
    [⟨"TSL_CNV_FLUSH", 31, 0, .rc, 0⟩]
  | .tslCnvNan _ =>
    [⟨"TSL_CNV_NAN", 31, 0, .rc, 0⟩]
  | .tslPoisoned _ =>
    [⟨"TSL_POISONED", 31, 0, .rc, 0⟩]
  | .tslRate _ _ =>
    [⟨"TSL_RATE", 11, 0, .rw, 0⟩]
  | .tslDirCfg _ _ =>
    [⟨"TSL_DIR_EN", 31, 31, .ro, 0⟩, ⟨"TSL_DIR_SHARE_HOST", 23, 18, .rw, 0⟩, ⟨"TSL_DIR_SHARE_SCHED", 17, 12, .rw, 0⟩]
  | .tslDirQuota _ _ =>
    [⟨"TSL_DIR_QUOTA", 23, 0, .rw, 0⟩]
  | .tslDirEntries _ _ =>
    [⟨"TSL_DIR_ENTRIES", 23, 0, .ro, 0⟩]
  | .tslDirPool _ _ =>
    [⟨"TSL_DIR_POOL", 28, 0, .ro, 0⟩]
  | .tslDirFree _ _ =>
    [⟨"TSL_DIR_FREE", 28, 0, .ro, 0⟩]
  | .tslDirHits _ _ =>
    [⟨"TSL_DIR_HITS", 63, 0, .rc, 0⟩]
  | .tslDirMisses _ _ =>
    [⟨"TSL_DIR_MISSES", 63, 0, .rc, 0⟩]
  | .tslDirDrops _ _ =>
    [⟨"TSL_DIR_DROPS", 63, 0, .rc, 0⟩]
  | .tslDirInsSkip _ _ =>
    [⟨"TSL_DIR_INS_SKIP", 63, 0, .rc, 0⟩]
  | .lpdStatus _ =>
    [⟨"LPD_STATE", 31, 28, .ro, 0⟩, ⟨"LPD_CH_OK", 27, 20, .ro, 0⟩]
  | .lpdTrnOvr _ =>
    [⟨"LPD_TRN_OVR_EN", 31, 31, .rw, 0⟩, ⟨"LPD_TRN_GO", 30, 30, .wo, 0⟩, ⟨"LPD_TRN_VREF", 22, 16, .rw, 0⟩, ⟨"LPD_TRN_RD_TRIM", 15, 8, .rw, 0⟩, ⟨"LPD_TRN_WR_TRIM", 7, 0, .rw, 0⟩]
  | .lpdScrub _ =>
    [⟨"LPD_SCRUB_HOURS", 7, 0, .rw, 0x18⟩]
  | .lpdEccCorr _ =>
    [⟨"LPD_ECC_CORR", 63, 0, .rc, 0⟩]
  | .lpdEccUncorr _ =>
    [⟨"LPD_ECC_UNCORR", 63, 0, .rc, 0⟩]
  | .lpdRdBytes _ =>
    [⟨"LPD_RD_BYTES", 63, 0, .rc, 0⟩]
  | .lpdWrBytes _ =>
    [⟨"LPD_WR_BYTES", 63, 0, .rc, 0⟩]
  | .lpdScrubPasses _ =>
    [⟨"LPD_SCRUB_PASSES", 63, 0, .rc, 0⟩]
  | .lpdSlot _ _ =>
    [⟨"LPD_SLOT_OWNER", 31, 0, .ro, 0⟩]
  | .xltRoot _ =>
    [⟨"XLT_ROOT", 63, 0, .ro, 0⟩]
  | .xltFltVa _ =>
    [⟨"XLT_FLT_VA", 63, 0, .ro, 0⟩]
  | .xltFltInfo _ =>
    [⟨"XLT_FLT_INFO", 31, 0, .ro, 0⟩]
  | .xltWalks _ =>
    [⟨"XLT_WALKS", 63, 0, .rc, 0⟩]
  | .xltDrops _ =>
    [⟨"XLT_DROPS", 63, 0, .rc, 0⟩]
  | .pwrInStatus =>
    [⟨"PWR_IN_HALT", 8, 8, .ro, 0⟩, ⟨"PWR_IN_VLOW", 7, 7, .ro, 0⟩, ⟨"PWR_IN_VHIGH", 6, 6, .ro, 0⟩, ⟨"PWR_IN_REF100", 5, 5, .ro, 0⟩, ⟨"PWR_IN_REF156_1", 4, 4, .ro, 0⟩, ⟨"PWR_IN_REF156_0", 3, 3, .ro, 0⟩, ⟨"PWR_IN_COOLT", 2, 2, .ro, 0⟩, ⟨"PWR_IN_FLOW", 1, 1, .ro, 0⟩, ⟨"PWR_IN_THERM", 0, 0, .ro, 0⟩]
  | .pwrInLatch =>
    [⟨"PWR_IN_HALT", 8, 8, .w1c, 0⟩, ⟨"PWR_IN_VLOW", 7, 7, .w1c, 0⟩, ⟨"PWR_IN_VHIGH", 6, 6, .w1c, 0⟩, ⟨"PWR_IN_REF100", 5, 5, .w1c, 0⟩, ⟨"PWR_IN_REF156_1", 4, 4, .w1c, 0⟩, ⟨"PWR_IN_REF156_0", 3, 3, .w1c, 0⟩, ⟨"PWR_IN_COOLT", 2, 2, .w1c, 0⟩, ⟨"PWR_IN_FLOW", 1, 1, .w1c, 0⟩, ⟨"PWR_IN_THERM", 0, 0, .w1c, 0⟩]
  | .pwrVin =>
    [⟨"PWR_VIN", 15, 0, .ro, 0⟩]
  | .pwrIin =>
    [⟨"PWR_IIN", 15, 0, .ro, 0⟩]
  | .pwrPin =>
    [⟨"PWR_PIN", 15, 0, .ro, 0⟩]
  | .pwrCool =>
    [⟨"PWR_COOL", 31, 0, .ro, 0⟩]
  | .pwrFlow =>
    [⟨"PWR_FLOW", 15, 0, .ro, 0⟩]
  | .pwrLastTrip =>
    [⟨"PWR_LAST_TRIP", 7, 0, .ro, 0⟩]
  | .pwrModstate =>
    [⟨"PWR_WAKING", 3, 3, .ro, 0⟩, ⟨"PWR_STATE", 2, 0, .ro, 1⟩]
  | .pwrBoot =>
    [⟨"PWR_BOOT_CLR", 31, 31, .wo, 0⟩, ⟨"PWR_BOOT_PREF", 17, 17, .ro, 0⟩, ⟨"PWR_BOOT_ACTIVE", 16, 16, .ro, 0⟩, ⟨"PWR_BOOT_FAILS", 11, 10, .ro, 0⟩]
  | .pwrBootRsn =>
    [⟨"PWR_BOOT_RSN1", 31, 16, .ro, 0⟩, ⟨"PWR_BOOT_RSN2", 15, 0, .ro, 0⟩]
  | .pwrLimit =>
    [⟨"PWR_LIMIT", 15, 0, .rw, 0x3c8c⟩]
  | .pwrFix =>
    [⟨"PWR_FIX", 15, 0, .ro, 0x9a6⟩]
  | .pwrExcess =>
    [⟨"PWR_EXCESS", 31, 0, .rc, 0⟩]
  | .pwrAlloc _ =>
    [⟨"PWR_ALLOC", 15, 0, .ro, 0⟩]
  | .pwrSensor _ =>
    [⟨"PWR_SENSOR", 15, 0, .ro, 0⟩]
  | .telBoot e =>
    [⟨"TEL_BOOT_STAGE", 31, 28, .ro, if e = 0 then 0x1 else 0⟩, ⟨"TEL_BOOT_REASON", 15, 0, .ro, 0⟩]
  | .telBootTime _ =>
    [⟨"TEL_BOOT_TIME", 63, 0, .ro, 0⟩]
  | .secStatus =>
    [⟨"SEC_REVOKED", 7, 4, .ro, 0⟩, ⟨"SEC_IDKEY_OK", 2, 2, .ro, 0⟩, ⟨"SEC_SELFTEST_OK", 1, 1, .ro, 0⟩, ⟨"SEC_FUSES_OK", 0, 0, .ro, 0⟩]
  | .secArb =>
    [⟨"SEC_ARB_COUNT", 7, 0, .ro, 0⟩]
  | .secKeyhash _ _ =>
    [⟨"SEC_KEYHASH", 63, 0, .ro, 0⟩]
  | .uciStatus _ =>
    [⟨"UCI_STATE", 31, 28, .ro, 0⟩, ⟨"UCI_RATE", 27, 24, .ro, 0⟩, ⟨"UCI_INLINK", 23, 23, .ro, 0⟩]
  | .uciCfg _ =>
    [⟨"UCI_CFG_MAXRATE", 0, 0, .rw, 0⟩]
  | .uciCrcErr _ =>
    [⟨"UCI_CRC_ERR", 63, 0, .rc, 0⟩]
  | .uciReplays _ =>
    [⟨"UCI_REPLAYS", 63, 0, .rc, 0⟩]
  | .uciDowns _ =>
    [⟨"UCI_DOWNS", 31, 0, .rc, 0⟩]

/-- The reset value of a register, put together from its fields. -/
def Reg.resetVal (r : Reg) : DWord :=
  BitVec.ofNat 64 (r.fields.foldl (fun acc f => acc + f.reset * 2 ^ f.lo) 0)

end Sys2Proof.Machine
end

