-- ==== Sys2Proof/Machine/RegDecode.lean ====
section
/-! DEFINITION. Which register a device address of the register space names (01_module.md R34-R36); none for a
reserved address. -/

namespace Sys2Proof.Machine

/-- The register at `base + index × stride` for an index below `n`, where offset `o` hits it exactly. -/
def regArray (o base stride n : Nat) (mk : Nat → Reg) : Option Reg :=
  if base ≤ o ∧ (o - base) % stride = 0 ∧ (o - base) / stride < n then some (mk ((o - base) / stride)) else none

/-- The register at offset `base` exactly. -/
def regAt (o base : Nat) (r : Reg) : Option Reg := if o = base then some r else none

/-- The first of a list of candidates that is there. -/
def firstSome {α : Type} : List (Option α) → Option α
  | [] => none
  | some x :: _ => some x
  | none :: r => firstSome r

/-- The registers of the core block at offset o of instance c. -/
def coreRegAt (c : Nat) (o : Nat) : Option Reg :=
  firstSome [
    regAt o (0x0) (.coreId c),
    regAt o (0x4) (.coreStatus c),
    regAt o (0x10) (.coreBankWait c),
    regArray o (0x400) 0x10 0x40 (fun i => .coreSslotScale c i),
    regArray o (0x404) 0x10 0x40 (fun i => .coreSslotAmax c i),
    regArray o (0x408) 0x10 0x40 (fun i => .coreSslotCfg c i),
    regAt o (0x800) (.coreCnvSat c),
    regAt o (0x804) (.coreCnvFlush c),
    regAt o (0x808) (.coreCnvNan c),
    regAt o (0x80c) (.coreCnvOvf c),
    regArray o (0x1000 + 0x0) 0x1000 2 (fun i => .arrStatus c i),
    regArray o (0x1000 + 0x8) 0x1000 2 (fun i => .arrTiles c i),
    regArray o (0x1000 + 0x10) 0x1000 2 (fun i => .arrAccCyc c i),
    regArray o (0x1000 + 0x18) 0x1000 2 (fun i => .arrHoldCyc c i),
    regArray o (0x1000 + 0x20) 0x1000 2 (fun i => .arrDrainWait c i),
    regAt o (0x3000) (.seqStatus c),
    regAt o (0x3008) (.seqInvoc c),
    regAt o (0x3010) (.seqFault c),
    regArray o (0x3040) 0x4 0x8 (fun i => .seqCrec c i),
    regArray o (0x3060) 0x4 0x4 (fun i => .seqLoop c i),
    (if 0x3120 ≤ o ∧ o < 0x3300 ∧ o % 4 = 0 then some (.seqRs c ((o - 0x3100) / 0x20) ((o - 0x3100) % 0x20 / 4)) else none),
    regAt o (0x4000) (.strStatus c),
    regAt o (0x4004) (.strFault c),
    regAt o (0x4008) (.strInqHwm c),
    regAt o (0x4010) (.strMoves c),
    regArray o (0x4040) 0x4 0x4 (fun i => .strCtx c i),
    regArray o (0x4100) 0x10 0x10 (fun i => .strRingBase c i),
    regArray o (0x4104) 0x10 0x10 (fun i => .strRingGeom c i),
    regArray o (0x4108) 0x10 0x10 (fun i => .strRingObj c i),
    regArray o (0x410C) 0x10 0x10 (fun i => .strRingPtr c i),
    regAt o (0x5000) (.chkStatus c),
    regAt o (0x5004) (.chkInject c),
    regAt o (0x5008) (.chkDetections c),
    regAt o (0x5010) (.chkReplays c),
    regAt o (0x5018) (.chkEccCorr c),
    regAt o (0x5020) (.chkKatRuns c),
    regAt o (0x5028) (.chkKatGapMax c),
    regAt o (0x5030) (.chkKatLastA0 c),
    regAt o (0x5038) (.chkKatLastA1 c),
    regAt o (0x5040) (.chkKatLastVec c)]

/-- The registers of the srl block at offset o of instance 0. -/
def srlRegAt (o : Nat) : Option Reg :=
  firstSome [
    regAt o (0x0) .srlId,
    regAt o (0x8) .srlSerial,
    regAt o (0x10) .srlFencedPlots,
    regAt o (0x100) .srlBeat,
    regAt o (0x108) .srlDomId,
    regAt o (0x110) .srlDomStatus,
    regAt o (0x114) .srlDomLosses,
    regAt o (0x118) .srlDomLate]

/-- The registers of the mbx block at offset o of instance f. -/
def mbxRegAt (f : Nat) (o : Nat) : Option Reg :=
  firstSome [
    regArray o (0x0) 0x4 0x2000 (fun i => .mbxPage f i),
    regArray o (0x8000) 0x4 0x4 (fun i => .mbxMb f i),
    regAt o (0x8100) (.mbxFunc f),
    regAt o (0x8108) (.mbxWinBase f),
    regArray o (0x8110) 0x4 0x4 (fun i => .mbxExpDone f i),
    regAt o (0x8120) (.mbxEvent f),
    regArray o (0x9000) 0x4 0x100 (fun i => .msixTable f i),
    regAt o (0x9800) (.msixPba f),
    regArray o (0xA000) 0x4 0x200 (fun i => .expTable f i)]

/-- The registers of the syn block at offset o of instance 0. -/
def synRegAt (o : Nat) : Option Reg :=
  firstSome [
    regAt o (0x0) .synStatus,
    regAt o (0x8) .synOverruns,
    regArray o (0x100000) 0x10 0x8000 (fun i => .synObjCfg i),
    regArray o (0x100000 + 0x4) 0x10 0x8000 (fun i => .synObjState i),
    regArray o (0x100000 + 0x8) 0x10 0x8000 (fun i => .synObjWaiters i),
    regArray o (0x100000 + 0xC) 0x10 0x8000 (fun i => .synObjOwner i)]

/-- The registers of the chk block at offset o of instance 0. -/
def chkRegAt (o : Nat) : Option Reg :=
  firstSome [
    regAt o (0x0) .chkPerm,
    regAt o (0x4) .chkSession,
    regAt o (0x8) .chkUtcOffset,
    regAt o (0x10) .chkLogSeq,
    regAt o (0x14) .chkLogDropped,
    regAt o (0x18) .chkFenced,
    regAt o (0x20) .chkEpochsFailed,
    regAt o (0x28) .chkUncontained]

/-- The registers of the lnk block at offset o of instance p. -/
def lnkRegAt (p : Nat) (o : Nat) : Option Reg :=
  firstSome [
    regAt o (0x0) (.lnkCfg p),
    regAt o (0x4) (.lnkStatus p),
    regAt o (0x8) (.lnkDelay p),
    regAt o (0x10) (.lnkTxCells p),
    regAt o (0x18) (.lnkRxCells p),
    regAt o (0x20) (.lnkRxBad p),
    regAt o (0x28) (.lnkReplays p),
    regAt o (0x30) (.lnkFecCorr p),
    regAt o (0x38) (.lnkFecUncorr p),
    regAt o (0x40) (.lnkDownshifts p),
    regAt o (0x48) (.lnkEthDiscard p),
    regAt o (0x100) (.lnkEthMac p),
    regArray o (0x110) 0x4 0x4 (fun i => .lnkEthIp6 p i),
    regAt o (0x120) (.lnkEthIp4 p),
    regAt o (0x124) (.lnkEthL4 p),
    regAt o (0x128) (.lnkEthSeg p),
    regAt o (0x12C) (.lnkEthRto p)]

/-- The registers of the tsl block at offset o of instance e. -/
def tslRegAt (e : Nat) (o : Nat) : Option Reg :=
  firstSome [
    regAt o (0x0) (.tslStatus e),
    regAt o (0x10) (.tslPages e),
    regAt o (0x18) (.tslBytes e),
    regAt o (0x20) (.tslRetx e),
    regAt o (0x28) (.tslCnvSat e),
    regAt o (0x2c) (.tslCnvFlush e),
    regAt o (0x30) (.tslCnvNan e),
    regAt o (0x34) (.tslPoisoned e),
    regArray o 0x104 4 16 (fun i => .tslRate e (i + 1)),
    regArray o (0x80000 + 0x0) 0x40 17 (fun i => .tslDirCfg e i),
    regArray o (0x80000 + 0x4) 0x40 17 (fun i => .tslDirQuota e i),
    regArray o (0x80000 + 0x8) 0x40 17 (fun i => .tslDirEntries e i),
    regArray o (0x80000 + 0xC) 0x40 17 (fun i => .tslDirPool e i),
    regArray o (0x80000 + 0x10) 0x40 17 (fun i => .tslDirFree e i),
    regArray o (0x80000 + 0x18) 0x40 17 (fun i => .tslDirHits e i),
    regArray o (0x80000 + 0x20) 0x40 17 (fun i => .tslDirMisses e i),
    regArray o (0x80000 + 0x28) 0x40 17 (fun i => .tslDirDrops e i),
    regArray o (0x80000 + 0x30) 0x40 17 (fun i => .tslDirInsSkip e i)]

/-- The registers of the lpd block at offset o of instance k. -/
def lpdRegAt (k : Nat) (o : Nat) : Option Reg :=
  firstSome [
    regAt o (0x0) (.lpdStatus k),
    regAt o (0x4) (.lpdTrnOvr k),
    regAt o (0x8) (.lpdScrub k),
    regAt o (0x10) (.lpdEccCorr k),
    regAt o (0x18) (.lpdEccUncorr k),
    regAt o (0x20) (.lpdRdBytes k),
    regAt o (0x28) (.lpdWrBytes k),
    regAt o (0x30) (.lpdScrubPasses k),
    regArray o (0x100) 0x4 0x10 (fun i => .lpdSlot k i)]

/-- The registers of the xlt block at offset o of instance f. -/
def xltRegAt (f : Nat) (o : Nat) : Option Reg :=
  firstSome [
    regAt o (0x0) (.xltRoot f),
    regAt o (0x8) (.xltFltVa f),
    regAt o (0x10) (.xltFltInfo f),
    regAt o (0x18) (.xltWalks f),
    regAt o (0x20) (.xltDrops f)]

/-- The registers of the pwr block at offset o of instance 0. -/
def pwrRegAt (o : Nat) : Option Reg :=
  firstSome [
    regAt o (0x0) .pwrInStatus,
    regAt o (0x4) .pwrInLatch,
    regAt o (0x8) .pwrVin,
    regAt o (0xc) .pwrIin,
    regAt o (0x10) .pwrPin,
    regAt o (0x14) .pwrCool,
    regAt o (0x18) .pwrFlow,
    regAt o (0x1C) .pwrLastTrip,
    regAt o (0x20) .pwrModstate,
    regAt o (0x24) .pwrBoot,
    regAt o (0x28) .pwrBootRsn,
    regAt o (0x100) .pwrLimit,
    regAt o (0x104) .pwrFix,
    regAt o (0x108) .pwrExcess,
    regArray o 0x144 4 16 (fun i => .pwrAlloc (i + 1)),
    regArray o (0x400) 0x4 0x5c (fun i => .pwrSensor i)]

/-- The registers of the tel block at offset o of instance e. -/
def telRegAt (e : Nat) (o : Nat) : Option Reg :=
  firstSome [
    regAt o (0x0) (.telBoot e),
    regAt o (0x8) (.telBootTime e)]

/-- The registers of the sec block at offset o of instance 0. -/
def secRegAt (o : Nat) : Option Reg :=
  firstSome [
    regAt o (0x0) .secStatus,
    regAt o (0x4) .secArb,
    (if 0x100 ≤ o ∧ o < 0x200 ∧ o % 8 = 0 then some (.secKeyhash ((o - 0x100) / 0x40) ((o - 0x100) % 0x40 / 8)) else none)]

/-- The registers of the uci block at offset o of instance e. -/
def uciRegAt (e : Nat) (o : Nat) : Option Reg :=
  firstSome [
    regAt o (0x0) (.uciStatus e),
    regAt o (0x4) (.uciCfg e),
    regAt o (0x8) (.uciCrcErr e),
    regAt o (0x10) (.uciReplays e),
    regAt o (0x18) (.uciDowns e)]

/-- The register at a device address. -/
def Reg.ofAddr (a : Nat) : Option Reg :=
  if a < coreBase 0 then none
  else if a < coreBase 25600 then coreRegAt ((a - coreBase 0) / 0x10000) ((a - coreBase 0) % 0x10000)
  else if a < srlBase then none
  else
    let o := a % 0x1000000
    match (a - srlBase) / 0x1000000 with
    | 0 => srlRegAt o
    | 1 => if o / 0x10000 < 17 then mbxRegAt (o / 0x10000) (o % 0x10000) else none
    | 2 => synRegAt o
    | 3 => chkRegAt o
    | 4 => if o / 0x10000 < 16 then lnkRegAt (o / 0x10000) (o % 0x10000) else none
    | 5 => if o / 0x100000 < 2 then tslRegAt (o / 0x100000) (o % 0x100000) else none
    | 6 => if o / 0x10000 < 16 then lpdRegAt (o / 0x10000) (o % 0x10000) else none
    | 7 => if 0x140 ≤ o ∧ o < 0x100 + 17 * 0x40 then xltRegAt ((o - 0x100) / 0x40) ((o - 0x100) % 0x40) else none
    | 8 => pwrRegAt o
    | 9 => if o / 0x100000 < 2 then telRegAt (o / 0x100000) (o % 0x100000) else none
    | 10 => secRegAt o
    | 11 => if o / 0x100000 < 2 then uciRegAt (o / 0x100000) (o % 0x100000) else none
    | _ => none

end Sys2Proof.Machine
end

