-- ==== Sys2Proof/Machine/Act.lean ====
section
/-! DEFINITION. What a command may do to the block: an Act is a function of the block together with the fact that it
is a sequence of the five primitive updates below, so that what every primitive keeps, every command keeps. -/

namespace Sys2Proof.Machine

/-- What an unlisted byte of scratch or LPDDR5X reads as (log 1). -/
def memDefault : Byte := 0

/-- The canonical form of memory: addresses strictly rising, no byte listed that an unlisted address reads as. -/
def Memory.wf (m : List Host.Cell) : Bool := smSorted m && m.all fun e => e.2 != memDefault

/-- Bytes bs written from device address a on. -/
def cellsPut (m : List Host.Cell) (a : Nat) (bs : Bytes) : List Host.Cell :=
  match bs with
  | [] => m
  | b :: r => cellsPut (smSet m a b memDefault) (a + 1) r

/-- `Steps b b'`: b' comes from b by primitive updates only. -/
inductive Steps : Block → Block → Prop where
  | refl (b : Block) : Steps b b
  /-- one register's word, cut to its width -/
  | reg (b c : Block) (r : Reg) (v : Nat) (h : Steps b c) :
      Steps b { c with regs := smSet c.regs r.addr (BitVec.ofNat 64 (v % 2 ^ r.width)) r.resetVal }
  /-- registers whose address a test admits go back to their reset values -/
  | regReset (b c : Block) (keep : Nat → Bool) (h : Steps b c) :
      Steps b { c with regs := c.regs.filter (fun e => keep e.1) }
  /-- one run of bytes -/
  | mem (b c : Block) (a : Nat) (bs : Bytes) (h : Steps b c) : Steps b { c with mem := cellsPut c.mem a bs }
  /-- bytes whose address a test does not admit read as unlisted -/
  | memReset (b c : Block) (keep : Nat → Bool) (h : Steps b c) :
      Steps b { c with mem := c.mem.filter (fun e => keep e.1) }
  /-- anything without an address -/
  | unit (b c : Block) (u : Units) (h : Steps b c) : Steps b { c with toUnits := u }

/-- Two runs of primitive updates, one after the other. -/
theorem Steps.trans {a b c : Block} (h : Steps a b) (k : Steps b c) : Steps a c := by
  induction k with
  | refl => exact h
  | reg c r v _ ih => exact .reg _ c r v ih
  | regReset c p _ ih => exact .regReset _ c p ih
  | mem c x bs _ ih => exact .mem _ c x bs ih
  | memReset c p _ ih => exact .memReset _ c p ih
  | unit c u _ ih => exact .unit _ c u ih

/-- An effect on the block. -/
structure Act where
  run : Block → Block
  steps : ∀ b, Steps b (run b)

/-- No effect. -/
def Act.nop : Act := { run := fun b => b, steps := fun b => .refl b }

/-- One effect after another. -/
def Act.seq (x y : Act) : Act :=
  { run := fun b => y.run (x.run b), steps := fun b => (x.steps b).trans (y.steps _) }

/-- The effects of a list in turn. -/
def Act.all : List Act → Act
  | [] => Act.nop
  | x :: r => x.seq (Act.all r)

/-- An effect that depends on the block. -/
def Act.read (k : Block → Act) : Act := { run := fun b => (k b).run b, steps := fun b => (k b).steps b }

/-- An effect for each element of a list in turn. -/
def Act.each {α : Type} (l : List α) (k : α → Act) : Act :=
  match l with
  | [] => Act.nop
  | x :: r => (k x).seq (Act.each r k)

/-- An effect under a condition. -/
def Act.when (c : Bool) (x : Act) : Act := if c then x else Act.nop

/-- An effect under a condition on the block. -/
def Act.whenB (c : Block → Bool) (x : Act) : Act := Act.read fun b => Act.when (c b) x

/-- An effect on the content of an option, none on an empty one. -/
def Act.opt {α : Type} (o : Option α) (k : α → Act) : Act :=
  match o with
  | none => Act.nop
  | some x => k x

/-- Register r takes the word v, cut to its width. -/
def Act.setReg (r : Reg) (v : Nat) : Act :=
  { run := fun b => { b with regs := smSet b.regs r.addr (BitVec.ofNat 64 (v % 2 ^ r.width)) r.resetVal }
    steps := fun b => .reg b b r v (.refl b) }

/-- Registers whose address `keep` refuses go back to reset. -/
def Act.resetRegs (keep : Nat → Bool) : Act :=
  { run := fun b => { b with regs := b.regs.filter (fun e => keep e.1) }
    steps := fun b => .regReset b b keep (.refl b) }

/-- Bytes bs go to device address a. -/
def Act.setMem (a : Nat) (bs : Bytes) : Act :=
  { run := fun b => { b with mem := cellsPut b.mem a bs }, steps := fun b => .mem b b a bs (.refl b) }

/-- Bytes whose address `keep` refuses read as unlisted again. -/
def Act.resetMem (keep : Nat → Bool) : Act :=
  { run := fun b => { b with mem := b.mem.filter (fun e => keep e.1) }
    steps := fun b => .memReset b b keep (.refl b) }

/-- The units change. -/
def Act.units (g : Units → Units) : Act :=
  { run := fun b => { b with toUnits := g b.toUnits }, steps := fun b => .unit b b _ (.refl b) }

/-- The command's outcome: its effect on everything but the queue where the units it names exist, the fault
noSuchUnit otherwise (01_module.md R15). -/
def perform (exist : Bool) (x : Act) (s : State) : Host.Outcome State Fault Refusal :=
  if exist then .next { s with toBlock := x.run s.toBlock } else .fault .noSuchUnit

end Sys2Proof.Machine
end

