-- ==== Sys2Proof/Machine/Checksum.lean ====
section
/-! DEFINITION. The checksums and digests the spec names: CRC-32C (09_schedules.md R245, 10_links.md R276, R296,
11_integrity.md R333), the CRC-64 of weight digests (11_integrity.md R317), SHA-512 and RSASSA-PSS with SHA-512
(15_power_boot.md R409), as the published standards define them (00_scope.md R6). -/

namespace Sys2Proof.Machine

/-- One bit of a reflected CRC-32C. -/
def crc32cBit (c : BitVec 32) : BitVec 32 :=
  if c.getLsbD 0 then (c >>> 1) ^^^ 0x82F63B78#32 else c >>> 1

/-- One byte of CRC-32C. -/
def crc32cByte (c : BitVec 32) (b : Byte) : BitVec 32 :=
  let x := c ^^^ b.setWidth 32
  crc32cBit (crc32cBit (crc32cBit (crc32cBit (crc32cBit (crc32cBit (crc32cBit (crc32cBit x)))))))

/-- CRC-32C of a byte string. -/
def crc32c (d : Bytes) : BitVec 32 := ~~~ (d.foldl crc32cByte (~~~ (0#32)))

/-- One bit of a reflected CRC-32, the frame check sequence of Ethernet (10_links.md R295). -/
def crc32Bit (c : BitVec 32) : BitVec 32 :=
  if c.getLsbD 0 then (c >>> 1) ^^^ 0xEDB88320#32 else c >>> 1

/-- One byte of CRC-32. -/
def crc32Byte (c : BitVec 32) (b : Byte) : BitVec 32 :=
  let x := c ^^^ b.setWidth 32
  crc32Bit (crc32Bit (crc32Bit (crc32Bit (crc32Bit (crc32Bit (crc32Bit (crc32Bit x)))))))

/-- CRC-32 of a byte string. -/
def crc32 (d : Bytes) : BitVec 32 := ~~~ (d.foldl crc32Byte (~~~ (0#32)))

/-- The one's-complement sum of the big-endian 16-bit words of a byte string, an odd last byte padded with 0. -/
def onesSum : Bytes → Nat → Nat
  | [], n => n
  | [x], n => (n + x.toNat * 256) % 65536 + (n + x.toNat * 256) / 65536
  | x :: y :: r, n =>
    let m := n + x.toNat * 256 + y.toNat
    onesSum r (m % 65536 + m / 65536)

/-- The Internet checksum of a byte string (10_links.md R295). -/
def inetSum (d : Bytes) : Nat :=
  let n := onesSum d 0
  65535 - (n % 65536 + n / 65536)

/-- One bit of CRC-64 with the ECMA-182 polynomial, no reflection (11_integrity.md R317). -/
def crc64Bit (c : BitVec 64) : BitVec 64 :=
  if c.getLsbD 63 then (c <<< 1) ^^^ 0x42F0E1EBA9EA3693#64 else c <<< 1

/-- One byte of CRC-64. -/
def crc64Byte (c : BitVec 64) (b : Byte) : BitVec 64 :=
  let x := c ^^^ (b.setWidth 64 <<< 56)
  crc64Bit (crc64Bit (crc64Bit (crc64Bit (crc64Bit (crc64Bit (crc64Bit (crc64Bit x)))))))

/-- CRC-64 of a byte string: initial value 0, no final XOR. -/
def crc64 (d : Bytes) : BitVec 64 := d.foldl crc64Byte 0

/-- d cut into pieces of n bytes (n > 0), with at most `fuel` pieces. -/
def chunksOf (n : Nat) (fuel : Nat) (d : Bytes) : List Bytes :=
  match fuel, d with
  | _, [] => []
  | 0, _ => []
  | k + 1, d => d.take n :: chunksOf n k (d.drop n)

/-- One level of the digest tree: pairs are combined, an odd last node passes on (11_integrity.md R317). -/
def digestLevel : List (BitVec 64) → List (BitVec 64)
  | a :: b :: r => crc64 (leBytes a.toNat 8 ++ leBytes b.toNat 8) :: digestLevel r
  | r => r

/-- The root of the digest tree. -/
def digestRoot (fuel : Nat) (l : List (BitVec 64)) : BitVec 64 :=
  match fuel, l with
  | _, [] => 0
  | _, [x] => x
  | 0, x :: _ => x
  | k + 1, l => digestRoot k (digestLevel l)

/-- The CRC-64 tree digest of a byte string: leaves over blocks of 4,096 bytes. -/
def treeDigest (d : Bytes) : BitVec 64 :=
  digestRoot 64 ((chunksOf 4096 (d.length + 1) d).map crc64)

/-! ## SHA-512

Its constants are not tabulated: they are the first 64 bits of the fractional parts of square and cube roots of primes,
and are computed as such. -/

/-- The greatest r below r0 + 2^n, built bit by bit from r0, whose k-th power is at most x. -/
def rootFloor (k x : Nat) : Nat → Nat → Nat
  | 0, r => r
  | n + 1, r => rootFloor k x n (if (r + 2 ^ n) ^ k ≤ x then r + 2 ^ n else r)

/-- The first 64 bits of the fractional part of the k-th root of p. -/
def rootBits (k p : Nat) : BitVec 64 := BitVec.ofNat 64 (rootFloor k (p * 2 ^ (64 * k)) 72 0)

/-- The first n primes, searched below 410. -/
def firstPrimes (n : Nat) : List Nat :=
  ((List.range 410).filter fun p => 2 ≤ p && (List.range p).all fun d => d < 2 || p % d != 0).take n

/-- The constant of each of the 80 rounds. -/
def roundWords : List (BitVec 64) := (firstPrimes 80).map (rootBits 3)

/-- The chaining value before the first block. -/
def chainStart : List (BitVec 64) := (firstPrimes 8).map (rootBits 2)

/-- x turned right by each of two amounts, exclusive-or with a third term: the four sigma functions. -/
def sigma (x : BitVec 64) (i j : Nat) (third : BitVec 64) : BitVec 64 := x.rotateRight i ^^^ x.rotateRight j ^^^ third

/-- Word i of a list, 0 beyond its end. -/
def schedWord (l : List (BitVec 64)) (i : Nat) : BitVec 64 := (l[i]?).getD 0

/-- The 16 words of a block followed by n scheduled ones; `recent` is the latest 16, oldest first. -/
def schedule : Nat → List (BitVec 64) → List (BitVec 64)
  | 0, recent => recent
  | n + 1, recent =>
    let old := schedWord recent 1
    let new := schedWord recent 14
    let next := sigma new 19 61 (new >>> 6) + schedWord recent 9 + sigma old 1 8 (old >>> 7) + schedWord recent 0
    schedWord recent 0 :: schedule n (recent.drop 1 ++ [next])

/-- One round on the eight working words, first to eighth. -/
def compress (v : List (BitVec 64)) (kw : BitVec 64) : List (BitVec 64) :=
  match v with
  | [a, b, c, d, e, f, g, h] =>
    let chosen := g ^^^ (e &&& (f ^^^ g))
    let common := (a &&& (b ||| c)) ||| (b &&& c)
    let t := kw + h + chosen + sigma e 14 18 (e.rotateRight 41)
    [t + common + sigma a 28 34 (a.rotateRight 39), a, b, c, d + t, e, f, g]
  | v => v

/-- One block of 128 bytes goes into the chaining value. -/
def absorb (chain : List (BitVec 64)) (block : Bytes) : List (BitVec 64) :=
  let words := schedule 64 ((chunksOf 8 17 block).map fun w => BitVec.ofNat 64 (beNat w))
  List.zipWith (· + ·) chain ((List.zipWith (· + ·) roundWords words).foldl compress chain)

/-- SHA-512 of a byte string, 64 bytes: the message, a 1 bit, zeros, and its length in bits in 16 bytes, in whole
blocks. -/
def sha512 (d : Bytes) : Bytes :=
  let zeros := 127 - (d.length + 16) % 128
  let blocks := chunksOf 128 (d.length + 3) (d ++ [0x80] ++ List.replicate zeros 0 ++ beBytes (8 * d.length) 16)
  (blocks.foldl absorb chainStart).flatMap fun w => beBytes w.toNat 8

/-! ## RSASSA-PSS (SHA-512, MGF1 with SHA-512, salt of 64 bytes) -/

/-- x^e mod n over the lowest `bits` bits of e. -/
def powMod (bits : Nat) (x e n : Nat) : Nat :=
  match bits with
  | 0 => 1 % n
  | b + 1 =>
    if e = 0 then 1 % n
    else
      let h := powMod b (x * x % n) (e / 2) n
      if e % 2 = 1 then x * h % n else h

/-- MGF1 with SHA-512: n blocks of 64 bytes from counter c. -/
def mgf1 (seed : Bytes) (n c : Nat) : Bytes :=
  match n with
  | 0 => []
  | n + 1 => sha512 (seed ++ beBytes c 4) ++ mgf1 seed n (c + 1)

/-- Bytewise exclusive or. -/
def xorBytes (a b : Bytes) : Bytes := (a.zip b).map (fun p => p.1 ^^^ p.2)

/-- RSASSA-PSS verification of a 512-byte signature (modulus bits 4096, emBits 4095). -/
def pssVerify (n e : Nat) (msg sig : Bytes) : Bool :=
  let s := beNat sig
  if n = 0 ∨ n ≤ s then false
  else
    let em := beBytes (powMod 32 s e n) 512
    let masked := em.take 447
    let h := (em.drop 447).take 64
    let db := xorBytes masked (mgf1 h 7 0)
    let db := (match db with | [] => [] | x :: r => (x &&& 0x7F#8) :: r)
    let zeros := (db.take 382).all (fun b => b == 0)
    let salt := db.drop 383
    (em.drop 511 == [0xBC#8]) && ((em.take 1).all (fun b => b &&& 0x80#8 == 0)) && zeros &&
      ((db.drop 382).take 1 == [1#8]) && (sha512 (List.replicate 8 0 ++ sha512 msg ++ salt) == h)

/-- RSASSA-PSS signature of a message with the private exponent d, in 512 bytes. -/
def pssSign (n d : Nat) (salt msg : Bytes) : Bytes :=
  let h := sha512 (List.replicate 8 0 ++ sha512 msg ++ salt)
  let db := xorBytes (List.replicate 382 0 ++ [1#8] ++ salt) (mgf1 h 7 0)
  let db := (match db with | [] => [] | x :: r => (x &&& 0x7F#8) :: r)
  beBytes (powMod 4096 (beNat (db ++ h ++ [0xBC#8])) d n) 512

end Sys2Proof.Machine
end

