-- ==== Sys2Proof/Machine/Ops.lean ====
section
/-! DEFINITION. The named operations over registers, memory and units that every command is made of: register fields
and counters, scratch and LPDDR5X bytes, the maps between logical, relative and physical numbers, interrupts,
partition states, Tansy records and the fault history. -/

namespace Sys2Proof.Machine

/-! ## Registers (00_scope.md R12, 01_module.md R36) -/

/-- The word of a register. -/
def rd (b : Block) (r : Reg) : Nat := (smGetD b.regs r.addr r.resetVal).toNat

/-- Bits [hi:lo] of a register. -/
def fld (b : Block) (r : Reg) (hi lo : Nat) : Nat := bitsOf (rd b r) hi lo

/-- Bit i of a register. -/
def flag (b : Block) (r : Reg) (i : Nat) : Bool := bitOf (rd b r) i

/-- Bits [hi:lo] of a register take the value v; the others stay. -/
def Act.setFld (r : Reg) (hi lo v : Nat) : Act := .read fun b => .setReg r (putBits (rd b r) hi lo v)

/-- A counter moves by n and holds at its maximum. -/
def Act.count (r : Reg) (n : Nat) : Act := .read fun b => .setReg r (satAdd (rd b r) n r.width)

/-! ## Memory (01_module.md R31, R32) -/

/-- The byte at a device address of the scratch or LPDDR5X window. -/
def byteAt (b : Block) (a : Nat) : Byte := smGetD b.mem a memDefault

/-- n bytes from device address a. -/
def bytesAt (b : Block) (a n : Nat) : Bytes := (List.range n).map fun i => byteAt b (a + i)

/-- The device address of byte offset o of core c's scratch. -/
def scratchAt (c o : Nat) : Nat := c * 0x200000 + o

/-- n bytes of core c's scratch from byte offset o. -/
def scr (b : Block) (c o n : Nat) : Bytes := bytesAt b (scratchAt c o) n

/-- The 32-bit word at byte offset o of core c's scratch. -/
def scrWord (b : Block) (c o : Nat) : Nat := leNat (scr b c o 4)

/-- Bytes go to offset o of core c's scratch. -/
def Act.setScr (c o : Nat) (bs : Bytes) : Act := .setMem (scratchAt c o) bs

/-- The first device address of the LPDDR5X window. -/
def lpddrBase : Nat := 0x10000000000

/-- Bytes of one controller's package: 72 GiB (13_memory.md R369). -/
def ctlBytes : Nat := 0x1200000000

/-! ## Units -/

def core (b : Block) (c : Nat) : CoreState := smGetD b.cores c CoreState.reset
def obj (b : Block) (o : Nat) : ObjState := smGetD b.objs o ObjState.reset
def part (b : Block) (f : Nat) : Partition := smGetD b.parts f Partition.reset
def hostq (b : Block) (e : Nat) : HostQ := smGetD b.hostqs e HostQ.reset
def func (b : Block) (f : Nat) : Func := smGetD b.funcs f Func.reset
def port (b : Block) (p : Nat) : PortState := smGetD b.ports p PortState.reset
def dir (b : Block) (f : Nat) : DirFn := smGetD b.dirs f DirFn.reset
def lpd (b : Block) (k : Nat) : Lpd := smGetD b.lpds k Lpd.reset

def Act.onCore (c : Nat) (g : CoreState → CoreState) : Act :=
  .units fun u => { u with cores := smPut u.cores c (g (smGetD u.cores c CoreState.reset)) }
def Act.onObj (o : Nat) (g : ObjState → ObjState) : Act :=
  .units fun u => { u with objs := smPut u.objs o (g (smGetD u.objs o ObjState.reset)) }
def Act.onPart (f : Nat) (g : Partition → Partition) : Act :=
  .units fun u => { u with parts := smPut u.parts f (g (smGetD u.parts f Partition.reset)) }
def Act.onFunc (f : Nat) (g : Func → Func) : Act :=
  .units fun u => { u with funcs := smPut u.funcs f (g (smGetD u.funcs f Func.reset)) }
def Act.onPort (p : Nat) (g : PortState → PortState) : Act :=
  .units fun u => { u with ports := smPut u.ports p (g (smGetD u.ports p PortState.reset)) }
def Act.onDir (f : Nat) (g : DirFn → DirFn) : Act :=
  .units fun u => { u with dirs := smPut u.dirs f (g (smGetD u.dirs f DirFn.reset)) }
def Act.onLpd (k : Nat) (g : Lpd → Lpd) : Act :=
  .units fun u => { u with lpds := smPut u.lpds k (g (smGetD u.lpds k Lpd.reset)) }
def Act.onHostq (e : Nat) (g : HostQ → HostQ) : Act :=
  .units fun u => { u with hostqs := smPut u.hostqs e (g (smGetD u.hostqs e HostQ.reset)) }
def Act.power (g : Power → Power) : Act := .units fun u => { u with power := g u.power }
def Act.lock (g : Lock → Lock) : Act := .units fun u => { u with lock := g u.lock }
def Act.campion (g : Campion → Campion) : Act := .units fun u => { u with campion := g u.campion }

/-- One thing leaves the module (log 10). -/
def Act.emit (o : Output) : Act := .units fun u => { u with outbox := u.outbox ++ [o] }

/-- The free-value counter advances (log 8). -/
def Act.bump : Act := .units fun u => { u with freeCtr := u.freeCtr + 1 }

/-- A synchronisation message is issued (06_streams.md R162). -/
def Act.issue (m : SyncMsg) : Act := .units fun u => { u with syncNet := u.syncNet ++ [m] }

/-- Array a of a core. -/
def CoreState.arr (s : CoreState) (a : Nat) : ArrState := if a = 0 then s.arr0 else s.arr1

/-- Array a of a core changes. -/
def Act.onArr (c a : Nat) (g : ArrState → ArrState) : Act :=
  .onCore c fun s => if a = 0 then { s with arr0 := g s.arr0 } else { s with arr1 := g s.arr1 }

/-- Context x of a core. -/
def ctxOf (s : CoreState) (x : Nat) : CtxState := (s.ctxs[x]?).getD CtxState.reset

/-- Context x of a core changes. -/
def Act.onCtx (c x : Nat) (g : CtxState → CtxState) : Act :=
  .onCore c fun s => { s with ctxs := putAt s.ctxs CtxState.reset x (g (ctxOf s x)) }

/-- The global beat count (01_module.md R40). -/
def beat (b : Block) : Nat := rd b .srlBeat

/-- The check epoch of a beat: 16 beats each (11_integrity.md R324). -/
def epochOf (q : Nat) : Nat := q / 16

/-! ## Which units exist (01_module.md R15, R24) -/

def isCore (c : Nat) : Bool := decide (c < Config.numCores)
def isArr (a : Nat) : Bool := decide (a < 2)
def isCtx (x : Nat) : Bool := decide (x < 4)
def isFunc (f : Nat) : Bool := decide (f ≤ Config.numVfs)
/-- A function that can own a partition: 1 to 16. -/
def isVf (f : Nat) : Bool := decide (1 ≤ f) && decide (f ≤ Config.numVfs)
def isMbox (m : Nat) : Bool := decide (m < 4)
def isPort (p : Nat) : Bool := decide (p < 16)
def isCtl (k : Nat) : Bool := decide (k < 16)

/-! ## Plots, partitions, placement (06_streams.md R156, 09_schedules.md R248) -/

/-- The plots of a set, ascending. -/
def plotList (plots : DWord) : List Nat := (List.range 64).filter fun p => plots.getLsbD p

/-- The functions with a partition, ascending. -/
def owners (b : Block) : List Nat := ((List.range 17).drop 1).filter fun f => (part b f).st != .empty

/-- The function whose partition holds plot p. -/
def ownerOfPlot (b : Block) (p : Nat) : Option Nat := (owners b).find? fun f => (part b f).plots.getLsbD p

/-- The function whose partition holds core c. -/
def ownerOfCore (b : Block) (c : Nat) : Option Nat := ownerOfPlot b (plotOf c)

/-- The physical core of relative core q in a set of plots (09_schedules.md R248). -/
def coreOfRel (pl : List Nat) (q : Nat) : Option Nat :=
  (pl[q / 400]?).map fun p =>
    p / 8 * 3200 + (p % 8 / 4 * 20 + q % 400 / 20) * 80 + (p % 4 * 20 + q % 20)

/-- The relative number of core c in a set of plots. -/
def relOfCore (pl : List Nat) (c : Nat) : Option Nat :=
  (pl.findIdx? fun p => p == plotOf c).map fun i => i * 400 + c % 3200 / 80 % 20 * 20 + c % 80 % 20

/-- The physical object of relative object i of a partition (06_streams.md R156). -/
def physObj (b : Block) (f i : Nat) : Option Nat :=
  ((plotList (part b f).plots)[i / 512]?).map fun p => p * 512 + i % 512

/-- The relative number of physical object o in a partition. -/
def relObj (b : Block) (f o : Nat) : Option Nat :=
  ((plotList (part b f).plots).findIdx? fun p => p == o / 512).map fun i => i * 512 + o % 512

/-- The physical objects of a partition, ascending. -/
def objsOf (b : Block) (f : Nat) : List Nat :=
  ((b.objs.map (·.1)).filter fun o => ownerOfPlot b (o / 512) == some f)

/-- The same with those that a write of SYN_OBJ_CFG alone has configured. -/
def allObjsOf (b : Block) (f : Nat) : List Nat :=
  objsOf b f ++ (((b.regs.filter fun e => decide ((Reg.synObjCfg 0).addr ≤ e.1) && decide (e.1 < (Reg.synObjCfg 32768).addr) &&
    e.1 % 16 == 0).map fun e => (e.1 - (Reg.synObjCfg 0).addr) / 16).filter fun o =>
      ownerOfPlot b (o / 512) == some f && !(b.objs.map (·.1)).contains o)

/-- The relative cores of the loaded variant, in logical-core order. -/
def placement (b : Block) (f : Nat) : List Nat :=
  match (part b f).image with
  | none => []
  | some im => (im.place[(part b f).variant]?).getD []

/-- The physical cores of a list of relative cores. -/
def physCores (pl : List Nat) (rel : List Nat) : List Nat := rel.filterMap fun q => coreOfRel pl q

/-- The cores the loaded variant uses, in logical-core order. -/
def coresOf (b : Block) (f : Nat) : List Nat := physCores (plotList (part b f).plots) (placement b f)

/-- Every core of the partition's plots, in relative order. -/
def allCoresOf (b : Block) (f : Nat) : List Nat :=
  let pl := plotList (part b f).plots
  physCores pl (List.range (400 * pl.length))

/-- The logical core that runs on core c. -/
def lcoreOf (b : Block) (f c : Nat) : Nat := ((coresOf b f).findIdx? (· == c)).getD 0

/-- The core that logical core l runs on. -/
def coreOfLogical (b : Block) (f l : Nat) : Option Nat := (coresOf b f)[l]?

/-- The partition is RUNNING, has started, and is not stopping (05_step_tables.md R124, 12_host.md R358,
11_integrity.md R325). -/
def agentMayGo (b : Block) (f : Nat) : Bool :=
  let p := part b f
  p.st == .running && p.started && p.pausing.isNone && p.taint.isNone && p.poisonedBy.isNone

/-! ## Interrupts and events (12_host.md R364, R365) -/

/-- Vector v of function f is sent, or held pending while it is masked; nothing while MSI-X Enable is 0. -/
def Act.sendVector (f v : Nat) : Act :=
  .read fun b =>
    .when (func b f).msixEn
      (if flag b (.msixTable f (4 * v + 3)) 0 then .setFld (.msixPba f) v v 1 else .emit (.msix f v))

/-- An event of function f: its MBX_EVENT bit is set, and its vector goes out when the bit was 0. -/
def Act.event (f i : Nat) : Act :=
  .read fun b =>
    if flag b (.mbxEvent f) i then .nop else Act.all [.setFld (.mbxEvent f) i i 1, .sendVector f (4 + i)]

/-- Codes of the partition states (12_host.md R355). -/
def PState.code : PState → Nat
  | .empty => 0
  | .ready => 1
  | .loaded => 2
  | .running => 3
  | .paused => 4
  | .faulted => 5

/-- The partition of f takes a state; a change is an event of f (12_host.md R364). -/
def Act.setPState (f : Nat) (st : PState) : Act :=
  .read fun b =>
    if (part b f).st == st then .nop
    else Act.all [.onPart f fun p => { p with st := st }, .setFld (.mbxFunc f) 28 26 st.code, .event f 0]

/-- Codes of the module states (15_power_boot.md R405, 12_host.md R354). -/
def modBooting : Nat := 1
def modMinimal : Nat := 2
def modOperational : Nat := 3
def modDormant : Nat := 4

/-- The module state. -/
def modState (b : Block) : Nat := fld b .pwrModstate 2 0

/-- The module takes a state; every function reads it, and a change is a module event (12_host.md R364). -/
def Act.setModState (st : Nat) : Act :=
  .read fun b =>
    if modState b = st then .nop
    else Act.all [.setFld .pwrModstate 2 0 st, .each (List.range 17) fun f => .setFld (.mbxFunc f) 31 29 st,
      .event 0 3]

/-! ## Sensors (14_module_hw.md R399) -/

/-- The sensor nearest a unit of a class (R330, R399); the first of an edge die's pair (log 17). -/
def nearestSensor (cls unit : Nat) : Option Nat :=
  match cls with
  | 1 => some (plotOf (unit / 2))
  | 2 => some (plotOf unit)
  | 3 => some (plotOf (unit / 40))
  | 4 => some (plotOf unit)
  | 5 => some (plotOf (unit / 4))
  | 6 => some unit
  | 7 => some (70 + unit)
  | 8 => some (if unit / 4 < 8 then 64 else 66)
  | 9 => some (if unit % 2 = 0 then 64 else 66)
  | _ => none

/-- The plots of the same die beside plot p. -/
def adjacentPlots (p : Nat) : List Nat :=
  (List.range 8).filterMap fun j =>
    let r := p % 8 / 4
    let k := p % 4
    if (j / 4 = r ∧ (j % 4 + 1 = k ∨ k + 1 = j % 4)) ∨ (j % 4 = k ∧ j / 4 ≠ r) then some (p / 8 * 8 + j) else none

/-- The highest of some 16-bit signed readings, 0x8000 where there is none. -/
def highest (rs : List Nat) : Nat :=
  rs.foldl (fun m r => if signedOf m 16 < signedOf r 16 then r else m) 0x8000

/-- A sensor's reading, a failed one replaced as R399 states. -/
def sensorReading (b : Block) (i : Nat) : Nat :=
  let own := fld b (.pwrSensor i) 15 0
  if own ≠ 0x8000 then own
  else if i < 64 then highest ((adjacentPlots i).map fun j => fld b (.pwrSensor j) 15 0)
  else if 70 ≤ i ∧ i < 86 then highest ((List.range 8).map fun j => fld b (.pwrSensor ((i - 70) / 2 * 8 + j)) 15 0)
  else own

/-- The core rail at a plot sensor, in mV; 0 where the sensor has none. -/
def railAt (b : Block) (i : Nat) : Nat := (smGetD b.power.rails i 0).toNat

/-! ## Tansy records (11_integrity.md R333-R335) -/

/-- The fields of a record that the event supplies. -/
structure Tansy where
  func : Nat
  uclass : Nat
  unit : Nat
  image : Nat
  step : Nat
  opcode : Nat
  attempt : Nat
  lcore : Nat
  invoc : Nat
  tile : Tile
  detector : Nat
  disp : Nat
  hist : Nat
  /-- 16 bytes as a number, byte 0 least significant -/
  syndrome : Nat
  cause : Nat

/-- A record with no field. -/
def Tansy.none : Tansy :=
  { func := 0x1F, uclass := 0, unit := 0, image := 0, step := 0, opcode := 0, attempt := 0, lcore := 0, invoc := 0,
    tile := { b2 := 0, b1 := 0, mt := 0, nt := 0 }, detector := 0, disp := 0, hist := 0, syndrome := 0, cause := 0 }

/-- A record of function f and the image its partition has loaded (R333). -/
def partRecord (b : Block) (f : Nat) : Tansy :=
  { Tansy.none with func := f, image := ((part b f).image.map (·.imageId.toNat)).getD 0 }

/-- Nanoseconds of UTC at a beat; 0 while CHK_UTC_OFFSET is 0 (R333). -/
def utcAt (b : Block) (q : Nat) : Nat :=
  if rd b .chkUtcOffset = 0 then 0 else (rd b .chkUtcOffset + q * 160) % 2 ^ 64

/-- The syndrome bytes that a detector's code lists, the unlisted ones 0 (R334; 0x09 and 0x0A list all that their chapter
gives). -/
def synField (code syn : Nat) : Nat :=
  if code = 0x0B then syn % 2 ^ 16 + bitsOf syn 111 32 * 2 ^ 32
  else syn % 2 ^ (if code ≤ 0x05 then 56 else if code = 0x06 ∨ code = 0x07 ∨ code = 0x08 then 48
    else if code = 0x0C then 24 else if code = 0x0D then 8 else if code = 0x0E then 40
    else if code = 0x09 ∨ code = 0x0A then 64 else 80)

/-- The first 124 bytes of the record, SEQNO not assigned yet. -/
def Tansy.body (t : Tansy) (b : Block) : Bytes :=
  let s := nearestSensor t.uclass t.unit
  leBytes 1 1 ++ leBytes 3 1 ++ leBytes t.func 2 ++ leBytes 0 4 ++ leBytes (rd b .srlSerial) 8 ++
  leBytes t.uclass 2 ++ leBytes 0 2 ++ leBytes t.unit 4 ++ leBytes t.image 8 ++ leBytes t.step 2 ++
  leBytes t.opcode 1 ++ leBytes t.attempt 1 ++ leBytes t.lcore 4 ++ leBytes t.invoc 4 ++ leBytes t.tile.b2 2 ++
  leBytes t.tile.b1 2 ++ leBytes t.tile.mt 2 ++ leBytes t.tile.nt 2 ++ leBytes (epochOf (beat b)) 2 ++ leBytes 0 2 ++
  leBytes (beat b) 8 ++ leBytes (utcAt b (beat b)) 8 ++
  leBytes ((s.map fun i => sensorReading b i).getD 0) 2 ++ leBytes ((s.map fun i => railAt b i).getD 0) 2 ++
  leBytes t.detector 1 ++ leBytes t.disp 1 ++ leBytes (min t.hist 0xFFFF) 2 ++ leBytes (synField t.detector t.syndrome) 16 ++
  leBytes (rd b .chkSession) 4 ++ leBytes t.cause 4 ++ List.replicate 20 0

/-- The record's bytes with its SEQNO and CRC. -/
def sealRecord (body : Bytes) (seq : Nat) : Bytes :=
  let r := spliceBytes body 4 (leBytes seq 4)
  r ++ leBytes (crc32c r).toNat 4

/-- Function f answers: it is function 0 or enabled, and the module is out of OFF (15_power_boot.md R405). -/
def answers (b : Block) (f : Nat) : Bool := b.power.phase == .locked && decide (f ≤ b.vfs)

/-- Detector code of a stored record. -/
def recDetector (r : Bytes) : Nat := leAt r 0x4C 1

/-- Sequence number of a stored record. -/
def recSeq (r : Bytes) : Nat := leAt r 0x04 4

/-- FUNC of a stored record. -/
def recFunc (r : Bytes) : Nat := leAt r 0x02 2

/-- Codes that may be dropped (R335). -/
def droppable (code : Nat) : Bool := code == 0x07 || code == 0x09

/-- The buffer without its oldest droppable record. -/
def dropOldest : List Bytes → List Bytes
  | [] => []
  | r :: l => if droppable (recDetector r) then l else r :: dropOldest l

/-- A record's place in the order of R335: BEAT, then UCLASS, then UNIT. -/
def recKey (r : Bytes) : Nat := (leAt r 0x38 8 * 2 ^ 16 + leAt r 0x10 2) * 2 ^ 32 + leAt r 0x14 4

/-- A record among the buffered ones, after those of its own place. -/
def insertRec (r : Bytes) : List Bytes → List Bytes
  | [] => [r]
  | x :: l => if recKey r < recKey x then r :: x :: l else x :: insertRec r l

/-- Buffered records take numbers in their order; the CRC follows the number. -/
def renumber (l : List Bytes) (seqs : List Nat) : List Bytes :=
  (l.zip seqs).map fun x => if x.1.length = 128 ∧ recSeq x.1 = x.2 then x.1 else sealRecord (x.1.take 124) x.2

/-- A record's first 124 bytes are written (R335): it enters the buffer of 4,096, whose records take SEQNO in order of
BEAT, UCLASS and UNIT (log 40); a full buffer drops records of codes 0x07 and 0x09 only. -/
def Act.logBody (body : Bytes) : Act :=
  .read fun b =>
    let full := decide (4096 ≤ b.campion.buffer.length)
    if full && droppable (recDetector body) then .count .chkLogDropped 1
    else
      let kept := if full then dropOldest b.campion.buffer else b.campion.buffer
      let seq := (rd b .chkLogSeq + 1) % 2 ^ 32
      Act.all [
        .when (full && decide (kept.length < b.campion.buffer.length)) (.count .chkLogDropped 1),
        .setReg .chkLogSeq seq,
        .campion (fun k => { k with buffer := renumber (insertRec body kept) (kept.map recSeq ++ [seq]) }),
        .when (isFunc (recFunc body)) (.event (recFunc body) 2)]

/-- A record is written now. -/
def Act.log (t : Tansy) : Act := .read fun b => .logBody (t.body b)

/-- A module-level event record (R401, R333): no function, no unit; bytes 0-1 name the input, 2-9 its value. -/
def Act.logEvent (code input value disp : Nat) : Act :=
  .log { Tansy.none with detector := code, disp := disp, syndrome := input % 65536 + value % 2 ^ 64 * 65536 }

/-- An access error: the event code of an address fault, with the device address (01_module.md R36; log 18). -/
def Act.logAccess (f : Nat) (addr : Nat) : Act :=
  .read fun b => .log { partRecord b f with detector := 0x21, syndrome := addr % 2 ^ 64 * 65536 }

/-! ## History (11_integrity.md R328, R329, R337) -/

/-- The history entry of a unit. -/
def histOf (b : Block) (cls unit : Nat) : Option Hist :=
  b.campion.hist.find? fun h => h.uclass == cls && h.unit == unit

/-- The list with the unit's entry replaced or added; a full table gives up the unfenced entry with the oldest
detection. -/
def histPut (l : List Hist) (h : Hist) : List Hist :=
  if l.any (fun x => x.uclass == h.uclass && x.unit == h.unit) then
    l.map fun x => if x.uclass == h.uclass && x.unit == h.unit then h else x
  else if l.length < 131072 then l ++ [h]
  else
    let oldest := l.foldl (fun (m : Option Hist) x =>
      if x.fenced then m else match m with
        | none => some x
        | some y => if x.session < y.session ∨ (x.session = y.session ∧ x.beatA < y.beatA) then some x else m) none
    match oldest with
    | none => l
    | some o => l.map fun x => if x == o then h else x

/-- No beat in BEAT_B. -/
def noBeat : Nat := 0xFFFFFFFFFFFFFFFF

/-- The unit's entry after a detection of a code now (R328); an ECC_LPD_UE also moves the beats of its kind. -/
def histNext (b : Block) (cls unit code : Nat) : Hist :=
  let now := beat b
  let ses := rd b .chkSession
  let ue := code == 0x0A
  match histOf b cls unit with
  | none => { uclass := cls, unit := unit, fenced := false, kat := false, disp := 0, total := 1, session := ses,
              beatA := now, beatB := noBeat, ueA := if ue then now else noBeat, ueB := noBeat }
  | some h =>
    let same := h.session == ses
    let a := if same then h.ueA else noBeat
    { h with total := satAdd h.total 1 32, session := ses, beatA := now,
             beatB := if same then h.beatA else noBeat,
             ueA := if ue then now else a, ueB := if ue then a else if same then h.ueB else noBeat }

/-- The detection of a code made now would make the unit permanent by its history (R329), judged before the update;
for a controller only its ECC_LPD_UE detections count (13_memory.md R376). -/
def permanentNow (b : Block) (cls unit code : Nat) : Bool :=
  match histOf b cls unit with
  | none => false
  | some h =>
    let w := fld b .chkPerm 29 0
    let two := fld b .chkPerm 31 30 == 2
    let ref := if cls = 7 then (if two then h.ueA else h.ueB) else (if two then h.beatA else h.beatB)
    (decide (cls ≠ 7) || code == 0x0A) && decide (h.session = rd b .chkSession) && decide (ref ≠ noBeat) &&
      decide (beat b - ref ≤ w)

/-- MAGIC of a header (R336). -/
def headerMagic : Nat := 0x54434831

/-- The fields of a header copy in front of its CRC, in their order; the rest of its 4 KiB is 0 (R336; the order is log 40). -/
def Header.words (h : Header) : Bytes :=
  leBytes h.magic 4 ++ leBytes h.gen 4 ++ leBytes h.session 4 ++ leBytes h.entries 4 ++ leBytes h.head 4 ++ leBytes h.tail 4

/-- The header with MAGIC and its CRC, as Sorrel writes it. -/
def Header.sealed (h : Header) : Header :=
  let g := { h with magic := headerMagic }
  { g with crc := (crc32c g.words).toNat }

/-- MAGIC and the CRC hold. -/
def Header.valid (h : Header) : Bool := h.magic == headerMagic && h.crc == (crc32c h.words).toNat

/-- Copy 1 is in force: it is valid, and copy 0 is not or has a lower generation (R336). -/
def Campion.second (k : Campion) : Bool := k.copy1.valid && (!k.copy0.valid || decide (k.copy0.gen < k.copy1.gen))

/-- The header copy in force: the valid one with the higher generation (R336). -/
def Campion.current (k : Campion) : Header := if k.second then k.copy1 else k.copy0

/-- Sectors of the log region, and the records of one (R336). -/
def logSectors : Nat := 15358
def sectorRecords : Nat := 32

/-- The sector the newest record of the log is in. -/
def Campion.tail (k : Campion) : Nat := (k.current.head + (k.log.length - 1) / sectorRecords) % logSectors

/-- What a new header holds, in the copy that is not in force; an unchanged header is not written (R336). -/
def Campion.settle (k : Campion) (session head : Nat) : Campion :=
  let c := k.current
  let n := { c with session := session, entries := k.hist.length, head := head
                    tail := (head + (k.log.length - 1) / sectorRecords) % logSectors }
  let h := { n with gen := (c.gen + 1) % 2 ^ 32 }.sealed
  if n = c then k else if k.second then { k with copy0 := h } else { k with copy1 := h }

/-- The history table changes, and the header with it (R336, R337). -/
def Campion.putHist (k : Campion) (h : Hist) : Campion :=
  { k with hist := histPut k.hist h }.settle k.current.session k.current.head

/-- The history takes a detection of the unit (R328). -/
def Act.detect (cls unit code : Nat) : Act :=
  .read fun b => .campion fun k => k.putHist (histNext b cls unit code)

/-- The unit's total detections. -/
def histTotal (b : Block) (cls unit : Nat) : Nat := ((histOf b cls unit).map (·.total)).getD 0

/-- The unit is fenced (R331). -/
def isFenced (b : Block) (cls unit : Nat) : Bool := ((histOf b cls unit).map (·.fenced)).getD false

end Sys2Proof.Machine
end

