-- ==== Sys2Proof/Machine/Flags.lean ====
section
/-! DEFINITION. The strict-mode flags and the conversion counters of an invocation (02_formats.md R57, R67,
03_arithmetic.md R74, R78, R93). -/

namespace Sys2Proof.Machine

/-- Arithmetic modes (03_arithmetic.md R68). -/
inductive Mode where
  | fast
  | strict
  | x32
  | profJ
  | profO
deriving DecidableEq, Repr

/-- The mode of an ARITH code; codes 5 to 7 are reserved and LOAD_IMAGE lets none through. -/
def Mode.ofCode (n : Nat) : Mode :=
  match n with
  | 1 => .strict
  | 2 => .x32
  | 3 => .profJ
  | 4 => .profO
  | _ => .fast

/-- Modes that flush subnormal operands (R77, R117). -/
def Mode.flushes : Mode → Bool
  | .fast => true
  | .profJ => true
  | .profO => true
  | _ => false

/-- Flag bits: [3] invalid, [2] overflow, [1] underflow, [0] inexact (05_step_tables.md R155). -/
def flInvalid : BitVec 4 := 8
def flOverflow : BitVec 4 := 4
def flUnderflow : BitVec 4 := 2
def flInexact : BitVec 4 := 1

/-- A flag set under a condition. -/
def flIf (c : Bool) (f : BitVec 4) : BitVec 4 := if c then f else 0

/-- Flags a mode keeps: strict mode alone raises any (R78). -/
def Mode.keep (m : Mode) (f : BitVec 4) : BitVec 4 := if m == .strict then f else 0

/-- Sum of two counts, each counter holding at 0xFFFF_FFFF (R67). -/
def Counters.add (x y : Counters) : Counters :=
  { sat := satAdd x.sat y.sat 32, flush := satAdd x.flush y.flush 32, nan := satAdd x.nan y.nan 32,
    ovf := satAdd x.ovf y.ovf 32 }

/-- n flushes. -/
def Counters.flushes (n : Nat) : Counters := { Counters.zero with flush := n }

/-- n saturations. -/
def Counters.sats (n : Nat) : Counters := { Counters.zero with sat := n }

/-- An element's one count, in the order NAN, OVF, SAT, FLUSH (R67, R93). -/
def countElem (nan ovf sat flush : Bool) : Counters :=
  if nan then { Counters.zero with nan := 1 }
  else if ovf then { Counters.zero with ovf := 1 }
  else if sat then { Counters.zero with sat := 1 }
  else if flush then { Counters.zero with flush := 1 }
  else Counters.zero

/-- What work of any kind gathers for its invocation: counts, flags, largest finite magnitude (R62). -/
structure Tally where
  cnt : Counters
  flags : BitVec 4
  amax : Q

/-- Nothing gathered. -/
def Tally.zero : Tally := { cnt := Counters.zero, flags := 0, amax := Q.zero }

/-- The larger of two magnitudes. -/
def Q.maxMag (a b : Q) : Q := if a.abs.lt b.abs then b.abs else a.abs

/-- Two tallies together. -/
def Tally.add (x y : Tally) : Tally :=
  { cnt := x.cnt.add y.cnt, flags := x.flags ||| y.flags, amax := x.amax.maxMag y.amax }

/-- The tally of a list. -/
def Tally.sum (l : List Tally) : Tally := l.foldl Tally.add Tally.zero

/-- The tally of counts alone. -/
def Tally.counts (c : Counters) : Tally := { Tally.zero with cnt := c }

/-- An invocation takes a tally. -/
def Invocation.take (i : Invocation) (t : Tally) : Invocation :=
  { i with cnt := i.cnt.add t.cnt, flags := i.flags ||| t.flags, amax := i.amax.maxMag t.amax }

end Sys2Proof.Machine
end

