-- ==== Sys2Proof/Machine/Formats.lean ====
section
/-! DEFINITION. The number formats bit by bit (02_formats.md R43-R52), the two roundings every value goes through
(R55, 03_arithmetic.md R74), conversion to a destination (R56, R57, R92) and the block exponent (R58-R60). -/

namespace Sys2Proof.Machine

/-! ## Formats -/

/-- Bits per element of a format code (R43). -/
def fmtBits (f : Nat) : Nat :=
  match f with
  | 0 => 32
  | 1 => 16
  | 2 => 16
  | 3 => 8
  | 4 => 8
  | 5 => 6
  | 6 => 6
  | 7 => 4
  | 8 => 64
  | _ => 32

/-- Exponent bits (R45, R46). -/
def fmtExp (f : Nat) : Nat :=
  match f with
  | 0 => 8
  | 1 => 8
  | 2 => 5
  | 3 => 4
  | 4 => 5
  | 5 => 3
  | 6 => 2
  | 7 => 2
  | _ => 8

/-- Fraction bits. -/
def fmtFrac (f : Nat) : Nat :=
  match f with
  | 0 => 23
  | 1 => 7
  | 2 => 10
  | 3 => 3
  | 4 => 2
  | 5 => 2
  | 6 => 3
  | 7 => 1
  | _ => 23

/-- Exponent bias. -/
def fmtBias (f : Nat) : Int :=
  match f with
  | 0 => 127
  | 1 => 127
  | 2 => 15
  | 3 => 8
  | 4 => 16
  | 5 => 3
  | 6 => 1
  | 7 => 1
  | _ => 127

/-- The formats of IEEE shape: all-ones exponent for infinities and NaNs (R45). -/
def isPublic (f : Nat) : Bool := f == 0 || f == 1 || f == 2

/-- WF8a and WF8b: the topmost code of either sign is a NaN (R46). -/
def isWf8 (f : Nat) : Bool := f == 3 || f == 4

/-- The largest finite magnitude code (R45, R46). -/
def fmtMaxCode (f : Nat) : Nat :=
  if isPublic f then (2 ^ fmtExp f - 1) * 2 ^ fmtFrac f - 1
  else if isWf8 f then 0x7E
  else 2 ^ (fmtBits f - 1) - 1

/-- The smallest normal is 2^emin (R45, R46). -/
def fmtEmin (f : Nat) : Int := 1 - fmtBias f

/-- The fixed spacing near zero is 2^this (R55). -/
def fmtSpacing (f : Nat) : Int := fmtEmin f - fmtFrac f

/-- The magnitude of a code without its sign bit (R47). -/
def codeMag (f mag : Nat) : Q :=
  let e := mag / 2 ^ fmtFrac f
  let m := mag % 2 ^ fmtFrac f
  if e = 0 then Q.dy m (fmtSpacing f) else Q.dy (m + 2 ^ fmtFrac f : Nat) ((e : Int) - fmtBias f - fmtFrac f)

/-- The largest finite value. -/
def fmtMax (f : Nat) : Q := codeMag f (fmtMaxCode f)

/-- The mode's own NaN (R76, R117). -/
def modeNaN (m : Mode) : Val := .nan (if m == .profJ then 0x7FFFFFFF else 0x7FC00000) false

/-- A code's value without block exponent (R45, R47); a NaN in the FP32 form of R76, quieted, with its signalling
mark. -/
def decodeCode (f code : Nat) : Val :=
  let w := fmtBits f
  let neg := bitOf code (w - 1)
  let mag := code % 2 ^ (w - 1)
  let e := mag / 2 ^ fmtFrac f
  let fr := mag % 2 ^ fmtFrac f
  let s : Nat := if neg then 0x80000000 else 0
  if isPublic f && e == 2 ^ fmtExp f - 1 then
    if fr = 0 then .inf neg
    else .nan (BitVec.ofNat 32 (s + 0x7F800000) ||| BitVec.ofNat 32 (fr * 2 ^ (23 - fmtFrac f)) ||| 0x00400000#32)
      (!bitOf fr (fmtFrac f - 1))
  else if isWf8 f && mag == 0x7F then .nan (BitVec.ofNat 32 (s + 0x7FC00000)) false
  else if mag = 0 then .zero neg
  else .fin (if neg then (codeMag f mag).neg else codeMag f mag)

/-- An element's value with its block exponent (R48, R52). -/
def decodeElem (f code wb : Nat) : Val :=
  if wb = 255 then .nan 0x7FC00000 false
  else match decodeCode f code with
    | .fin q => .fin { q with exp := q.exp + ((wb : Int) - 127) }
    | v => v

/-! ## The decoded form (R51, R52) -/

/-- The decoded word of an element of a format 0x1 to 0x7: CLASS [24:23], SIGN [22], EXP [21:12], SIG [11:0]. -/
def decodeWord (f code wb : Nat) : BitVec 25 :=
  let word (cls : Nat) (neg : Bool) (x : Int) (sig : Nat) : BitVec 25 :=
    BitVec.ofNat 25 (cls * 2 ^ 23 + neg.toNat * 2 ^ 22 + codeOf x 10 * 2 ^ 12 + sig)
  let neg := bitOf code (fmtBits f - 1)
  if wb = 255 then word 3 false 0 0
  else match decodeElem f code wb with
    | .zero n => word 0 n 0 0
    | .fin q => word 1 neg q.binade (q.roundMag (q.binade - 11) .towardZero)
    | .inf n => word 2 n 0 0
    | .nan _ _ => word 3 neg 0 (if isWf8 f then 0 else code % 2 ^ fmtFrac f * 2 ^ (11 - fmtFrac f))

/-- The value of a decoded word: (m / 2^11) × 2^x with its sign; a NaN in the FP32 form of 03_arithmetic.md R76,
signalling when SIG[10] is 0 and it came from a BF16 or FP16 code. -/
def decodedVal (f : Nat) (w : BitVec 25) (wb : Nat) : Val :=
  let n := w.toNat
  let neg := bitOf n 22
  let sig := bitsOf n 11 0
  match bitsOf n 24 23 with
  | 0 => .zero neg
  | 1 =>
    let q := Q.dy sig (signedOf (bitsOf n 21 12) 10 - 11)
    .fin (if neg then q.neg else q)
  | 2 => .inf neg
  | _ => .nan (BitVec.ofNat 32 (neg.toNat * 2 ^ 31 + 0x7F800000 + sig % 2 ^ 11 * 2 ^ 12) ||| 0x00400000#32)
      (isPublic f && wb != 255 && !bitOf sig 10)

/-- A subnormal BF16, FP16 or FP32 code: what the flush of R77 and R117 looks for. -/
def isSubnormal (f code : Nat) : Bool :=
  isPublic f && code % 2 ^ (fmtBits f - 1) / 2 ^ fmtFrac f == 0 && code % 2 ^ fmtFrac f != 0

/-- The value of an FP32 word. -/
def val32 (w : Nat) : Val := decodeCode 0 w

/-- The code of a representable finite magnitude. -/
def magCode (f : Nat) (q : Q) : Nat :=
  let e := q.binade
  if e < fmtEmin f then q.roundMag (fmtSpacing f) .towardZero
  else (e + fmtBias f).toNat * 2 ^ fmtFrac f + q.roundMag (e - fmtFrac f) .towardZero - 2 ^ fmtFrac f

/-- The sign bit of a code of format f. -/
def signCode (f : Nat) (neg : Bool) : Nat := if neg then 2 ^ (fmtBits f - 1) else 0

/-- The FP32 word of a value that is on the FP32 grid. -/
def word32 (v : Val) : Word :=
  match v with
  | .nan b _ => b
  | .inf n => BitVec.ofNat 32 (signCode 0 n + 0x7F800000)
  | .zero n => BitVec.ofNat 32 (signCode 0 n)
  | .fin q => BitVec.ofNat 32 (signCode 0 q.isNeg + magCode 0 q)

/-! ## The accumulator's rounding (03_arithmetic.md R74) -/

/-- A rounded value with the tags and flags of its rounding. -/
structure Rounded where
  v : Val
  ovf : Bool
  flush : Bool
  flags : BitVec 4

/-- A value that no rounding touched. -/
def Rounded.exact (v : Val) : Rounded := { v := v, ovf := false, flush := false, flags := 0 }

/-- The largest finite FP32 with a sign. -/
def max32 (neg : Bool) : Val := .fin (if neg then (fmtMax 0).neg else fmtMax 0)

/-- rnd_fast, rnd_strict, rnd_x, rnd_j, rnd_o on an exact value. -/
def rnd (m : Mode) (v : Val) : Rounded :=
  match v with
  | .nan b s => .exact (.nan b s)
  | .inf n => if m == .profJ then { v := max32 n, ovf := true, flush := false, flags := 0 } else .exact (.inf n)
  | .zero n => .exact (.zero (n && m != .profJ))
  | .fin q =>
    let neg := q.isNeg
    let r := q.roundSig 24 .nearestEven
    if (fmtMax 0).lt r.abs then
      { v := if m == .profJ then max32 neg else .inf neg, ovf := true, flush := false,
        flags := m.keep (flOverflow ||| flInexact) }
    else if r.abs.lt (Q.pow2 (-126)) then
      if m == .fast || m == .profJ then
        { v := .zero (neg && m == .fast), ovf := false, flush := true, flags := 0 }
      else
        let g := q.roundFix (-149) .nearestEven
        let inexact := !(g.sub q).isZero
        { v := Val.ofQ g neg, ovf := false, flush := g.isZero,
          flags := m.keep (flIf inexact (flUnderflow ||| flInexact)) }
    else { v := .fin r, ovf := false, flush := false, flags := m.keep (flIf (!(r.sub q).isZero) flInexact) }

/-! ## Conversion (02_formats.md R55-R57, 03_arithmetic.md R92) -/

/-- A converted element: its code, whether the code is a NaN, and what conversion did. -/
structure Converted where
  code : Nat
  nan : Bool
  ovf : Bool
  sat : Bool
  flush : Bool
  flags : BitVec 4

/-- A code with nothing to count. -/
def Converted.plain (code : Nat) : Converted :=
  { code := code, nan := false, ovf := false, sat := false, flush := false, flags := 0 }

/-- The code of a NaN in a destination (R56, R92); WF6 and WF4 blocks take R60 instead. -/
def nanCode (m : Mode) (f : Nat) (bits : Word) : Nat :=
  if m == .strict || m == .x32 then
    if isPublic f then
      signCode f bits.msb + (2 ^ fmtExp f - 1) * 2 ^ fmtFrac f +
        (2 ^ (fmtFrac f - 1) ||| bits.toNat % 2 ^ 23 / 2 ^ (23 - fmtFrac f))
    else signCode f bits.msb + 0x7F
  else if m == .profJ then (if isPublic f then 2 ^ (fmtBits f - 1) - 1 else 0x7F)
  else if isPublic f then (2 ^ fmtExp f - 1) * 2 ^ fmtFrac f + 2 ^ (fmtFrac f - 1)
  else 0x7F

/-- ±∞ of a public format. -/
def infCode (f : Nat) (neg : Bool) : Nat := signCode f neg + (2 ^ fmtExp f - 1) * 2 ^ fmtFrac f

/-- ± the largest finite value. -/
def maxCode (f : Nat) (neg : Bool) : Nat := signCode f neg + fmtMaxCode f

/-- Conversion of a finite non-zero u = v / S under R55 and R56 (modes other than profile J). DEDUCED (log 30): profile O
flushes a tiny result of any public format, an FP32 accumulator's own output too (R92: R56's fast column), although R81 calls
that output exact in every mode. -/
def convFin (m : Mode) (f : Nat) (sat : Bool) (u : Q) : Converted :=
  let neg := u.isNeg
  let ru := u.roundSig (fmtFrac f + 1) .nearestEven
  let ieee := m == .strict
  if (fmtMax f).lt ru.abs then
    if isPublic f && !sat then
      { Converted.plain (infCode f neg) with ovf := true, flags := m.keep (flOverflow ||| flInexact) }
    else { Converted.plain (maxCode f neg) with sat := true, flags := m.keep (flOverflow ||| flInexact) }
  else if ru.abs.lt (Q.pow2 (fmtEmin f)) then
    if isPublic f && !ieee && m != .x32 then { Converted.plain (signCode f neg) with flush := true }
    else
      let r := u.roundFix (fmtSpacing f) .nearestEven
      let inexact := !(r.sub u).isZero
      { Converted.plain (signCode f neg + (if r.isZero then 0 else magCode f r)) with
        flush := r.isZero, flags := m.keep (flIf inexact (flUnderflow ||| flInexact)) }
  else { Converted.plain (signCode f neg + magCode f ru) with
         flags := m.keep (flIf (!(ru.sub u).isZero) flInexact) }

/-- Conversion of a finite non-zero u in profile J (R92): ties away from zero, no subnormal result, +0 on a flush. -/
def convFinJ (f : Nat) (u : Q) : Converted :=
  let neg := u.isNeg
  let ru := u.roundSig (fmtFrac f + 1) .nearestAway
  if (fmtMax f).lt ru.abs then { Converted.plain (maxCode f neg) with sat := true }
  else if ru.abs.lt (Q.pow2 (fmtEmin f)) then { Converted.plain 0 with flush := true }
  else Converted.plain (signCode f neg + magCode f ru)

/-- One element converted to format f with output scale S (R55-R57, R92). -/
def convert (m : Mode) (f : Nat) (sat : Bool) (v : Val) (S : Q) : Converted :=
  match v with
  | .nan b sig => { Converted.plain (nanCode m f b) with nan := true, flags := m.keep (flIf sig flInvalid) }
  | .inf n =>
    if isPublic f && !sat && m != .profJ then Converted.plain (infCode f n)
    else { Converted.plain (maxCode f n) with sat := true, flags := m.keep flInvalid }
  | .zero n => Converted.plain (signCode f (n && m != .profJ))
  | .fin q => if m == .profJ then convFinJ f (q.div S) else convFin m f sat (q.div S)

/-! ## Descriptors and rows -/

/-- A format descriptor (R44). -/
structure Desc where
  fmt : Nat
  blk : Bool
  sat : Bool

/-- The descriptor in a byte. -/
def Desc.ofByte (n : Nat) : Desc := { fmt := n % 16, blk := bitOf n 4, sat := bitOf n 5 }

/-- Bytes of one block of 16 elements (R49, 05_step_tables.md R132). -/
def blockBytes (f : Nat) : Nat := 2 * fmtBits f

/-- Elements in one unit of storage (R49): a WF6 or WF4 block holds 16. -/
def unitElems (f : Nat) : Nat := if 5 ≤ f ∧ f ≤ 7 then 16 else 1

/-- Codes packed as R49 stores them: element i at bit i × width of a little-endian string of whole units. The elements
of a last unit that has no code are 0: the model's choice, the spec has no such unit (log 64). -/
def packCodes (f : Nat) (codes : List Nat) : Bytes :=
  let w := fmtBits f
  leBytes (codes.reverse.foldl (fun acc c => acc * 2 ^ w + c % 2 ^ w) 0) (w * roundUp codes.length (unitElems f) / 8)

/-- An output value with the tags and flags it carries into conversion. -/
structure OutVal where
  v : Val
  ovf : Bool
  flush : Bool
  flags : BitVec 4

/-- A value that carries no tag. -/
def OutVal.clean (v : Val) : OutVal := { v := v, ovf := false, flush := false, flags := 0 }

/-- A rounding's result as an output value. -/
def Rounded.out (r : Rounded) : OutVal := { v := r.v, ovf := r.ovf, flush := r.flush, flags := r.flags }

/-- The smallest k for which a ≤ f × 2^k, for positive a and f (R58, R63). -/
def fitExp (a f : Q) : Int :=
  let k := a.binade - f.binade
  if a.le { f with exp := f.exp + k } then k else k + 1

/-- The block exponent of 16 values (R58, R59), before R60. -/
def blockExp (f : Nat) (S : Q) (vs : List Val) : Nat :=
  let a := vs.foldl (fun m v => match v with | .fin q => m.maxMag (q.div S) | _ => m) Q.zero
  if a.isZero then 0 else (max 0 (min 254 (127 + fitExp a (fmtMax f)))).toNat

/-- An element's conversion and its tally: its count (R93), its flags, its magnitude for the slot (R62). -/
def convOut (m : Mode) (f : Nat) (sat : Bool) (S : Q) (o : OutVal) (v : Val) : Nat × Tally :=
  let c := convert m f sat v S
  (c.code, { cnt := countElem c.nan (o.ovf || c.ovf) c.sat (o.flush || c.flush), flags := m.keep o.flags ||| c.flags,
             amax := (match o.v with | .fin q => q.abs | _ => Q.zero) })

/-- Converted elements with the exponents of their blocks and the tally. -/
structure RowOut where
  codes : List Nat
  exps : List Nat
  tally : Tally

/-- Two pieces of a row, one after the other. -/
def RowOut.append (x y : RowOut) : RowOut :=
  { codes := x.codes ++ y.codes, exps := x.exps ++ y.exps, tally := x.tally.add y.tally }

/-- No element. -/
def RowOut.empty : RowOut := { codes := [], exps := [], tally := Tally.zero }

/-- One block of at most 16 values (R58-R60). A block of fewer values, which only REDUCE with AXIS = 0 writes, takes its
exponent and its NAN count from the values it has: the model's choice (log 64). In a block that a NaN poisons nothing of
the other elements is converted, so that they raise no flag of a conversion: the model's choice (log 30). -/
def convBlock (m : Mode) (d : Desc) (S : Q) (vs : List OutVal) : RowOut :=
  let anyNaN := vs.any fun o => o.v.isNaN
  if !isWf8 d.fmt && anyNaN then
    { codes := vs.map fun _ => 0, exps := [255],
      tally := Tally.sum (vs.map fun o =>
        { cnt := countElem true false false false,
          flags := m.keep (o.flags ||| (match o.v with | .nan _ s => flIf s flInvalid | _ => 0)),
          amax := (match o.v with | .fin q => q.abs | _ => Q.zero) }) }
  else
    let b := blockExp d.fmt S (vs.map (·.v))
    let out := vs.map fun o =>
      convOut m d.fmt d.sat (Q.ofInt 1) o (match o.v with
        | .fin q => .fin (let u := q.div S; { u with exp := u.exp + (127 - (b : Int)) })
        | v => v)
    { codes := out.map (·.1), exps := [b], tally := Tally.sum (out.map (·.2)) }

/-- A list cut into blocks of n. -/
def blocksOf {α : Type} (n : Nat) (l : List α) : List (List α) :=
  (List.range (ceilDiv l.length n)).map fun i => (l.drop (i * n)).take n

/-- A row of values converted to a destination descriptor with output scale S. -/
def convRow (m : Mode) (d : Desc) (S : Q) (vs : List OutVal) : RowOut :=
  if d.blk then ((blocksOf 16 vs).map (convBlock m d S)).foldl RowOut.append RowOut.empty
  else
    let out := vs.map fun o => convOut m d.fmt d.sat S o o.v
    { codes := out.map (·.1), exps := [], tally := Tally.sum (out.map (·.2)) }

/-! ## Scale slots (02_formats.md R62, R63) -/

/-- An amax rounded toward +∞ to FP32, held at the largest finite value (R62). -/
def amaxWord (a : Q) : Word :=
  if a.isZero then 0
  else
    let q := if a.binade < -126 then (-149 : Int) else a.binade - 23
    let r := a.roundFix q .awayFromZero
    if (fmtMax 0).lt r then 0x7F7FFFFF else BitVec.ofNat 32 (magCode 0 r)

/-- The reference from an amax-in word: sign ignored, NaN as 0, infinity as the largest finite (R63). -/
def amaxIn (w : Nat) : Q :=
  match val32 (w % 2 ^ 31) with
  | .nan _ _ => Q.zero
  | .inf _ => fmtMax 0
  | .zero _ => Q.zero
  | .fin q => q

/-- slot_scale of R63: the FP32 word of S. -/
def slotScale (ref : Q) (cur : Word) (f h : Nat) (hold : Bool) : Word :=
  if hold || ref.isZero then cur
  else
    let k := max (-126) (min 127 (fitExp ref (fmtMax f)))
    let k := min 127 (k + h)
    BitVec.ofNat 32 ((k + 127).toNat * 2 ^ 23)

/-- A positive normal FP32 (R66). -/
def isPosNormal (w : Nat) : Bool := decide (0x00800000 ≤ w) && decide (w < 0x7F800000)

end Sys2Proof.Machine
end

