-- ==== Sys2Proof/Machine/Residue.lean ====
section
/-! DEFINITION. What Campion's checkers compute (11_integrity.md R311 to R313): residues mod 31 along the significand
path, even parity of words and flits, the SECDED code of a granule, and what a check that fires reports. A fault is an
event from outside: a command brings what the checker observed, and the check fires where this is not what the path
carried (log 38). -/

namespace Sys2Proof.Machine

/-! ## Residues (R311, R312) -/

/-- The residue of an integer quantity: its value mod 31. -/
def residue (n : Nat) : Nat := n % 31

/-- The residue of a decoded operand, formed from its significand (02_formats.md R51). -/
def sigResidue (w : BitVec 25) : Nat := residue (w.toNat % 2 ^ 12)

/-- A product carries the product of the residues. -/
def residueMul (x y : Nat) : Nat := x * y % 31

/-- A left shift by n multiplies the residue by 2^n. -/
def residueShl (x n : Nat) : Nat := x * (2 ^ n % 31) % 31

/-- A sum carries the sum of the residues. -/
def residueAdd (x y : Nat) : Nat := (x + y) % 31

/-- A rounding or truncation that keeps the upper bits, with residue q, and drops w lower bits, with residue d, passes its
check against the residue of its input. -/
def residueSplits (q d w r : Nat) : Bool := residueAdd (residueShl q w) d == r

/-- The residue of −n, where r is that of n. -/
def residueNeg (r : Nat) : Nat := (31 - r % 31) % 31

/-- The shift back by n: 2^5 is 1 mod 31. -/
def residueShr (x n : Nat) : Nat := residueShl x (4 * n)

/-- A residue field passes its check: 31 is illegal, whatever was expected. -/
def residuePasses (expected observed : Nat) : Bool := expected != 31 && observed != 31 && observed == expected

/-- The residue that the feeder forms from a stored code, without its decoded form: of the significand with its leading
bit at bit 11. -/
def codeResidue (f code : Nat) : Nat :=
  let mag := code % 2 ^ (fmtBits f - 1)
  let fr := mag % 2 ^ fmtFrac f
  let m := if mag < 2 ^ fmtFrac f then fr else 2 ^ fmtFrac f + fr
  if m = 0 then 0 else residueShl (residue m) (11 - Nat.log2 m)

/-- The feeder's check of a decode. -/
def feedPasses (f code wb : Nat) : Bool :=
  let w := decodeWord f code wb
  bitsOf w.toNat 24 23 != 1 || sigResidue w == codeResidue f code

/-! ## Quantities on the significand path -/

/-- The unit of a word's significand of 24 bits, and that significand. -/
def Val.unit (v : Val) : Int := match v with
  | .fin q => max (q.binade - 23) (-149)
  | _ => 0
def Val.sig (v : Val) : Nat := v.toQ.roundMag v.unit .towardZero

/-- A value with the residue of its significand, an integer multiple of 2^unit, that the path carries beside it. -/
structure Carried where
  v : Val
  unit : Int
  res : Nat

/-- A decoded operand: its residue is formed from its significand (R311). -/
def Carried.operand (v : Val) : Carried := { v := v, unit := v.toQ.exp, res := residue v.toQ.num.natAbs }

/-- A word with the residue carried beside it. -/
def Carried.word (v : Val) (r : Nat) : Carried := { v := v, unit := v.unit, res := r }

/-- The residue of a word, formed anew. -/
def wordResidue (v : Val) : Nat := residue v.sig

/-- The residue of the magnitude of x in units of 2^unit is r; of the integer k in units of 2^grid, to which x is rounded or
truncated, it is what makes residueSplits hold. -/
def keepResidue (r : Nat) (unit : Int) (x : Q) (k : Nat) (grid : Int) : Nat :=
  if unit ≤ grid then
    let w := (grid - unit).toNat
    let dropped : Int := (shlInt x.num (x.exp - unit)).natAbs - ((k * 2 ^ w : Nat) : Int)
    residueShr (residueAdd r (residueNeg (dropped % 31).toNat)) w
  else residueShl r (unit - grid).toNat

/-- What rounding a carried quantity to a word v leaves beside v. -/
def Carried.rounded (x : Carried) (v : Val) : Carried :=
  Carried.word v (match v with | .fin _ => keepResidue x.res x.unit x.v.toQ v.sig v.unit | _ => 0)

/-- A carried quantity truncated to multiples of 2^grid. -/
def Carried.truncated (x : Carried) (grid : Int) : Carried :=
  let k := x.v.toQ.roundMag grid .towardZero
  { v := Val.ofQ (x.v.toQ.roundFix grid .towardZero) x.v.sign, unit := grid, res := keepResidue x.res x.unit x.v.toQ k grid }

/-- The residue of the magnitude of a sum v of carried quantities, in units of 2^u. -/
def sumResidue (u : Int) (v : Val) (l : List Carried) : Nat :=
  let r := l.foldl (fun n t =>
    let x := residueShl t.res (t.unit - u).toNat
    residueAdd n (if t.v.sign then residueNeg x else x)) 0
  if v.sign then residueNeg r else r

/-- The sum v of carried quantities, in the smallest of their units. -/
def Carried.sum (v : Val) (l : List Carried) : Carried :=
  let u := l.foldl (fun n t => min n t.unit) v.toQ.exp
  { v := v, unit := u, res := sumResidue u v l }

/-- The product v of two carried quantities. -/
def Carried.product (v : Val) (x y : Carried) : Carried :=
  { v := v, unit := x.unit + y.unit, res := residueMul x.res y.res }

/-! ## Parity (R313) -/

/-- The parity of n bits: odd. -/
def oddBits : Nat → Nat → Bool
  | 0, _ => false
  | n + 1, v => oddBits n (v / 2) != (v % 2 == 1)

/-- The even-parity bit of a 32-bit word. -/
def wordParity (v : Nat) : Nat := (oddBits 32 v).toNat

/-- The 16 parity bits of a 64-byte flit, one for each of its words. -/
def flitParity (d : Bytes) : Nat :=
  (List.range 16).foldl (fun n i => n + wordParity (leAt d (4 * i) 4) * 2 ^ i) 0

/-! ## The SECDED code of a granule (R313) -/

/-- The check bits of a granule: the columns of the code where its bits are 1. Which code with 9 check bits it is the spec
leaves open (log 9). -/
def eccCode (g : BitVec 128) : BitVec 9 :=
  (List.range 128).foldl (fun n i => if g.getLsbD i then n ^^^ Config.eccColumn i else n) 0

/-- The syndrome of a single-bit error, in the data or in the check bits; it is corrected on read. -/
def eccSingle (s : BitVec 9) : Bool :=
  (List.range 9).any (fun i => s == BitVec.ofNat 9 (2 ^ i)) || (List.range 128).any fun i => s == Config.eccColumn i

/-- The syndrome that a read forms: the code of the data it finds beside the stored check bits. -/
def eccSyndrome (g : BitVec 128) (stored : BitVec 9) : BitVec 9 := eccCode g ^^^ stored

/-! ## Checks that fire (R310, R334) -/

/-- Byte i of a detection's syndrome. -/
def detByte (d : Det) (i : Nat) : Nat := bitsOf d.syndrome.toNat (8 * i + 7) (8 * i)

/-- What the detection reports is a check that fails: a residue, or a decision and its duplicate, differs from the one
expected, or either is the illegal 31 (R312); a parity bit is inverted; a flit's mismatch mask is not 0; a granule's ECC
syndrome is that of one bit, or of more (R313). -/
def detFires (d : Det) : Bool :=
  if d.code = 0x01 then decide (detByte d 2 < 32) && decide (detByte d 3 < 32) && !residuePasses (detByte d 2) (detByte d 3)
  else if d.code = 0x02 then !residuePasses (detByte d 2) (detByte d 3)
  else if d.code = 0x03 then !residuePasses (detByte d 4) (detByte d 5)
  else if d.code = 0x04 ∨ d.code = 0x05 then detByte d 2 + detByte d 3 == 1
  else if d.code = 0x06 then detByte d 4 + detByte d 5 != 0
  else if d.code = 0x07 then decide (detByte d 5 < 2) && eccSingle (BitVec.ofNat 9 (detByte d 4 + detByte d 5 * 256))
  else if d.code = 0x08 then decide (detByte d 5 < 2) && detByte d 4 + detByte d 5 != 0 &&
    !eccSingle (BitVec.ofNat 9 (detByte d 4 + detByte d 5 * 256))
  else true

/-- A check that a command brings, where it fires. -/
def fired (d : Option Det) : Option Det := d.filter detFires

/-- The syndrome of an injected error in the first row: one bit of the residue of a column is inverted (CHK_INJ_GO); which
column, which residue and which bit are open (log 9). -/
def injectedSyn (dp row w : Nat) : Nat :=
  let e := w / 256 % 31
  let o := e ^^^ 2 ^ (w / 65536 % 5)
  if dp = 2 then row % 65536 + w % 256 * 2 ^ 16 + e * 2 ^ 32 + o * 2 ^ 40
  else row % 256 + w % 256 * 2 ^ 8 + e * 2 ^ 16 + o * 2 ^ 24

/-! ## Granules (01_module.md R20) -/

/-- The bank of a granule address, and the word it is in that bank. -/
def bankOfGranule (g : Nat) : Nat := g / 0x800
def wordOfGranule (g : Nat) : Nat := g % 0x800

/-- The granule address that a scratch error names (R334). -/
def detGranule (d : Det) : Nat := d.syndrome.toNat % 2 ^ 32

end Sys2Proof.Machine
end

