-- ==== Sys2Proof/Machine/Dot.lean ====
section
/-! DEFINITION. The dot product of every mode and profile (03_arithmetic.md R70-R86) and the exact epilogue stages
(R88-R92, R95). -/

namespace Sys2Proof.Machine

/-! ## Products and sums of values -/

/-- An operand is a NaN (R70). -/
def nanOperand (x y : Val) : Bool := x.isNaN || y.isNaN

/-- ∞ × 0 (R70). -/
def invalidProduct (x y : Val) : Bool := (x.isInf && y.isZero) || (x.isZero && y.isInf)

/-- The product of two values that are no NaN and not ∞ × 0 (R70). -/
def mulVal (x y : Val) : Val :=
  let s := x.sign != y.sign
  if x.isInf || y.isInf then .inf s
  else if x.isZero || y.isZero then .zero s
  else .fin (x.toQ.mul y.toQ)

/-- The exact sum of finite values; an exact zero is +0 unless there are terms and every one is −0 (R73; for the averages
and interpolations of 07_image_ops.md, whose zeros no rule signs, the model's choice, log 30). -/
def sumVals (l : List Val) : Val :=
  Val.ofQ (l.foldl (fun a v => a.add v.toQ) Q.zero) (!l.isEmpty && l.all fun v => v.isZero && v.sign)

/-- The first NaN of a list. -/
def firstNaN (l : List Val) : Option Val := l.find? Val.isNaN

/-- Some NaN of the list is signalling. -/
def anySignalling (l : List Val) : Bool := l.any fun v => match v with | .nan _ s => s | _ => false

/-- A NaN that no later stage finds signalling (R72). -/
def Val.quieted : Val → Val
  | .nan b _ => .nan b false
  | v => v

/-! ## The accumulator -/

/-- An accumulator in flight: its word's value, its error word's value, tags and flags (R75, R84), and the residues
carried beside the two words (11_integrity.md R311). -/
structure AccV where
  s : Val
  e : Val
  ovf : Bool
  flush : Bool
  flags : BitVec 4
  sRes : Nat
  eRes : Nat

/-- An accumulator of State as values. -/
def Acc.toV (a : Acc) : AccV :=
  { s := val32 a.s.toNat, e := val32 a.e.toNat, ovf := a.ovf, flush := a.flush, flags := a.flags,
    sRes := a.sRes, eRes := a.eRes }

/-- The words of an accumulator. -/
def AccV.toAcc (a : AccV) : Acc :=
  { s := word32 a.s, e := word32 a.e, ovf := a.ovf, flush := a.flush, flags := a.flags, sRes := a.sRes, eRes := a.eRes }

/-- The accumulator's words with the residues carried beside them. -/
def AccV.carriedS (a : AccV) : Carried := Carried.word a.s a.sRes
def AccV.carriedE (a : AccV) : Carried := Carried.word a.e a.eRes

/-- The accumulator takes the result r of rounding the quantity x. -/
def AccV.takeS (a : AccV) (x : Carried) (r : Rounded) : AccV :=
  { a with s := r.v, ovf := a.ovf || r.ovf, flush := a.flush || r.flush, flags := a.flags ||| r.flags,
           sRes := (x.rounded r.v).res }

/-- The accumulator takes a word that is no finite number: it carries no residue. -/
def AccV.special (a : AccV) (v : Val) (fl : BitVec 4) : AccV := { a with s := v, flags := a.flags ||| fl, sRes := 0 }

/-- A preload as the mode loads it (R72). -/
def preload (m : Mode) (s e : Word) : Acc :=
  let load (s e : Word) : Acc := { Acc.clear with
    s := s, e := e, sRes := wordResidue (val32 s.toNat), eRes := wordResidue (val32 e.toNat) }
  match val32 s.toNat with
  | .nan b sig =>
    match m with
    | .strict => { load b 0 with flags := flIf sig flInvalid }
    | .x32 => load s e
    | m => load (word32 (modeNaN m)) 0
  | .inf n => if m == .profJ then load (word32 (max32 n)) 0 else load s e
  | _ => load s e

/-- A pair of operands, row then column. -/
abbrev Pair := Val × Val

/-- The NaN operand that a strict step keeps: of the product with one, A before B (R76). -/
def keptNaN (p : List Pair) : Option Val :=
  (p.find? fun x => nanOperand x.1 x.2).map fun x => if x.1.isNaN then x.1 else x.2

/-- The NaN of a special step whose product has a NaN operand (R76). -/
def stepNaN (m : Mode) (p : List Pair) : Val :=
  if m == .strict then ((keptNaN p).map Val.quieted).getD (modeNaN m) else modeNaN m

/-- Group size (R68). -/
def groupSize (m : Mode) (g : Nat) : Nat :=
  match m with
  | .fast => g
  | .strict => 1
  | .x32 => 1
  | .profJ => 4
  | .profO => min g 2

/-- The product of two operands of one pair, with its residue. -/
def mulCarried (x y : Carried) : Carried := Carried.product (mulVal x.v y.v) x y

/-- The exact sum of finite quantities, with its residue. -/
def sumCarried (l : List Carried) : Carried := Carried.sum (sumVals (l.map (·.v))) l

/-- group_j of R79 on finite values: each term is truncated on the grid of the largest (trunc_to), and their sum is
rounded. -/
def groupJ (a : AccV) (p : List Carried) : AccV :=
  let l := a.carriedS :: p
  match l.filter fun t => !t.v.isZero with
  | [] => a.takeS a.carriedS (.exact (.zero false))
  | t :: r =>
    let emax := r.foldl (fun m w => max m w.v.toQ.binade) t.v.toQ.binade
    let ts := l.map fun t => t.truncated (emax - 26)
    let x := Carried.sum (Val.ofQ (ts.foldl (fun n t => n.add t.v.toQ) Q.zero) false) ts
    a.takeS x (rnd .profJ x.v)

/-- One accumulation step over a group of products (R75, R76). -/
def dotStep (m : Mode) (a : AccV) (p : List Pair) : AccV :=
  if a.s.isNaN then a
  else if p.any fun x => nanOperand x.1 x.2 then
    a.special (stepNaN m p) (m.keep (flIf (anySignalling (keptNaN p).toList) flInvalid))
  else if p.any fun x => invalidProduct x.1 x.2 then a.special (modeNaN m) (m.keep flInvalid)
  else
    let prods := p.map fun x => mulCarried (.operand x.1) (.operand x.2)
    let infs := (a.s :: prods.map (·.v)).filter Val.isInf
    match infs with
    | i :: r =>
      if r.any fun j => j.sign != i.sign then a.special (modeNaN m) (m.keep flInvalid) else a.special i 0
    | [] =>
      match m with
      | .profJ => groupJ a prods
      | .profO =>
        let x := sumCarried prods
        let g := rnd .profO x.v
        let a := { a with ovf := a.ovf || g.ovf, flush := a.flush || g.flush }
        let y := sumCarried [a.carriedS, x.rounded g.v]
        if g.v.isInf then a.special g.v 0 else a.takeS y (rnd .profO y.v)
      | m =>
        let x := sumCarried (a.carriedS :: prods)
        a.takeS x (rnd m x.v)

/-- The three parts of a finite FP32 operand (R83). -/
def split3 (v : Val) : Val × Val × Val :=
  match v with
  | .fin q =>
    let hi := q.roundSig 8 .nearestEven
    let mid := (q.sub hi).roundSig 8 .nearestEven
    let lo := (q.sub hi).sub mid
    (.fin hi, Val.ofQ mid q.isNeg, Val.ofQ lo q.isNeg)
  | v => (.zero v.sign, .zero v.sign, .zero v.sign)

/-- The pair becomes a word that is no finite number, and +0. -/
def AccV.specialPair (a : AccV) (v : Val) : AccV := { a.special v 0 with e := .zero false, eRes := 0 }

/-- step_special_x32 (R85). Its last sentence leaves a NaN or infinite sum unchanged, while its second gives the canonical
NaN wherever the sum or the product is a NaN: the second is followed, the model's choice (log 30). -/
def specialX32 (a : AccV) (x y : Val) : AccV :=
  if a.s.isNaN || nanOperand x y || invalidProduct x y then a.specialPair (.nan 0x7FC00000 false)
  else
    let p := mulVal x y
    if p.isInf && a.s.isInf && p.sign != a.s.sign then a.specialPair (.nan 0x7FC00000 false)
    else if p.isInf then a.specialPair p
    else if a.s.isInf then a.specialPair a.s
    else a

/-- The six partial products in order, stopping where the sum leaves the finite range (R84). A preloaded error word that
is infinite or a NaN counts as 0: R84 gives value(e) for finite words only, and this is the model's choice (log 30). -/
def partials : AccV → List Carried → AccV
  | a, [] => a
  | a, q :: r =>
    let qv := rnd .x32 q.v
    let x := q.rounded qv.v
    let a := { a with ovf := a.ovf || qv.ovf, flush := a.flush || qv.flush }
    let y := sumCarried [a.carriedS, x]
    let s2 := if qv.v.isInf then Rounded.exact qv.v else rnd .x32 y.v
    let a' := { a with ovf := a.ovf || s2.ovf, flush := a.flush || s2.flush }
    match s2.v with
    | .inf _ => a'.specialPair s2.v
    | .nan _ _ => a'.specialPair s2.v
    | v =>
      let s := y.rounded v
      let t := Carried.sum (Val.ofQ ((a.s.toQ.add qv.v.toQ).sub v.toQ) false)
        [a.carriedS, x, { s with v := s.v.negate }]
      let z := sumCarried [a.carriedE, t]
      let e := rnd .x32 z.v
      partials { a' with s := v, e := e.v, ovf := a'.ovf || e.ovf, flush := a'.flush || e.flush,
                         sRes := s.res, eRes := (z.rounded e.v).res } r

/-- One K index of X32 mode (R84). -/
def x32Step (a : AccV) (p : Pair) : AccV :=
  let (x, y) := p
  if a.s.isNaN || a.s.isInf || x.isNaN || x.isInf || y.isNaN || y.isInf then specialX32 a x y
  else
    let (xh, xm, xl) := split3 x
    let (yh, ym, yl) := split3 y
    let mul (u v : Val) : Carried := mulCarried (.operand u) (.operand v)
    partials a [mul xh yh, mul xh ym, mul xm yh, mul xm ym, mul xh yl, mul xl yh]

/-- A dot product over the pairs of ascending K, starting at acc (R71, R75, R84). -/
def dot (m : Mode) (g : Nat) (acc : Acc) (p : List Pair) : Acc :=
  match m with
  | .x32 => (p.foldl x32Step acc.toV).toAcc
  | m => ((blocksOf (groupSize m g) p).foldl (dotStep m) acc.toV).toAcc

/-! ## The operand prologue (04_core.md R101, 03_arithmetic.md R77) -/

/-- An operand code as the cells see it. -/
def feed (m : Mode) (f code wb : Nat) : Val :=
  if wb ≠ 255 ∧ m.flushes ∧ f ≠ 0 ∧ isSubnormal f code then .zero (bitOf code (fmtBits f - 1))
  else match (if f = 0 then decodeElem f code wb else decodedVal f (decodeWord f code wb) wb) with
    | .inf n => if m == .profJ then .fin (if n then (fmtMax f).neg else fmtMax f) else .inf n
    | v => v

/-- What one decode counts: a flush, or a saturation in profile J (R77). -/
def feedCount (m : Mode) (f code : Nat) : Counters :=
  if m.flushes ∧ f ≠ 0 ∧ isSubnormal f code then Counters.flushes 1
  else if m = .profJ ∧ (decodeCode f code).isInf then Counters.sats 1
  else Counters.zero

/-! ## Exact values under the NaN rules of R90 -/

/-- The NaN among some inputs in their order and the flags it raises, by R90; none without one. For the X32 collapse R90
names no NaN: the first input NaN is kept as in strict mode, the model's choice (log 30). -/
def nanAmong (m : Mode) (inputs : List Val) : Option (Val × BitVec 4) :=
  (firstNaN inputs).map fun v =>
    (if m == .strict || m == .x32 then v.quieted else modeNaN m, m.keep (flIf (anySignalling inputs) flInvalid))

/-- The NaN of an invalid operation (R90). -/
def invalidOp (m : Mode) : Val × BitVec 4 := (modeNaN m, m.keep flInvalid)

/-- The product of values that are no NaN, left to right; none where it meets ∞ × 0 in any order. -/
def mulAll (l : List Val) : Option Val :=
  if l.any Val.isInf && l.any Val.isZero then none
  else some (l.foldl mulVal (.fin (Q.ofInt 1)))

/-- The exact sum of two values that are no NaN; none where +∞ meets −∞. -/
def addVal (x y : Val) : Option Val :=
  match x, y with
  | .inf s, .inf t => if s == t then some x else none
  | .inf _, _ => some x
  | _, .inf _ => some y
  | x, y => some (sumVals [x, y])

/-- A value with tags and flags gathered in the epilogue. -/
def OutVal.step (o : OutVal) (r : Rounded) : OutVal :=
  { v := r.v, ovf := o.ovf || r.ovf, flush := o.flush || r.flush, flags := o.flags ||| r.flags }

/-- Activations (R89); `n` is the LEAKY exponent, lo and hi the CLAMP bounds. -/
def activate (act n : Nat) (lo hi : Val) (v : Val) : Val :=
  if v.isNaN then (if act = 4 then v.abs else v)
  else match act with
  | 1 => if Val.lt (.zero false) v then v else .zero false
  | 2 =>
    if Val.lt (.zero false) v then v
    else match v with
      | .fin q => .fin { q with exp := q.exp - n }
      | v => v
  | 3 => minVal (maxVal v lo) hi
  | 4 => v.abs
  | _ => v
where
  /-- max with the signed-zero rule of 04_core.md R118 -/
  maxVal (x y : Val) : Val := if x.isZero && y.isZero then .zero (x.sign && y.sign) else if x.lt y then y else x
  /-- min with the signed-zero rule of 04_core.md R118 -/
  minVal (x y : Val) : Val := if x.isZero && y.isZero then .zero (x.sign || y.sign) else if y.lt x then y else x

/-- How an entry's epilogue treats a value (R88, R92, R95). -/
structure Epi where
  mode : Mode
  split : Bool
  sa : Val
  sb : Val
  act : Nat
  leaky : Nat
  lo : Val
  hi : Val

/-- Stages 1 to 3 with rnd_strict after each (R95): each stage is the separate operation, with the NaN rule, the
invalid flag and the rounding flags it has there. -/
def splitEpilogue (x : Epi) (a : OutVal) (c : Option Val) : OutVal :=
  let stage (o : OutVal) (inputs : List Val) (r : Option Val) : OutVal :=
    match nanAmong x.mode inputs, r with
    | some (v, fl), _ => { o with v := v, flags := o.flags ||| fl }
    | none, none => { o with v := (invalidOp x.mode).1, flags := o.flags ||| (invalidOp x.mode).2 }
    | none, some v => o.step (rnd x.mode v)
  let t1 := stage a [a.v, x.sa, x.sb] (mulAll [a.v, x.sa, x.sb])
  let t2 := match c with
    | none => t1
    | some c => stage t1 [t1.v, c] (addVal t1.v c)
  t2.step (rnd x.mode (activate x.act x.leaky x.lo x.hi t2.v))

/-- Stages 1 to 3 without split rounding, on a value a with bias c (none = no bias): R88, R90, R92. -/
def fusedEpilogue (x : Epi) (a : OutVal) (c : Option Val) : OutVal :=
  match nanAmong x.mode ([a.v, x.sa, x.sb] ++ c.toList) with
  | some (v, fl) => { a with v := activate x.act x.leaky x.lo x.hi v, flags := a.flags ||| fl }
  | none =>
    let bad : OutVal := { a with v := activate x.act x.leaky x.lo x.hi (invalidOp x.mode).1,
                                 flags := a.flags ||| (invalidOp x.mode).2 }
    let one (o : OutVal) (s : Val) : Option OutVal := (mulAll [o.v, s]).map fun v => o.step (rnd x.mode v)
    let t2 : Option OutVal :=
      match x.mode with
      | .profJ => (one a x.sa).bind fun t1 => one t1 x.sb
      | .profO => (mulAll [a.v, x.sa, x.sb]).map fun v => a.step (rnd x.mode v)
      | _ => (mulAll [a.v, x.sa, x.sb]).map fun v => { a with v := v }
    match t2 with
    | none => bad
    | some t2 =>
      match (match c with | none => some t2.v | some c => addVal t2.v c) with
      | none => bad
      | some v3 =>
        let t3 := if c.isSome && x.mode == .profJ then t2.step (rnd x.mode v3) else { t2 with v := v3 }
        { t3 with v := activate x.act x.leaky x.lo x.hi t3.v }

/-- Stages 1 to 3 on a value a with bias c. -/
def epilogue (x : Epi) (a : OutVal) (c : Option Val) : OutVal :=
  if x.split then splitEpilogue x a c else fusedEpilogue x a c

/-- The residues that stages 1 and 2 carry for an accumulator's quantity a and a bias c (11_integrity.md R310, R311): of
the scaled value and of the sum with the bias, each rounded where the entry's mode rounds it. -/
def epiResidues (x : Epi) (a : Carried) (c : Option Val) : Nat × Nat :=
  let fresh (v : Val) : Carried := Carried.word v (wordResidue v)
  let rd (on : Bool) (y : Carried) : Carried := if on then y.rounded (rnd x.mode y.v).v else y
  let one (y : Carried) (s : Val) : Carried := rd (x.mode == Mode.profJ) (mulCarried y (fresh s))
  let t1 := rd (x.split || x.mode == Mode.profO) (one (one a x.sa) x.sb)
  let t2 := match c with
    | none => t1
    | some c => rd (x.split || x.mode == Mode.profJ) (sumCarried [t1, fresh c])
  (t1.res, t2.res)

end Sys2Proof.Machine
end

