-- ==== Sys2Proof/Machine/Mailbox.lean ====
section
/-! DEFINITION. The mailbox protocol (12_host.md R347-R349): the latched request and the response. -/

namespace Sys2Proof.Machine

/-- Offset of mailbox m's request page in its instance, in words (R347). -/
def reqWord (m : Nat) : Nat := m * 0x800

/-- Offset of mailbox m's response page, in words. -/
def rspWord (m : Nat) : Nat := m * 0x800 + 0x400

/-- n words of a function's pages from word w on. -/
def pageWords (b : Block) (f w n : Nat) : Bytes :=
  (List.range n).flatMap fun i => leBytes (rd b (.mbxPage f (w + i))) 4

/-- The request a GO latches: the header and LEN bytes of payload, at most a page (R347, R348). -/
def requestBytes (b : Block) (f m : Nat) : Bytes :=
  let len := min 4080 (rd b (.mbxPage f (reqWord m + 1)))
  (pageWords b f (reqWord m) (4 + ceilDiv len 4)).take (16 + len)

/-- The request that mailbox m of f holds latched. -/
def request (b : Block) (f m : Nat) : Option Bytes := (smGet (func b f).latched m).map (·.bytes)

/-- Fields of a request (R348). -/
def reqCode (r : Bytes) : Nat := leAt r 0 2
def reqTarget (r : Bytes) : Nat := leAt r 2 1
def reqLen (r : Bytes) : Nat := leAt r 4 4
def reqTag (r : Bytes) : Nat := leAt r 8 8
def reqPayload (r : Bytes) : Bytes := r.drop 16

/-- Statuses (R350). -/
def stOk : Nat := 0
def stBadArg : Nat := 1
def stConflict : Nat := 2
def stNoResource : Nat := 3
def stDenied : Nat := 4
def stBusy : Nat := 5
def stIntegrity : Nat := 6
def stTimeout : Nat := 7

/-- The response page's bytes (R349). -/
def responseBytes (b : Block) (r : Bytes) (status detail : Nat) (payload : Bytes) : Bytes :=
  leBytes (reqCode r) 2 ++ leBytes status 1 ++ [0] ++ leBytes detail 4 ++ leBytes (reqTag r) 8 ++
    leBytes payload.length 4 ++ leBytes 0 4 ++ leBytes (beat b) 8 ++ payload

/-- Bytes go to a function's pages from word w on. -/
def Act.pageWrite (f w : Nat) (bs : Bytes) : Act :=
  .each (List.range (ceilDiv bs.length 4)) fun i => .setReg (.mbxPage f (w + i)) (leAt bs (4 * i) 4)

/-- The words of mailbox m's response page read as 0. -/
def Act.pageClear (f w n : Nat) : Act :=
  .resetRegs fun a =>
    !(decide ((Reg.mbxPage f w).addr ≤ a) && decide (a < (Reg.mbxPage f (w + n)).addr))

/-- A command completes (R347 step 3): the response page, then STATUS and DONE set and BUSY cleared in one write, then
the mailbox's vector (R364). Nothing where the mailbox holds no request. -/
def Act.respond (f m status detail : Nat) (payload : Bytes) : Act :=
  .read fun b => .opt (request b f m) fun r =>
    Act.all [
      .pageClear f (rspWord m) 0x400,
      .pageWrite f (rspWord m) (responseBytes b r status detail payload),
      .onFunc f (fun s => { s with latched := smDel s.latched m }),
      .setReg (.mbxMb f m) (status * 2 ^ 24 + 4),
      .sendVector f m]

end Sys2Proof.Machine
end

