-- ==== Sys2Proof/Machine/Operands.lean ====
section
/-! DEFINITION. What a step-table entry names: its fields (05_step_tables.md R125-R147), its runtime extents (R148,
R151, R152), where its operands lie (R131, R132, R140, 07_image_ops.md R187-R190) and how they are read. -/

namespace Sys2Proof.Machine

/-! ## Entry fields -/

/-- Bits [hi:lo] of an entry (R125). -/
def ef (e : BitVec 512) (hi lo : Nat) : Nat := bitsOf e.toNat hi lo

/-- A granule address, none where it reads 0x1_FFFF (R127). -/
def granule (n : Nat) : Option Nat := if n = 0x1FFFF then none else some (n * 16)

/-- A word address, none where it reads 0x7_FFFF (R127). -/
def wordAddr (n : Nat) : Option Nat := if n = 0x7FFFF then none else some (n * 4)

def opcodeOf (e : BitVec 512) : Nat := ef e 7 0
def arithOf (e : BitVec 512) : Mode := Mode.ofCode (ef e 10 8)
def subopOf (e : BitVec 512) : Nat := ef e 144 139

/-- Opcodes of R126. -/
def opMatmul : Nat := 0x01
def opConv : Nat := 0x02
def opScore : Nat := 0x03
def opNorm : Nat := 0x04
def opPool : Nat := 0x05
def opResize : Nat := 0x06
def opConvert : Nat := 0x07
def opElemwise : Nat := 0x08
def opReduce : Nat := 0x09
def opDigest : Nat := 0x0A
def opGather : Nat := 0x0B
def opWait : Nat := 0x10
def opSignal : Nat := 0x11
def opBarrier : Nat := 0x12
def opStream : Nat := 0x13
def opLoop : Nat := 0x14
def opParam : Nat := 0x15
def opEnd : Nat := 0x1F

/-- MATMUL and SCORE: the geometry of R131. -/
def isMat (e : BitVec 512) : Bool := opcodeOf e == opMatmul || opcodeOf e == opScore
/-- CONV and POOL: the geometry of R137. -/
def isCv (e : BitVec 512) : Bool := opcodeOf e == opConv || opcodeOf e == opPool
/-- Entries that run on the arrays (04_core.md R96). -/
def onArrays (e : BitVec 512) : Bool := isMat e || opcodeOf e == opConv
/-- Entries with the array common block (R129). -/
def hasCommon (e : BitVec 512) : Bool := isMat e || isCv e || opcodeOf e == opResize
/-- Vector entries (R140). -/
def isVec (e : BitVec 512) : Bool :=
  opcodeOf e == opNorm || (decide (opConvert ≤ opcodeOf e) && decide (opcodeOf e ≤ opGather))
/-- Entries that compute: a null repetition makes them zero extents (R145). -/
def isWork (e : BitVec 512) : Bool := hasCommon e || isVec e

/-! ## Runtime extents (R148) -/

/-- The planned maxima, in the order of the opcode's shape words. -/
def plannedExt (e : BitVec 512) : List Nat :=
  if isMat e then [32 * ef e 322 315, 32 * ef e 330 323, 16 * ef e 341 331, ef e 403 392, ef e 415 404]
  else if isCv e then
    [ef e 326 319, ef e 337 327, ef e 348 338, ef e 356 349, ef e 367 357, ef e 378 368, ef e 479 472]
  else if opcodeOf e = opResize then [ef e 376 365, ef e 404 393]
  else [ef e 156 145, 32 * ef e 167 157, ef e 227 216]

/-- Output channels of a convolution or pooling: 32 × ⌈COU / 2⌉ (07_image_ops.md R188, R198). -/
def convNc (e : BitVec 512) : Nat := 32 * ceilDiv (ef e 396 388) 2

/-- Word w of the entry's shape set. -/
def shapeWord (b : Block) (c : Nat) (e : BitVec 512) (w : Nat) : Nat := rd b (.seqRs c (ef e 19 16) w)

/-- The runtime extents, KLEN, QBASE and KBASE of an entry (R148). No shape word of a CONV gives them: its KLEN is its
number of output channels and its bases are 0, the model's choice (log 30). -/
def runtimeExt (b : Block) (c : Nat) (e : BitVec 512) : List Nat × Int × Int × Int :=
  let pl := plannedExt e
  let st := ef e 19 16
  let ext := if st = 0 then pl else (List.range pl.length).map fun w => shapeWord b c e w
  if isCv e then (ext, (convNc e : Int), 0, 0)
  else if opcodeOf e = opResize then (ext, 0, 0, 0)
  else if st = 0 then (ext, (natAt pl 1 : Int), 0, 0)
  else
    let o := if isMat e then 5 else 3
    (ext, (shapeWord b c e o : Int), signedOf (shapeWord b c e (o + 1)) 32, signedOf (shapeWord b c e (o + 2)) 32)

/-- The extension block's words, with their values when EXT is none (R130). -/
def extWords (b : Block) (c : Nat) (e : BitVec 512) : List Word :=
  match (if hasCommon e then granule (ef e 313 297) else none) with
  | none => [0, 0, 0xFF800000, 0, 0, 0, 0, 0]
  | some a => (List.range 8).map fun w => BitVec.ofNat 32 (scrWord b c (a + 4 * w))

/-- A shape overrun (R151, 07_image_ops.md R186). -/
def shapeOverrun (e : BitVec 512) (ext : List Nat) (xw : List Word) : Bool :=
  let x (i : Nat) := natAt ext i
  let big := (ext.zip (plannedExt e)).any fun p => decide (p.2 < p.1)
  let w (i : Nat) := ((xw[i]?).getD 0).toNat
  let align :=
    if isMat e then x 0 % 32 != 0 || x 1 % 32 != 0 || x 2 % 16 != 0
    else if opcodeOf e = opConv then x 0 * x 1 * x 2 % 32 != 0
    else if isVec e then x 1 % 32 != 0 else false
  let lo := val32 (w 0)
  let hi := val32 (w 1)
  let clamp := hasCommon e && ef e 291 289 == 3 && (lo.isNaN || lo.isInf || hi.isNaN || hi.isInf || hi.lt lo)
  let band := hasCommon e && ef e 296 295 == 2 && w 3 / 65536 == 0
  big || align || clamp || band

/-- A zero extent (R152). -/
def zeroExtent (ext : List Nat) : Bool := ext.any (· == 0)

/-! ## Elements in scratch -/

/-- The code of element i of a string of elements of format f at byte offset o of core c's scratch (02_formats.md
R49): bits [w × i + w − 1 : w × i]. -/
def elemCode (b : Block) (c o f i : Nat) : Nat :=
  let w := fmtBits f
  if 8 ≤ w then leNat (scr b c (o + i * (w / 8)) (w / 8))
  else leNat (scr b c (o + i * w / 8) 2) / 2 ^ (i * w % 8) % 2 ^ w

/-- A tensor of rows: where row 0 begins, bytes from one row to the next, its format, and the same for its block
exponents (R132). -/
structure View where
  core : Nat
  base : Nat
  row : Nat
  fmt : Nat
  xbase : Option Nat
  xrow : Nat

/-- The view of a tensor with the descriptor `d`: granule base, granule row stride, iteration offset in granules,
exponent base. The exponent strides are the element strides in bytes over the bytes per block (R132). -/
def mkView (c a stride iter : Nat) (d : Desc) (x : Option Nat) : View :=
  { core := c, base := a + iter * 16, row := stride * 16, fmt := d.fmt,
    xbase := if d.blk then x.map fun x => x + iter * 16 / blockBytes d.fmt else none,
    xrow := stride * 16 / blockBytes d.fmt }

/-- Code of element i of row r. -/
def View.code (v : View) (b : Block) (r i : Nat) : Nat := elemCode b v.core (v.base + r * v.row) v.fmt i

/-- Block exponent of element i of row r; 127 without one (02_formats.md R48). -/
def View.wb (v : View) (b : Block) (r i : Nat) : Nat :=
  match v.xbase with
  | none => 127
  | some x => (byteAt b (scratchAt v.core (x + r * v.xrow + i / 16))).toNat

/-- The tensor scale a scale word holds; 1.0 without one (02_formats.md R54). -/
def scaleWord (b : Block) (c : Nat) (w : Nat) : Word :=
  match wordAddr w with
  | none => 0x3F800000
  | some a => BitVec.ofNat 32 (scrWord b c a)

/-! ## MATMUL and SCORE operands (R131) -/

/-- The element view of A for an iteration. -/
def matA (c : Nat) (e : BitVec 512) (t : Tile) : View :=
  mkView c (ef e 80 64 * 16) (ef e 357 342) (t.b2 * ef e 479 464 + t.b1 * ef e 431 416) (Desc.ofByte (ef e 122 115))
    (wordAddr (ef e 157 139))

/-- The element view of B for an iteration. -/
def matB (c : Nat) (e : BitVec 512) (t : Tile) : View :=
  mkView c (ef e 97 81 * 16) (ef e 373 358) (t.b2 * ef e 495 480 + t.b1 * ef e 447 432) (Desc.ofByte (ef e 130 123))
    (wordAddr (ef e 176 158))

/-- The view of the output for an iteration. -/
def matC (c : Nat) (e : BitVec 512) (t : Tile) : View :=
  mkView c (ef e 114 98 * 16) (ef e 389 374) (t.b2 * ef e 511 496 + t.b1 * ef e 463 448) (Desc.ofByte (ef e 138 131))
    (wordAddr (ef e 195 177))

/-- A K sequence as the cells see it, with the counts of its decodes. -/
structure KSeq where
  vals : List Val
  cnt : Counters

/-- Counts of a list of decodes. -/
def countCodes (m : Mode) (f : Nat) (codes : List Nat) : Counters :=
  codes.foldl (fun a x => a.add (feedCount m f x)) Counters.zero

/-- K elements of one outer index: with `kin`, element k of row o; else element o of row k (R131). -/
def matSeq (b : Block) (m : Mode) (v : View) (kin : Bool) (o k : Nat) : KSeq :=
  let cw := (List.range k).map fun i => if kin then (v.code b o i, v.wb b o i) else (v.code b i o, v.wb b i o)
  { vals := cw.map fun x => feed m v.fmt x.1 x.2, cnt := countCodes m v.fmt (cw.map (·.1)) }

/-! ## CONV, POOL and RESIZE operands (07_image_ops.md R187-R195) -/

/-- pad_map of R192: the index read, or none for a padding value. -/
def padMap (x : Int) (n : Nat) (mode : Nat) : Option Nat :=
  if 0 ≤ x ∧ x < n then some x.toNat
  else if mode = 0 ∨ mode = 1 then none
  else if mode = 3 then some (if x < 0 then 0 else n - 1)
  else if n = 1 then some 0
  else
    let per : Int := 2 * ((n : Int) - 1)
    let r := x % per
    some (if r < n then r else per - r).toNat

/-- Index of an input element in the tensor's order (R187); it, ih, iw are the planned extents. -/
def inputIndex (layout it ih iw t h w c : Nat) : Nat :=
  if layout = 0 then (((c / 32 * it + t) * ih + h) * iw + w) * 32 + c % 32
  else if layout = 1 then (((c / 16 * it + t) * ih + h) * iw + w) * 16 + c % 16
  else ((c * it + t) * ih + h) * iw + w

/-- A tensor in one linear order: base byte, format, exponent base (R187, R189, R190). -/
structure Lin where
  core : Nat
  base : Nat
  fmt : Nat
  xbase : Option Nat

/-- A linear tensor with a batch stride in granules. -/
def mkLin (c a bs bat : Nat) (d : Desc) (x : Option Nat) : Lin :=
  { core := c, base := a + bat * bs * 16, fmt := d.fmt,
    xbase := if d.blk then x.map fun x => x + bat * (bs * 16 / blockBytes d.fmt) else none }

/-- Code and block exponent of element i. -/
def Lin.get (l : Lin) (b : Block) (i : Nat) : Nat × Nat :=
  (elemCode b l.core l.base l.fmt i,
   match l.xbase with
   | none => 127
   | some x => (byteAt b (scratchAt l.core (x + i / 16))).toNat)

/-- The input image of a batch iteration. -/
def cvInput (c : Nat) (e : BitVec 512) (bat : Nat) : Lin :=
  mkLin c (ef e 80 64 * 16) (ef e 495 480) bat (Desc.ofByte (ef e 122 115)) (wordAddr (ef e 157 139))

/-- The constant of R193 as code and block exponent. -/
def padConst (e : BitVec 512) (m : Mode) (xw : List Word) : Nat × Nat :=
  let d := Desc.ofByte (ef e 122 115)
  let r := convRow m d (Q.ofInt 1) (List.replicate 16 (OutVal.clean (val32 ((xw[4]?).getD 0).toNat)))
  (natAt r.codes 0, (r.exps[0]?).getD 127)

/-- A tap of the input: a stored element's channel-free position, or padding (R191, R194). -/
def tapAt (e : BitVec 512) (ext : List Nat) (o k : Nat × Nat × Nat) (dil : Bool) : Option (Nat × Nat × Nat) :=
  let mode := ef e 318 317
  let one (oi ki s d p n : Nat) : Option Nat :=
    padMap ((oi * s : Int) + (ki * (if dil then d else 1) : Int) - (p : Int)) n mode
  let t := one o.1 k.1 (ef e 413 408 + 1) (ef e 431 426 + 1) (ef e 451 444) (natAt ext 3)
  let h := one o.2.1 k.2.1 (ef e 419 414 + 1) (ef e 437 432 + 1) (ef e 459 452) (natAt ext 4)
  let w := one o.2.2 k.2.2 (ef e 425 420 + 1) (ef e 443 438 + 1) (ef e 467 460) (natAt ext 5)
  match t, h, w with
  | some t, some h, some w => some (t, h, w)
  | _, _, _ => none

/-- The tap lies inside the input (R191, R194): no padding, no mapping. -/
def tapInside (e : BitVec 512) (ext : List Nat) (o k : Nat × Nat × Nat) : Bool :=
  let one (oi ki s p n : Nat) : Bool :=
    let x : Int := (oi * s : Int) + (ki : Int) - (p : Int)
    decide (0 ≤ x) && decide (x < n)
  one o.1 k.1 (ef e 413 408 + 1) (ef e 451 444) (natAt ext 3) &&
  one o.2.1 k.2.1 (ef e 419 414 + 1) (ef e 459 452) (natAt ext 4) &&
  one o.2.2 k.2.2 (ef e 425 420 + 1) (ef e 467 460) (natAt ext 5)

/-- Kernel taps in ascending order, kw innermost (R185). -/
def taps (e : BitVec 512) : List (Nat × Nat × Nat) :=
  (List.range (ef e 399 397 + 1)).flatMap fun kt =>
    (List.range (ef e 403 400 + 1)).flatMap fun kh => (List.range (ef e 407 404 + 1)).map fun kw => (kt, kh, kw)

/-- The output position of a position index (R186). -/
def outPos (ext : List Nat) (m : Nat) : Nat × Nat × Nat :=
  let oh := natAt ext 1
  let ow := natAt ext 2
  (m / (oh * ow), m / ow % oh, m % ow)

/-- Channels per group, none ungrouped (R195). -/
def groupC (e : BitVec 512) : Option Nat := if ef e 471 468 = 15 then none else some (2 ^ ef e 471 468)

/-- Kc of R195. -/
def convKc (e : BitVec 512) : Nat :=
  match groupC e with
  | none => 16 * ef e 387 379
  | some cg => max cg 32

/-- The input channel of offset j for output channel co (R195). -/
def convChan (e : BitVec 512) (co j : Nat) : Nat :=
  match groupC e with
  | none => j
  | some cg => if 32 ≤ cg then co / cg * cg + j else co / 32 * 32 + j

/-- The stored weight element of offset j, none for a structural zero (R195). -/
def convWeight (e : BitVec 512) (co j : Nat) : Option Nat :=
  match groupC e with
  | none => some j
  | some cg =>
    if 32 ≤ cg then some j
    else
      let off := cg * (co % 32 / cg)
      if off ≤ j ∧ j < off + cg then some (j - off) else none

/-- The K sequence of an output position for the output channels around co (R185): the A operand. -/
def convA (b : Block) (c : Nat) (e : BitVec 512) (m : Mode) (ext : List Nat) (pad : Nat × Nat) (bat pos co : Nat) :
    KSeq :=
  let l := cvInput c e bat
  let o := outPos ext pos
  let kc := convKc e
  let layout := ef e 316 315
  let padded : Nat × Nat × Bool := if ef e 318 317 = 1 then (pad.1, pad.2, false) else (0, 127, false)
  let cw : List (Nat × Nat × Bool) := (taps e).flatMap fun k =>
    match tapAt e ext o k true with
    | none => List.replicate kc padded
    | some (t, h, w) =>
      (List.range kc).map fun j =>
        let x := l.get b (inputIndex layout (ef e 356 349) (ef e 367 357) (ef e 378 368) t h w (convChan e co j))
        (x.1, x.2, true)
  { vals := cw.map fun x => feed m l.fmt x.1 x.2.1,
    cnt := countCodes m l.fmt ((cw.filter fun x => x.2.2).map (·.1)) }

/-- The K sequence of an output channel's weights (R185, R189): the B operand. -/
def convB (b : Block) (c : Nat) (e : BitVec 512) (m : Mode) (co : Nat) : KSeq :=
  let l := mkLin c (ef e 97 81 * 16) 0 0 (Desc.ofByte (ef e 130 123)) (wordAddr (ef e 176 158))
  let cw := match groupC e with
    | none => 16 * ef e 387 379
    | some cg => max cg 16
  let nt := (taps e).length
  let xs : List (Option (Nat × Nat)) := (List.range nt).flatMap fun k =>
    (List.range (convKc e)).map fun j => (convWeight e co j).map fun j => l.get b ((co * nt + k) * cw + j)
  { vals := xs.map fun x => match x with
      | none => .zero false
      | some x => feed m l.fmt x.1 x.2,
    cnt := countCodes m l.fmt (xs.filterMap fun x => x.map (·.1)) }

/-- Block width of a convolution's output (R188). -/
def outBlock (e : BitVec 512) : Nat :=
  let f := ef e 134 131
  if 5 ≤ f ∧ f ≤ 7 then 16 else if ef e 316 315 = 1 ∧ (f = 3 ∨ f = 4) then 16 else 32

/-- Output elements of 16 or 32 channels from channel co at a position (R188): the index of the first. -/
def outIndex (e : BitVec 512) (o : Nat × Nat × Nat) (co : Nat) : Nat :=
  let bo := outBlock e
  (((co / bo * ef e 326 319 + o.1) * ef e 337 327 + o.2.1) * ef e 348 338 + o.2.2) * bo + co % bo

/-- The writes of a run of elements that begins at element i of a linear output tensor. -/
def linPuts (l : Lin) (i : Nat) (r : RowOut) : List (Nat × Bytes) :=
  (l.base + i * fmtBits l.fmt / 8, packCodes l.fmt r.codes) ::
    (match l.xbase with
     | none => []
     | some x => [(x + i / 16, r.exps.map fun n => BitVec.ofNat 8 n)])

/-- The output tensor of a convolution or pooling for a batch iteration. -/
def cvOutput (c : Nat) (e : BitVec 512) (bat : Nat) : Lin :=
  mkLin c (ef e 114 98 * 16) (ef e 511 496) bat (Desc.ofByte (ef e 138 131)) (wordAddr (ef e 195 177))

/-! ## Vector operands (R140) -/

/-- The views of X, Y and Z for a batch iteration. -/
def vecX (c : Nat) (e : BitVec 512) (bat : Nat) : View :=
  mkView c (ef e 80 64 * 16) (ef e 183 168) (bat * ef e 243 228) (Desc.ofByte (ef e 122 115)) (wordAddr (ef e 400 382))
def vecY (c : Nat) (e : BitVec 512) (bat : Nat) : View :=
  mkView c (ef e 97 81 * 16) (ef e 199 184) (bat * ef e 259 244) (Desc.ofByte (ef e 130 123)) (wordAddr (ef e 419 401))
def vecZ (c : Nat) (e : BitVec 512) (bat : Nat) : View :=
  mkView c (ef e 114 98 * 16) (ef e 215 200) (bat * ef e 275 260) (Desc.ofByte (ef e 138 131)) (wordAddr (ef e 438 420))

/-- The writes of part of an output row from element i on. -/
def rowPuts (v : View) (r i : Nat) (out : RowOut) : List (Nat × Bytes) :=
  (v.base + r * v.row + i * fmtBits v.fmt / 8, packCodes v.fmt out.codes) ::
    (match v.xbase with
     | none => []
     | some x => [(x + r * v.xrow + i / 16, out.exps.map fun n => BitVec.ofNat 8 n)])

/-- Runs of bytes go to core c's scratch. -/
def Act.puts (c : Nat) (l : List (Nat × Bytes)) : Act := .each l fun p => .setScr c p.1 p.2

end Sys2Proof.Machine
end

