-- ==== Sys2Proof/Machine/Faults.lean ====
section
/-! DEFINITION. Sequencers, contexts and partitions stopping: the faults of 06_streams.md R166-R168, R181 and
04_core.md R123, the cancelling of waits, and the end of a run (12_host.md R359). -/

namespace Sys2Proof.Machine

/-! ## Sequencer and context state (04_core.md SEQ_STATUS, 06_streams.md STR_CTX) -/

def seqState (b : Block) (c : Nat) : Nat := fld b (.seqStatus c) 19 16
def seqEntry (b : Block) (c : Nat) : Nat := fld b (.seqStatus c) 11 0
def Act.setSeqState (c st : Nat) : Act := .setFld (.seqStatus c) 19 16 st
def Act.setSeqEntry (c i : Nat) : Act := .setFld (.seqStatus c) 11 0 i

def seqNoImage : Nat := 0
def seqLoaded : Nat := 1
def seqRunning : Nat := 2
def seqWaits : Nat := 3
def seqStopped : Nat := 4
def seqFaulted : Nat := 5

/-- The entry the sequencer of core c stands at. -/
def entryAt (b : Block) (c : Nat) : Option (BitVec 512) := (core b c).steps[seqEntry b c]?

def ctxActive (b : Block) (c x : Nat) : Bool := flag b (.strCtx c x) 31
def ctxWaiting (b : Block) (c x : Nat) : Bool := flag b (.strCtx c x) 30
def ctxProg (b : Block) (c x : Nat) : Nat := fld b (.strCtx c x) 29 24
def ctxPc (b : Block) (c x : Nat) : Nat := fld b (.strCtx c x) 20 16
def Act.setCtxWaiting (c x : Nat) (w : Bool) : Act := .setFld (.strCtx c x) 30 30 w.toNat
def Act.setCtxPc (c x pc : Nat) : Act := .setFld (.strCtx c x) 20 16 pc

/-- The instruction a context stands at. -/
def instrAt (b : Block) (c x : Nat) : Option DWord :=
  ((core b c).progs[ctxProg b c x]?).bind fun p => p[ctxPc b c x]?

/-- A context becomes free. -/
def Act.freeCtx (c x : Nat) : Act :=
  Act.all [.setReg (.strCtx c x) 0, .setFld (.strStatus c) x x 0, .onCtx c x (fun _ => CtxState.reset)]

/-! ## Agents -/

/-- The core an agent stands on. -/
def Agent.core : Agent → Option Nat
  | .seq c => some c
  | .drain c _ => some c
  | .ctx c _ => some c
  | _ => none

/-- The function an agent belongs to. -/
def Agent.func (b : Block) (a : Agent) : Option Nat :=
  match a with
  | .bind p _ => some (Machine.port b p).func
  | .port p => some (Machine.port b p).func
  | .dir f => some f
  | a => a.core.bind fun c => ownerOfCore b c

/-- A partition's first fault of the run (12_host.md R355). -/
def Act.firstFault (f cause lcore pc : Nat) : Act :=
  .read fun b =>
    if (Machine.part b f).fault.isSome then .nop
    else Act.all [.onPart f (fun p => { p with fault := some { cause := cause, lcore := lcore, pc := pc } }),
      .setFld (.mbxFunc f) 7 0 cause]

/-- Where an agent stands: its entry's index, or program × 32 + PC of a context. -/
def posOf (b : Block) (a : Agent) : Nat :=
  match a with
  | .seq c | .drain c _ => seqEntry b c
  | .ctx c x => ctxProg b c x * 32 + ctxPc b c x
  | _ => 0

/-- The record that a fault or detection of an agent, at a position of its schedule, starts from
(11_integrity.md R333). -/
def agentRecordAt (b : Block) (a : Agent) (pos : Nat) : Tansy :=
  let f := (a.func b).getD 0x1F
  let im := (((Machine.part b f).image.map fun i => i.imageId.toNat)).getD 0
  let t := { Tansy.none with func := f, image := im }
  match a with
  | .seq c | .drain c _ =>
    { t with step := pos, opcode := (((core b c).steps[pos]?).map opcodeOf).getD 0, lcore := lcoreOf b f c,
             invoc := rd b (.seqInvoc c) % 2 ^ 32 }
  | .ctx c _ => { t with lcore := lcoreOf b f c, invoc := rd b (.seqInvoc c) % 2 ^ 32 }
  | _ => t

/-- The record of an agent where it stands. -/
def agentRecord (b : Block) (a : Agent) : Tansy := agentRecordAt b a (posOf b a)

/-- A fault is recorded in its unit (04_core.md R123, STR_FAULT), with the entry or instruction that faulted, and as
the partition's first. A sequencer already faulted keeps the lower cause. -/
def Act.unitFault (a : Agent) (pos cause : Nat) : Act :=
  .read fun b =>
    let f := (a.func b).getD 0
    let onSeq (c : Nat) : Act := Act.all [
      .when (seqState b c != seqFaulted || decide (cause < fld b (.seqFault c) 31 24))
        (.setReg (.seqFault c) (cause * 2 ^ 24 + pos)),
      .setSeqState c seqFaulted,
      .firstFault f cause (lcoreOf b f c) pos]
    match a with
    | .seq c => onSeq c
    | .drain c _ => onSeq c
    | .ctx c x => Act.all [
        .when (rd b (.strFault c) == 0)
          (.setReg (.strFault c) (cause * 2 ^ 24 + x * 2 ^ 22 + pos / 32 * 2 ^ 16 + pos % 32)),
        .setFld (.strStatus c) (4 + x) (4 + x) 1,
        .setFld (.strStatus c) x x 0, .setFld (.strCtx c x) 31 30 0,
        .firstFault f cause (lcoreOf b f c) (pos % 32)]
    | _ => .firstFault f cause 0 0

/-! ## Objects -/

def objType (b : Block) (o : Nat) : Nat := fld b (.synObjCfg o) 31 30
/-- The physical object of relative object i of a partition, where it is in use: an operation on any other is an address
fault (R157). -/
def liveObj (b : Block) (f i : Nat) : Option Nat := (physObj b f i).filter fun o => objType b o != 0
def objBound (b : Block) (o : Nat) : Nat := fld b (.synObjCfg o) 15 0
def semCount (b : Block) (o : Nat) : Nat := fld b (.synObjState o) 15 0
def barArrived (b : Block) (o : Nat) : Nat := fld b (.synObjState o) 14 0
def barCount (b : Block) (o : Nat) : Nat := fld b (.synObjState o) 29 15
def barGen (b : Block) (o : Nat) : Nat := fld b (.synObjState o) 31 31

/-- SYN_OBJ_WAITERS follows the queue and the held participants. -/
def Act.showWaiters (o : Nat) : Act :=
  .read fun b => .setReg (.synObjWaiters o) (((Machine.obj b o).queue.length + (Machine.obj b o).held.length) % 65536)

/-- An object's queue and held participants change. -/
def Act.setWaiters (o : Nat) (g : ObjState → ObjState) : Act := Act.all [.onObj o g, .showWaiters o]

/-- The object a message concerns. -/
def SyncMsg.obj : SyncMsg → Option Nat
  | .sig o _ _ _ => some o
  | .wait o _ => some o
  | .arr o _ => some o
  | .comb o _ _ => some o
  | .bcast o _ => some o
  | .rel _ => none

/-- A message is a wait or an arrival on its way to an object the test admits. -/
def SyncMsg.isPending (m : SyncMsg) (own : Nat → Bool) : Bool :=
  match m with
  | .wait o _ => own o
  | .arr o _ => own o
  | .comb o _ _ => own o
  | _ => false

/-- A message belongs to function f: its object's plot or its agent is f's. -/
def msgOf (b : Block) (f : Nat) (m : SyncMsg) : Bool :=
  match m with
  | .rel a => a.func b == some f
  | m => ((m.obj.bind fun o => ownerOfPlot b (o / 512))) == some f

/-- The cancelled wait of one agent is logged, event 0x24 (06_streams.md R168). -/
def Act.logCancelled (o : Nat) (w : Waiter) : Act :=
  .read fun b => .log { agentRecord b w.agent with detector := 0x24, syndrome := o }

/-- The wait or arrival of an agent that a message carries to its object. -/
def SyncMsg.waiter : SyncMsg → Option (Nat × Waiter)
  | .wait o w => some (o, w)
  | .arr o w => some (o, w)
  | _ => none

/-- The participants of a barrier whose generation has completed: they are satisfied, and only their release is still on
its way (06_streams.md R160, R166). -/
def ObjState.done (s : ObjState) : List Waiter := s.held.filter fun w => w.left.isNone

/-- An agent's wait or arrival has been satisfied, and its release has not reached it yet. -/
def released (b : Block) (a : Agent) : Bool :=
  b.syncNet.any (· == .rel a) || b.objs.any fun x => x.2.done.any fun w => w.agent == a

/-- An object without its pending waits and arrivals; those whose agents stop at once lose their satisfied ones too. -/
def ObjState.cancelled (s : ObjState) (all : Bool) : ObjState :=
  let kept := if all then [] else s.done
  { s with queue := [], held := kept, ports := [], sent := false
           localCnt := s.localCnt.filter fun x => kept.any fun w => w.agent.core.map plotOf == some x.1 }

/-- The pending waits and arrivals of a partition, in ascending object number: those at their homes and plot units, and
those still on their way there. -/
def pendingWaits (b : Block) (f : Nat) : List (Nat × Waiter) :=
  let net := (b.syncNet.filterMap SyncMsg.waiter).filter fun x => ownerOfPlot b (x.1 / 512) == some f
  ((objsOf b f).flatMap fun o =>
    ((Machine.obj b o).queue ++ (Machine.obj b o).held.filter fun w => w.left.isSome).map (fun w => (o, w)) ++
      net.filter fun x => x.1 == o) ++
  net.filter fun x => !(objsOf b f).contains x.1

/-- Every pending wait and arrival of a partition is cancelled (R168); `logged` says whether the cancelled waits enter
the log and the count of R355. An entry whose drain-path wait is cancelled stays in progress, waiting, until STOP or a restore
(log 24). -/
def Act.cancelWaits (f : Nat) (logged : Bool) : Act :=
  .read fun b =>
    let os := objsOf b f
    let ws := pendingWaits b f
    Act.all [
      .when logged (.each ws fun x => .logCancelled x.1 x.2),
      .each os fun o => Act.all [
        .setWaiters o (fun s => s.cancelled (!logged)),
        .when (objType b o == 2) (.setFld (.synObjState o) 14 0 0)],
      .units (fun u => { u with syncNet := u.syncNet.filter fun m =>
        !(m.isPending fun o => ownerOfPlot b (o / 512) == some f) }),
      .when logged (.onPart f fun p => { p with cancelled := satAdd p.cancelled ws.length 16 })]

/-! ## Partitions stopping -/

/-- The sequencers and contexts of a partition that stand between entries or in a wait stop where they are; an entry
in progress goes on to its step boundary, one whose wait is satisfied to its own, MOVEs in flight to their completion
(R168). -/
def Act.stopAgents (f : Nat) : Act :=
  .read fun b => .each (coresOf b f) fun c => Act.all [
    .when ((Machine.core b c).inv.isNone && (seqState b c == seqRunning || seqState b c == seqWaits) &&
        !released b (.seq c))
      (Act.all [.setSeqState c seqStopped, .onCore c fun s => { s with seqWaiting := false }]),
    .each (List.range 4) fun x => .when (ctxActive b c x && !released b (.ctx c x)) (Act.all [.setCtxWaiting c x false,
      .onCtx c x fun s => { s with waiting := false }])]

/-- A PAUSE in progress ends with a status (12_host.md R358). -/
def Act.endPause (f status detail : Nat) : Act :=
  .read fun b => Act.all [
    (match (Machine.part b f).pausing with
     | some (.command g m) => .respond g m status detail []
     | _ => .nop),
    .onPart f fun p => { p with pausing := none, halted := none, pauseBeats := 0 }]

/-- A partition stops on a fault: its waits are cancelled and logged, its agents stop, it becomes FAULTED (R168, R181). -/
def Act.faultStop (f : Nat) : Act :=
  .whenB (fun b => (Machine.part b f).st == .running) (Act.all [
    .cancelWaits f true, .stopAgents f, .setPState f .faulted, .endPause f stConflict 4])

/-- One fault of an agent at a position of its schedule: recorded, logged, and the partition stops. Causes: 1 shape
overrun, 2 schedule overrun, 3 address, 4 translation, 5 escalation; `code` is the event's, `syn` its syndrome. -/
def Act.agentFaultAt (a : Agent) (pos cause code syn : Nat) : Act :=
  .read fun b => Act.all [
    .unitFault a pos cause,
    .when (cause == 2) (.count .synOverruns 1),
    .log { agentRecordAt b a pos with detector := code, disp := 9, cause := cause, syndrome := syn },
    .opt (a.func b) fun f => .faultStop f]

/-- A fault of an agent where it stands. -/
def Act.agentFault (a : Agent) (cause code syn : Nat) : Act := .read fun b => .agentFaultAt a (posOf b a) cause code syn

/-- A schedule-overrun fault on object or port o (R167). -/
def Act.overrun (a : Agent) (o : Nat) : Act := .agentFault a 2 0x20 o

/-- An address fault (R181). -/
def Act.addrFault (a : Agent) (value : Nat) : Act := .agentFault a 3 0x21 (value % 2 ^ 64 * 65536)

/-- The same faults of an entry or instruction that its agent has left. -/
def Act.overrunAt (a : Agent) (pos o : Nat) : Act := .agentFaultAt a pos 2 0x20 o
def Act.addrFaultAt (a : Agent) (pos value : Nat) : Act := .agentFaultAt a pos 3 0x21 (value % 2 ^ 64 * 65536)

/-! ## The end of a run (12_host.md R359) -/

/-- Every sequencer has executed END and every context is free. -/
def runOver (b : Block) (f : Nat) : Bool :=
  (coresOf b f).all fun c => (Machine.core b c).ended && (List.range 4).all fun x => !ctxActive b c x

/-- The partition becomes LOADED when its run is over. -/
def Act.checkRunEnd (f : Nat) : Act :=
  .whenB (fun b => (Machine.part b f).st == .running && (Machine.part b f).started && runOver b f) (Act.all [
    .setPState f .loaded, .endPause f stConflict 3])

end Sys2Proof.Machine
end

