-- ==== Sys2Proof/Machine/Routes.lean ====
section
/-! DEFINITION. The mesh: routes of flows (01_module.md R16, R17, R25-R29, 06_streams.md R174), who owns a link phase
(12_host.md R345), and when a placement variant is valid (09_schedules.md R254). -/

namespace Sys2Proof.Machine

/-- Module coordinates of a core (R17). -/
def coreXY (c : Nat) : Nat × Nat :=
  (c / 3200 % 2 * 80 + c % 80, c / 3200 / 2 * 40 + c % 3200 / 80)

/-- The core at module coordinates. -/
def coreAtXY (x y : Nat) : Nat := (y / 40 * 2 + x / 80) * 3200 + y % 40 * 80 + x % 80

/-- One hop: the link by the id of R330, whether it is used east- or southward (or towards the edge), and the cycles
from injection to occupation. -/
structure Hop where
  link : Nat
  fwd : Bool
  cyc : Nat

/-- Numbers from a towards b, without b. -/
def towards (a b : Nat) : List Nat :=
  if a ≤ b then (List.range (b - a)).map fun i => a + i else (List.range (a - b)).map fun i => a - i

/-- The link east of (x, y) is a bridge where x + 1 is a die boundary; the link south likewise (R16, R25). -/
def bridgeAt (n size : Nat) : Bool := (n + 1) % size == 0

/-- The mesh steps from (x0, y0) to (x1, y1): link, direction, bridge (R25: X first, then Y). -/
def meshSteps (x0 y0 x1 y1 : Nat) : List (Nat × Bool × Bool) :=
  let xs := (towards x0 x1).map fun x =>
    if x0 ≤ x1 then (coreAtXY x y0 * 4, true, bridgeAt x 80) else (coreAtXY (x - 1) y0 * 4, false, bridgeAt (x - 1) 80)
  let ys := (towards y0 y1).map fun y =>
    if y0 ≤ y1 then (coreAtXY x1 y * 4 + 1, true, bridgeAt y 40)
    else (coreAtXY x1 (y - 1) * 4 + 1, false, bridgeAt (y - 1) 40)
  xs ++ ys

/-- Steps numbered: hop h occupies its link h cycles after injection and 8 more per bridge crossed before (R174). -/
def numberHops : Nat → List (Nat × Bool × Bool) → List Hop
  | _, [] => []
  | n, (l, d, br) :: r => { link := l, fwd := d, cyc := n } :: numberHops (n + 1 + (if br then 8 else 0)) r

/-- An end of a flow: its router's coordinates, its attachment link, and its controller with the port, if it has one
(R28, R29, 09_schedules.md R249). -/
structure FlowEnd where
  x : Nat
  y : Nat
  attach : Option Nat
  ctl : Option Nat
  port : Option Nat

/-- The number a controller port goes by among the links: beyond every id of R330. -/
def portLink (ctl port : Nat) : Nat := 102400 + ctl * 4 + port

/-- The router that carries port `port` of a controller (R29). -/
def portRouter (ctl port : Nat) : Nat := ctl / 2 * 3200 + (19 + ctl % 2) * 80 + (4 + 40 * (ctl % 2) + 10 * port)

/-- The end that a flow record's kind and word name, given the core its logical core runs on. -/
def flowEnd (kind word : Nat) (phys : Nat → Option Nat) : Option FlowEnd :=
  (phys (word % 2 ^ 15)).map fun c =>
    let xy := coreXY c
    if kind = 0 then { x := xy.1, y := xy.2, attach := none, ctl := none, port := none }
    else if kind = 1 then
      if bitOf word 16 then { x := 159, y := xy.2, attach := some (coreAtXY 159 xy.2 * 4 + 3), ctl := none, port := none }
      else { x := 0, y := xy.2, attach := some (coreAtXY 0 xy.2 * 4 + 2), ctl := none, port := none }
    else
      let k := c / 3200 * 2 + bitsOf word 16 16
      let q := bitsOf word 18 17
      let r := coreXY (portRouter k q)
      { x := r.1, y := r.2, attach := none, ctl := some k, port := some (portLink k q) }

/-- The hops of a flow between two ends. A controller port is no mesh link, so it shifts no hop: a flow takes the port of
its source in its injection phase, and the port of its destination in the cycle after its last hop (R345, log 56). -/
def hopsBetween (s d : FlowEnd) : List Hop :=
  let pre := s.attach.toList.map fun l => (l, false, false)
  let post := (d.attach.toList ++ d.port.toList).map fun l => (l, true, false)
  (s.port.toList.map fun l => { link := l, fwd := false, cyc := 0 }) ++
    numberHops 0 (pre ++ meshSteps s.x s.y d.x d.y ++ post)

/-- The routers a flow passes. -/
def routersBetween (s d : FlowEnd) : List Nat :=
  ((towards s.x d.x).map fun x => coreAtXY x s.y) ++ ((towards s.y d.y).map fun y => coreAtXY d.x y) ++
    [coreAtXY d.x d.y]

/-- The physical core of a logical core under variant v of an image in a set of plots. -/
def physOf (im : Image) (v : Nat) (pl : List Nat) (l : Nat) : Option Nat :=
  (((im.place[v]?).bind fun p => p[l]?)).bind fun q => coreOfRel pl q

/-- The flow record's ends under a variant. -/
def flowEnds (im : Image) (v : Nat) (pl : List Nat) (fl : Flow) : Option (FlowEnd × FlowEnd) :=
  match flowEnd fl.srcKind fl.src (physOf im v pl), flowEnd fl.dstKind fl.dst (physOf im v pl) with
  | some s, some d => some (s, d)
  | _, _ => none

/-- Claims of a flow: link, direction, cycle of the beat (R174). -/
def claims (im : Image) (v : Nat) (pl : List Nat) (fl : Flow) : List (Nat × Bool × Nat) :=
  match flowEnds im v pl fl with
  | none => []
  | some (s, d) =>
    let ph := (List.range 256).filter fun t => fl.phases.getLsbD t
    (hopsBetween s d).flatMap fun h => ph.map fun t => (h.link, h.fwd, (t + h.cyc) % 256)

/-- The plots of the routers a link joins (R330, R345). -/
def linkPlots (l : Nat) : List Nat :=
  let xy := coreXY (l / 4)
  if portLink 0 0 ≤ l then [plotOf (portRouter ((l - portLink 0 0) / 4) (l % 4))]
  else match l % 4 with
  | 0 => [plotOf (l / 4), plotOf (coreAtXY (xy.1 + 1) xy.2)]
  | 1 => [plotOf (l / 4), plotOf (coreAtXY xy.1 (xy.2 + 1))]
  | _ => [plotOf (l / 4)]

/-- The partition that a link lies inside (R345). -/
def linkOwner (b : Block) (l : Nat) : Option Nat :=
  (owners b).find? fun f => (linkPlots l).all fun p => (part b f).plots.getLsbD p

/-- The owner of phase t of a link: of every phase the partition that the link lies inside, of a link inside none the function
with those 16 phases (R345). -/
def phaseOwner (b : Block) (l t : Nat) : Nat := (linkOwner b l).getD (1 + t / 16)

/-- No two equal elements. -/
def allDistinct {α : Type} [DecidableEq α] : List α → Bool
  | [] => true
  | x :: r => !r.contains x && allDistinct r

/-- No claim lies in a phase that another function owns, controller ports included, and no phase of a mesh link is claimed
twice (R174, R345). -/
def flowsFit (b : Block) (f : Nat) (im : Image) (v : Nat) (pl : List Nat) : Bool :=
  let cs := (((im.flows[v]?).getD []).map (claims im v pl)).flatten
  cs.all (fun x => phaseOwner b x.1 x.2.2 == f) && allDistinct (cs.filter fun x => decide (x.1 < portLink 0 0))

/-- Controllers whose number an end of a flow names. -/
def endCtls (e : FlowEnd × FlowEnd) : List Nat := e.1.ctl.toList ++ e.2.ctl.toList

/-- A flow uses no fenced unit on its route (R254): link, router, controller. -/
def flowClear (b : Block) (im : Image) (v : Nat) (pl : List Nat) (fl : Flow) : Bool :=
  match flowEnds im v pl fl with
  | none => false
  | some (s, d) =>
    (hopsBetween s d).all (fun h => !isFenced b 5 h.link) &&
    (routersBetween s d).all (fun c => !isFenced b 4 c) &&
    (endCtls (s, d)).all (fun k => !isFenced b 7 k)

/-- The arrays an entry names (R125). -/
def arraysOf (e : BitVec 512) : Nat := ef e 13 12

/-- A logical core may run on core c: the core is not fenced, and neither is any array its entries name (R98). -/
def coreClear (b : Block) (lc : LCore) (c : Nat) : Bool :=
  !flag b (.coreStatus c) 1 &&
  !(flag b (.coreStatus c) 2 && lc.steps.any fun e => bitOf (arraysOf e) 0) &&
  !(flag b (.coreStatus c) 3 && lc.steps.any fun e => bitOf (arraysOf e) 1)

/-- Variant v places no logical core on a fenced unit and routes no flow through one (R254). -/
def variantClear (b : Block) (im : Image) (v : Nat) (pl : List Nat) : Bool :=
  ((List.range im.cores.length).all fun l =>
    match im.cores[l]?, physOf im v pl l with
    | some lc, some c => coreClear b lc c
    | _, _ => false) &&
  ((im.flows[v]?).getD []).all (flowClear b im v pl)

/-- Variant v is valid in the partition of f (R254). -/
def variantValid (b : Block) (f : Nat) (im : Image) (v : Nat) (pl : List Nat) : Bool :=
  variantClear b im v pl && flowsFit b f im v pl

/-- The lowest-numbered valid variant (R254). -/
def validVariant (b : Block) (f : Nat) (im : Image) : Option Nat :=
  (List.range im.nvar).find? fun v => variantValid b f im v (plotList (part b f).plots)

end Sys2Proof.Machine
end

