-- ==== Sys2Proof/Machine/Sequencer.lean ====
section
/-! DEFINITION. Rings and signals as agents issue them (06_streams.md R163-R173), and how the sequencer starts,
completes and leaves an entry (05_step_tables.md R143-R146, R155). -/

namespace Sys2Proof.Machine

/-! ## Rings (06_streams.md R170-R172) -/

def ringBase (b : Block) (c n : Nat) : Nat := fld b (.strRingBase c n) 16 0 * 16
def ringSlots (b : Block) (c n : Nat) : Nat := fld b (.strRingGeom c n) 12 8
def ringSlotSize (b : Block) (c n : Nat) : Nat := (fld b (.strRingGeom c n) 23 16 + 1) * 256
def ringFree (b : Block) (c n : Nat) : Nat := fld b (.strRingObj c n) 30 16
def ringFull (b : Block) (c n : Nat) : Nat := fld b (.strRingObj c n) 14 0
def ringTail (b : Block) (c n : Nat) : Nat := fld b (.strRingPtr c n) 31 16
def ringHead (b : Block) (c n : Nat) : Nat := fld b (.strRingPtr c n) 15 0

/-- Byte offset in scratch of slot s of a ring. -/
def slotAt (b : Block) (c n s : Nat) : Nat := ringBase b c n + s % ringSlots b c n * ringSlotSize b c n

/-- The MOVE writes ring r of core c. -/
def Move.intoRing (m : Move) (c r : Nat) : Bool :=
  match m.dst with
  | .ring c' r' _ => c' == c && r' == r
  | _ => false

/-- Publishing MOVEs into ring r of core t that the same context issued before MOVE i of core c and that are not
complete: the context's MOVEs never reorder (R179), so MOVE i fills the slot that many after TAIL (R171). -/
def earlierPubs (b : Block) (c i : Nat) (m : Move) (t r : Nat) : Nat :=
  (((core b c).moves.take i).filter fun o => o.ctx == m.ctx && o.pub && o.intoRing t r).length

/-- Who an agent is for R165: a context counts as the program it runs (log 19). -/
def agentId (b : Block) (a : Agent) : Nat × Nat × Nat :=
  match a with
  | .seq c => (0, c, 0)
  | .drain c i => (1, c, i)
  | .ctx c x => (2, c, ctxProg b c x)
  | .bind p ch => (3, p, ch)
  | .dir f => (4, f, 0)
  | .port p => (5, p, 0)

/-- The ring's one-producer, one-consumer rule is broken (R165). -/
def ringBroken (s : CoreState) (n : Nat) : Bool :=
  let two (l : List (Nat × Nat × Nat × Nat)) : Bool :=
    match l.filter fun x => x.1 == n with
    | [] => false
    | x :: r => r.any fun y => y.2 != x.2
  two s.ringPub || two s.ringRel

/-- A broken ring: its counters and slots are free values (R165, log 9). -/
def Act.breakRing (c n : Nat) : Act :=
  .read fun b => .when (ringBroken (Machine.core b c) n) (Act.all [
    .bump, .bump,
    .setReg (.strRingPtr c n)
      ((Config.brokenRing b.freeCtr).toNat * 65536 + (Config.brokenRing (b.freeCtr + 1)).toNat),
    .setScr c (ringBase b c n)
      ((List.range (ringSlots b c n * ringSlotSize b c n)).map fun i => Config.abandonedByte b.freeCtr i)])

/-- An agent goes on record for a ring: as one that publishes to it, or that releases it. -/
def CoreState.withUser (s : CoreState) (n : Nat) (id : Nat × Nat × Nat) (pub : Bool) : CoreState :=
  if pub then { s with ringPub := if s.ringPub.contains (n, id) then s.ringPub else s.ringPub ++ [(n, id)] }
  else { s with ringRel := if s.ringRel.contains (n, id) then s.ringRel else s.ringRel ++ [(n, id)] }

/-- An agent publishes to, or releases, a ring of core c. -/
def Act.useRing (c n : Nat) (a : Agent) (pub : Bool) : Act :=
  .read fun b => Act.all [.onCore c (fun s => s.withUser n (agentId b a) pub), .breakRing c n]

/-! ## Credits of received slots (10_links.md R286, R293) -/

/-- A control message is issued on a port in a beat (10_links.md R277). -/
def Act.ctlMsgAt (p mtype id arg0 arg1 q : Nat) : Act :=
  .onPort p fun s => { s with msgs := s.msgs ++ [{ mtype := mtype, id := id, arg0 := arg0, arg1 := arg1, beat := q }] }

/-- A control message is issued on a port now. -/
def Act.ctlMsg (p mtype id arg0 arg1 : Nat) : Act := .read fun b => .ctlMsgAt p mtype id arg0 arg1 (beat b)

/-- A CREDIT of n slots: combined with the channel's CREDIT of the same beat (R286). -/
def addCredits (l : List CtlMsg) (ch n q : Nat) : List CtlMsg :=
  if l.any fun x => x.mtype == 6 && x.id == ch && x.beat == q then
    l.map fun x => if x.mtype = 6 ∧ x.id = ch ∧ x.beat = q then { x with arg0 := x.arg0 + n } else x
  else l ++ [{ mtype := 6, id := ch, arg0 := n, arg1 := 0, beat := q }]

/-- CREDITs go out for the slots that are freed and whose epochs have cleared, those of one cycle by ascending channel
(R277, R286, R293). -/
def Act.issueCredits (p : Nat) : Act :=
  .read fun b => .onPort p fun s =>
    let ok (h : HeldSlot) : Bool := h.freed && h.epochs.isEmpty
    { s with held := s.held.filter (fun h => !ok h)
             msgs := ((s.held.filter ok).foldl (fun l h => smPut l h.channel (smGetD l h.channel 0 + 1)) []).foldl
               (fun l x => addCredits l x.1 x.2 (beat b)) s.msgs }

/-- The n oldest slots of a channel that are still held are freed. -/
def freeOldest : Nat → Nat → List HeldSlot → List HeldSlot
  | 0, _, l => l
  | _, _, [] => []
  | n + 1, ch, h :: r =>
    if h.channel = ch ∧ !h.freed then { h with freed := true } :: freeOldest n ch r else h :: freeOldest (n + 1) ch r

/-- The receive records of the image of f on port p. -/
def rxRecs (b : Block) (f p : Nat) : List RxRec :=
  match (Machine.part b f).image with
  | none => []
  | some im => (im.plan.filter fun x => x.port == p).flatMap fun x => x.rx

/-- HEAD of ring r of core c has advanced by n: every channel bound to it frees its oldest slots (R286). -/
def Act.freeSlots (c f r n : Nat) : Act :=
  .read fun b => .each (List.range 16) fun p =>
    let chs := (rxRecs b f p).filter fun x => x.ring == r && coreOfLogical b f x.lcore == some c
    .when (!chs.isEmpty && !(Machine.port b p).held.isEmpty) (Act.all [
      .onPort p (fun s => { s with held := chs.foldl (fun l x => freeOldest n x.channel l) s.held }),
      .issueCredits p])

/-- The rings of core c whose FREE object is relative object o. -/
def freedRings (b : Block) (c o : Nat) : List Nat :=
  (List.range 16).filter fun r => ringSlots b c r != 0 && ringFree b c r == o

/-- Agent a releases n slots of ring r of core c: HEAD advances (R171). -/
def Act.releaseRing (a : Agent) (c f n r : Nat) : Act :=
  .read fun b => Act.all [
    .setFld (.strRingPtr c r) 15 0 ((ringHead b c r + n) % 65536), .useRing c r a false, .freeSlots c f r n]

/-- A signal of relative object o by n releases n slots of every ring of core c whose FREE object it is (R171). -/
def Act.releaseSlots (a : Agent) (c f o n : Nat) : Act :=
  .read fun b => .each (freedRings b c o) (.releaseRing a c f n)

/-- The message of a signal of relative object o by n is issued (R158). -/
def Act.issueSignal (a : Agent) (f o n : Nat) : Act :=
  .read fun b => let pos := posOf b a
    match liveObj b f o with
    | some p => .issue (.sig p n a pos)
    | none => .addrFaultAt a pos o

/-- An agent of partition f on core c signals relative object o by n (R158): the slots that it releases are freed
(R171), and the signal is issued. -/
def Act.signal (a : Agent) (c f o n : Nat) : Act := (Act.releaseSlots a c f o n).seq (.issueSignal a f o n)

/-- A publishing write into ring n of core c completes (R171): TAIL advances and FULL is signalled by 1. -/
def Act.publish (a : Agent) (pos c f n : Nat) : Act :=
  .read fun b => Act.all [
    .setFld (.strRingPtr c n) 31 16 ((ringTail b c n + 1) % 65536), .useRing c n a true,
    (match liveObj b f (ringFull b c n) with
     | some p => .issue (.sig p 1 a pos)
     | none => .addrFaultAt a pos (ringFull b c n))]

/-- The bound a wait on object o gets when it is issued: B and the beat it is issued in (R166). -/
def waitLeft (b : Block) (o : Nat) : Option Nat := some (objBound b o + 1)

/-- An agent issues WAIT n on relative object o of partition f. -/
def Act.issueWait (a : Agent) (f o n : Nat) : Act :=
  .read fun b =>
    match liveObj b f o with
    | some p => .issue (.wait p { agent := a, n := n, left := waitLeft b p })
    | none => .addrFault a o

/-- An agent issues an arrival at relative object o of partition f. -/
def Act.issueArrival (a : Agent) (f o : Nat) : Act :=
  .read fun b =>
    match liveObj b f o with
    | some p => .issue (.arr p { agent := a, n := 1, left := waitLeft b p })
    | none => .addrFault a o

/-! ## The sequencer -/

/-- The entry the sequencer of core c may execute now: its partition runs, it stands at a step boundary, and nothing
is in progress. -/
def readyEntry (b : Block) (c : Nat) : Option (Nat × BitVec 512) :=
  match ownerOfCore b c with
  | none => none
  | some f =>
    if agentMayGo b f && seqState b c == seqRunning && (core b c).inv.isNone && !(core b c).ended
    then (entryAt b c).map fun e => (f, e) else none

/-- The entry ready to execute, when it has the opcode. -/
def readyOp (b : Block) (c op : Nat) : Option (Nat × BitVec 512) :=
  match readyEntry b c with
  | some (f, e) => if opcodeOf e = op then some (f, e) else none
  | none => none

/-- The entry ready to execute, when it has the opcode and SUBOP. -/
def readySub (b : Block) (c op sub : Nat) : Option (Nat × BitVec 512) :=
  match readyOp b c op with
  | some (f, e) => if subopOf e = sub then some (f, e) else none
  | none => none

/-- SEQ_LOOP of an open loop, by the loops around it: there are four levels (R144). -/
def loopWord (b : Block) (c n : Nat) : Nat := if n < 4 then rd b (.seqLoop c n) else 0

/-- The repetition in progress is a null repetition (R145). -/
def nullRepetition (b : Block) (c : Nat) : Bool :=
  let fr := (core b c).loops
  (List.range fr.length).any fun i =>
    match fr[i]? with
    | none => false
    | some l =>
      let n := fr.length - 1 - i
      l.keep && decide (bitsOf (loopWord b c n) 31 16 ≤ bitsOf (loopWord b c n) 15 0)

/-- Where execution goes after an entry, given the open loops, innermost first (R144, R145): the loops still open, the
next entry, and the loop registers' new words by level. -/
def loopNext (b : Block) (c : Nat) : List LoopFrame → Nat → List LoopFrame × Nat × List (Nat × Nat)
  | [], nx => ([], nx, [])
  | fr :: r, nx =>
    if nx ≠ fr.entry + fr.len + 1 then (fr :: r, nx, [])
    else
      let n := r.length
      let w := loopWord b c n
      let total := if fr.keep then fr.count else bitsOf w 31 16
      if bitsOf w 15 0 + 1 < total then (fr :: r, fr.entry + 1, [(n, w + 1)])
      else
        let x := loopNext b c r nx
        (x.1, x.2.1, (n, 0) :: x.2.2)

/-- The loop registers of the four levels take new words (R144). -/
def Act.setLoops (c : Nat) (l : List (Nat × Nat)) : Act :=
  .each l fun p => .when (decide (p.1 < 4)) (.setReg (.seqLoop c p.1) p.2)

/-- The sequencer goes to the entry after `nx − 1`, closing and repeating loops; it stops there when its partition no
longer lets it go on (R168, 12_host.md R358). -/
def Act.goTo (c nx : Nat) : Act :=
  .read fun b =>
    let x := loopNext b c (Machine.core b c).loops nx
    Act.all [
      .onCore c (fun s => { s with loops := x.1, inv := none, seqWaiting := false }),
      .setLoops c x.2.2,
      .setSeqEntry c x.2.1,
      .setFld (.coreStatus c) 0 0 0,
      .when (seqState b c != seqFaulted) (.setSeqState c
        (match ownerOfCore b c with
         | some f => if agentMayGo b f then seqRunning else seqStopped
         | none => seqStopped))]

/-- The 32 bytes of a completion record (R155). -/
def creBytes (entry op status : Nat) (flags : BitVec 4) (invoc skipped : Nat) (k : Counters) : Bytes :=
  leBytes entry 2 ++ leBytes op 1 ++ leBytes status 1 ++ leBytes flags.toNat 1 ++ leBytes 0 3 ++ leBytes invoc 4 ++
  leBytes skipped 4 ++ leBytes k.sat 4 ++ leBytes k.flush 4 ++ leBytes k.nan 4 ++ leBytes k.ovf 4

/-- The record goes to scratch, where CREC names a granule, and to SEQ_CREC. -/
def Act.record (c : Nat) (e : BitVec 512) (bs : Bytes) : Act :=
  Act.all [
    .when (ef e 63 48 != 0xFFFF) (.setScr c (ef e 63 48 * 32) bs),
    .each (List.range 8) fun w => .setReg (.seqCrec c w) (leAt bs (4 * w) 4)]

/-- SIGOBJ is signalled where SIG_EN is set (R125, R155): the slots that it releases, and its message. -/
def Act.sigRelease (c f : Nat) (e : BitVec 512) : Act :=
  .when (bitOf e.toNat 47) (.releaseSlots (.seq c) c f (ef e 46 32) 1)
def Act.sigObj (c f : Nat) (e : BitVec 512) : Act := .when (bitOf e.toNat 47) (.issueSignal (.seq c) f (ef e 46 32) 1)

/-- A record with STATUS 0x00 or 0x01, SEQ_INVOC, and the signal (R155). -/
def Act.finish (c f : Nat) (e : BitVec 512) (status : Nat) (flags : BitVec 4) (skipped : Nat) (k : Counters) : Act :=
  .read fun b => Act.all [
    .sigRelease c f e,
    .record c e (creBytes (seqEntry b c) (opcodeOf e) status flags (rd b (.seqInvoc c) % 2 ^ 32) skipped k),
    .setReg (.seqInvoc c) ((rd b (.seqInvoc c) + 1) % 2 ^ 64),
    .sigObj c f e]

/-- A control entry completes: record with all counters 0, then the next entry. -/
def Act.finishControl (c f : Nat) (e : BitVec 512) : Act :=
  .read fun b => Act.all [.finish c f e 0 0 0 Counters.zero, .goTo c (seqEntry b c + 1)]

/-- The sequencer faults in its entry (04_core.md R123): no record of this call; the partition stops. -/
def Act.seqFault (c cause code syn : Nat) : Act :=
  Act.all [.onCore c (fun s => { s with inv := none, seqWaiting := false }), .setFld (.coreStatus c) 0 0 0,
    .agentFault (.seq c) cause code syn]

end Sys2Proof.Machine
end

