-- ==== Sys2Proof/Machine/Integrity.lean ====
section
/-! DEFINITION. Detections, fencing, taint and replays (11_integrity.md R318-R331, R424) as one set of operations that
every command with a check uses. -/

namespace Sys2Proof.Machine

/-! ## Units -/

/-- The core a unit belongs to (R330). -/
def coreOfUnit (cls unit : Nat) : Option Nat :=
  match cls with
  | 1 => some (unit / 2)
  | 2 => some unit
  | 3 => some (unit / 40)
  | 4 => some unit
  | 5 => some (unit / 4)
  | _ => none

/-- The unit exists (R330, 01_module.md R15). -/
def unitExists (cls unit : Nat) : Bool :=
  match cls with
  | 1 => decide (unit < 2 * Config.numCores)
  | 2 => decide (unit < Config.numCores)
  | 3 => decide (unit < 40 * Config.numCores)
  | 4 => decide (unit < Config.numCores)
  | 5 =>
    let xy := coreXY (unit / 4)
    decide (unit < 4 * Config.numCores) &&
      (match unit % 4 with
       | 0 => decide (xy.1 < 159)
       | 1 => decide (xy.2 < 159)
       | 2 => decide (xy.1 = 0)
       | _ => decide (xy.1 = 159))
  | 6 => decide (unit < Config.numPlots)
  | 7 => decide (unit < 16)
  | 8 => decide (unit < 64)
  | 9 => decide (unit < 4)
  | _ => false

/-- The whole core is fenced by a list of history entries (R330). -/
def wholeFenced (hs : List Hist) (c : Nat) : Bool :=
  hs.any fun h => h.fenced &&
    ((h.uclass == 2 && h.unit == c) || (h.uclass == 3 && h.unit / 40 == c) || (h.uclass == 4 && h.unit == c) ||
      (h.uclass == 6 && h.unit == plotOf c))

/-- A plot contains a fenced core. -/
def plotFenced (hs : List Hist) (p : Nat) : Bool :=
  hs.any fun h => h.fenced &&
    ((h.uclass == 2 && plotOf h.unit == p) || (h.uclass == 3 && plotOf (h.unit / 40) == p) ||
      (h.uclass == 4 && plotOf h.unit == p) || (h.uclass == 6 && h.unit == p))

/-- The cores whose whole fencing a unit decides. -/
def coresUnder (cls unit : Nat) : List Nat :=
  match cls with
  | 2 => [unit]
  | 3 => [unit / 40]
  | 4 => [unit]
  | 6 => physCores [unit] (List.range 400)
  | _ => []

/-- The registers that show a unit's fencing follow the history: CORE_ST bits, SRL_FENCED_PLOTS, LNK_LANES_FENCED,
LPD_STATE and CHK_FENCED (R330, R331, 13_memory.md). -/
def Act.showFence (cls unit : Nat) : Act :=
  .read fun b =>
    let hs := b.campion.hist
    Act.all [
      .when (cls == 1) (.setFld (.coreStatus (unit / 2)) (2 + unit % 2) (2 + unit % 2) (isFenced b 1 unit).toNat),
      .each (coresUnder cls unit) (fun c => .setFld (.coreStatus c) 1 1 (wholeFenced hs c).toNat),
      .each ((coresUnder cls unit).take 1) (fun c =>
        .setFld .srlFencedPlots (plotOf c) (plotOf c) (plotFenced hs (plotOf c)).toNat),
      .when (cls == 8) (.setFld (.lnkStatus (unit / 4)) (24 + unit % 4) (24 + unit % 4) (isFenced b 8 unit).toNat),
      .when (cls == 7) (.setFld (.lpdStatus unit) 31 28
        (if isFenced b 7 unit then 4 else if fld b (.lpdStatus unit) 27 20 = 0 then 0 else 2)),
      .setReg .chkFenced (hs.filter fun h => h.fenced).length]

/-! ## Checkpoints that a rollback may use (R325-R327) -/

/-- Every epoch the generation depends on has cleared (R327). -/
def Ckpt.valid (k : Ckpt) : Bool := k.pendingEpochs.isEmpty

/-- The latest valid generation whose start a test admits. -/
def latestCkpt (p : Partition) (ok : Nat → Bool) : Option Ckpt :=
  (p.ckpts.filter fun k => k.valid && ok k.began).foldl (fun (m : Option Ckpt) k =>
    match m with
    | none => some k
    | some j => if j.gen < k.gen then some k else m) none

/-- A chunk of the partition lies on a fenced controller (13_memory.md R376). -/
def memoryLost (b : Block) (p : Partition) : Bool := p.chunks.any fun x => isFenced b 7 x.1

/-- A restore of a generation that began at an admitted beat is possible. -/
def canRestore (b : Block) (f : Nat) (ok : Nat → Bool) : Bool :=
  let p := part b f
  !memoryLost b p && (latestCkpt p ok).isSome &&
    (match p.image with
     | none => false
     | some im => (validVariant b f im).isSome)

/-! ## Stops of a partition -/

/-- The stop of R181 for a rule that names its own outcome (R325, R326): waits cancelled and logged, agents stopped,
the state left to that rule. -/
def Act.quench (f : Nat) : Act :=
  .whenB (fun b => (Machine.part b f).st == .running || (Machine.part b f).st == .paused) (Act.all [
    .cancelWaits f true, .stopAgents f, .endPause f stConflict 4])

/-- A partition has stopped sending: its taints reach no later epoch (R324). -/
def Act.closeTaints (f : Nat) : Act :=
  .read fun b => .onPart f fun p => { p with taints := p.taints.map fun t => (t.1, min t.2 (beat b)) }

/-- A partition whose memory left the module (13_memory.md R376), or whose arbitration is undecided (R322). -/
def Act.ruin (f : Nat) : Act :=
  Act.all [.quench f, .closeTaints f,
    .onPart f (fun p => { p with taint := none, poisonedBy := none, replace := false }),
    .setPState f .faulted]

/-- An uncontained detection taints a partition's data from beat s on, and its rollback is due (R323-R325). -/
def Act.taint (f s : Nat) : Act :=
  .whenB (fun b => (Machine.part b f).image.isSome) (Act.all [
    .quench f,
    .onPart f fun p => { p with
      taint := some (match p.taint with | some t => min t s | none => s)
      taints := p.taints ++ [(s, noBeat)] }])

/-! ## Fencing (R330, R331) -/

/-- Partitions whose loaded variant no longer fits pause, and their re-placement is due (R331, 09_schedules.md R255);
those with chunks on a fenced controller become FAULTED. -/
def Act.affected (cls unit : Nat) : Act :=
  .read fun b => .each (owners b) fun f =>
    let p := Machine.part b f
    if cls = 7 ∧ p.chunks.any (fun x => x.1 == unit) then .ruin f
    else match p.image with
      | none => .nop
      | some im =>
        .when (!variantClear b im p.variant (plotList p.plots)) (.onPart f fun p =>
          { p with replace := true
                   pausing := if p.st == .running && p.pausing.isNone && p.taint.isNone && p.poisonedBy.isNone
                     then some .fence else p.pausing })

/-- A unit is fenced with a disposition (R331): flash first, then registers, then partitions. -/
def Act.fence (cls unit disp : Nat) : Act :=
  .whenB (fun b => !isFenced b cls unit) (Act.all [
    .read (fun b =>
      let h := (histOf b cls unit).getD
        { uclass := cls, unit := unit, fenced := false, kat := false, disp := 0, total := 0,
          session := rd b .chkSession, beatA := noBeat, beatB := noBeat, ueA := noBeat, ueB := noBeat }
      .campion fun k => k.putHist { h with fenced := true, kat := h.kat || disp == 5, disp := disp }),
    .showFence cls unit,
    .event 0 3,
    .affected cls unit])

/-! ## Detections without a replay (R310, R323-R325, R424) -/

/-- Codes that taint nothing (R323). -/
def harmless (code : Nat) : Bool := code == 0x07 || code == 0x09 || code == 0x0D

/-- The core registers of a detection: CHK_DETECTIONS, CHK_ST_LAST_DET, and CHK_ECC_CORR for a corrected error. -/
def Act.coreDetection (c code : Nat) : Act :=
  Act.all [.count (.chkDetections c) 1, .setFld (.chkStatus c) 15 8 code,
    .when (code == 0x07) (.count (.chkEccCorr c) 1)]

/-- A detection that no replay follows: `t` is the record it starts from, s its taint start. -/
def Act.detection (t : Tansy) (d : Det) (f : Option Nat) (s : Nat) : Act :=
  .read fun b =>
    let perm := (permanentNow b d.uclass d.uid d.code || d.code == 0x0B) && !isFenced b d.uclass d.uid
    let rolls := match f with
      | some g => (Machine.part b g).image.isSome && canRestore b g (fun x => decide (x ≤ s))
      | none => false
    let disp :=
      if perm then (if d.code = 0x0B then 5 else 4)
      else if harmless d.code then 0 else if rolls then 6 else 9
    Act.all [
      .opt (coreOfUnit d.uclass d.uid) (fun c => .coreDetection c d.code),
      .when (!harmless d.code) (Act.all [.count .chkUncontained 1, .opt f fun g => .taint g s]),
      .detect d.uclass d.uid d.code,
      .read (fun b => .log { t with uclass := d.uclass, unit := d.uid, detector := d.code, disp := disp,
                                    hist := histTotal b d.uclass d.uid, syndrome := d.syndrome.toNat }),
      .when perm (.fence d.uclass d.uid disp)]

/-- An array drops its work: idle, its shadow set free; an armed injection stays armed. -/
def Act.idleArr (c a : Nat) : Act :=
  Act.all [.onArr c a (fun s => { ArrState.reset with armed := s.armed }), .setFld (.arrStatus c a) 7 6 0,
    .setFld (.arrStatus c a) 4 4 1]

/-! ## Replays (R318-R322) -/

/-- CHK_ST_REPLAY of a core. -/
def Act.showReplay (c n : Nat) : Act := .setFld (.chkStatus c) 1 0 n

/-- Replay state of datapath dp of a core: 0 A0, 1 A1, 2 the vector unit. -/
def replayOf (s : CoreState) (dp : Nat) : Option Replay := if dp = 2 then s.vecReplay else (s.arr dp).replay

def Act.setReplay (c dp : Nat) (r : Option Replay) : Act :=
  if dp = 2 then .onCore c fun s => { s with vecReplay := r } else .onArr c dp fun a => { a with replay := r }

/-- The unit that a detection of datapath dp concerns (R330): the bank that a scratch error names, otherwise the array or
the core. -/
def dpUnit (c dp : Nat) (d : Det) : Nat × Nat :=
  if d.code = 0x07 ∨ d.code = 0x08 then (d.uclass, d.uid) else if dp = 2 then (2, c) else (1, c * 2 + dp)

/-- A detection that a replay follows: registers, history, and its record, held until its replays decide (R319, R424). The
three detections of an escalated unit fence nothing by count, so permanence is applied only when a replay passes. -/
def Act.replayDetection (c dp : Nat) (d : Det) (tile : Tile) (injected : Bool) : Act :=
  .read fun b =>
    let u := dpUnit c dp d
    let code := d.code
    let syn := d.syndrome.toNat
    let pend := ((replayOf (Machine.core b c) dp).map (·.pend)).getD []
    let att := ((replayOf (Machine.core b c) dp).map (·.attempt)).getD 0
    let inj := injected || ((replayOf (Machine.core b c) dp).map (·.injected)).getD false
    let perm := !inj && permanentNow b u.1 u.2 code && !isFenced b u.1 u.2
    Act.all [
      .coreDetection c code,
      .when (!inj) (.detect u.1 u.2 code),
      .read fun b =>
        let t := { agentRecord b (.seq c) with
          uclass := u.1, unit := u.2, attempt := att, tile := tile, detector := code,
          hist := histTotal b u.1 u.2, syndrome := syn }
        let home := ((replayOf (Machine.core b c) dp).map fun r => (r.uclass, r.uid)).getD u
        let r : Replay := { attempt := att + 1, dp := dp, uclass := home.1, uid := home.2, tile := tile,
                            injected := inj, pend := pend ++ [(t.body b, perm)] }
        if att < 2 then
          Act.all [.setReplay c dp (some r), .count (.chkReplays c) 1, .showReplay c (att + 1)]
        else .onCore c fun s => { s with escalated := some r }]

/-- Held records are written with a disposition. -/
def Act.releaseRecords (r : Replay) (disp : Bytes × Bool → Nat) : Act :=
  .each r.pend fun x => .logBody (spliceBytes x.1 0x4D (leBytes (disp x) 1))

/-- The unit that a held record names. -/
def recUnit (x : Bytes) : Nat × Nat := (leAt x 0x10 2, leAt x 0x14 4)

/-- The disposition of a detection that its replay contains (R424); a corrected error needs no action. -/
def containedDisp (r : Replay) (x : Bytes × Bool) : Nat :=
  if r.injected then 8 else if x.2 then 4 else if harmless (recDetector x.1) then 0 else 1

/-- A replay passes (R319, R424): its detections are contained, and the units they made permanent are fenced. -/
def Act.replayPassed (c dp : Nat) (r : Replay) : Act :=
  Act.all [
    .setReplay c dp none, .showReplay c 0,
    .releaseRecords r (containedDisp r),
    .each (r.pend.filter (·.2)) fun x => .fence (recUnit x.1).1 (recUnit x.1).2 4]

/-- The held detections of a replay that does not pass, corrected errors aside: they are uncontained (R323). -/
def Replay.uncontained (r : Replay) : Nat := (r.pend.filter fun x => !harmless (recDetector x.1)).length

/-- A replay is cut short by what ends its invocation: its held records are written, its detections decide nothing about
the unit (R424). -/
def Act.abandonReplay (c dp : Nat) : Act :=
  .read fun b => .opt (replayOf (Machine.core b c) dp) fun r => Act.all [
    .setReplay c dp none, .showReplay c 0,
    .releaseRecords r (fun _ => if r.injected then 8 else 9),
    .when (!r.injected) (.count .chkUncontained r.uncontained)]

/-- Every replay of a core is cut short. -/
def Act.abandonReplays (c : Nat) : Act := .each [0, 1, 2] (.abandonReplay c)

/-- The second replay fails (R322): its drained result is kept, the sequencer faults with cause 5, the partition stops,
and its rollback, after the arbitration, is due from the start beat of the invocation. A replay of the core's other array
is cut short. -/
def Act.escalate (c dp : Nat) (r : Replay) (result : Bytes) : Act :=
  .read fun b => Act.all [
    .setReplay c dp none, .showReplay c 0, .setFld (.chkStatus c) 2 2 1,
    .onCore c (fun s => { s with arbTried := 0, escalated := some r, kept := result }),
    .releaseRecords r (fun _ => 9),
    .count .chkUncontained r.uncontained, .abandonReplays c,
    .onCore c (fun s => { s with inv := none, seqWaiting := false }), .idleArr c 0, .idleArr c 1,
    .setFld (.coreStatus c) 0 0 0,
    .unitFault (.seq c) (seqEntry b c) 5,
    .opt (ownerOfCore b c) fun f => .taint f (((Machine.core b c).inv.map (·.startBeat)).getD (beat b))]

end Sys2Proof.Machine
end

