-- ==== Sys2Proof/Machine/Array.lean ====
section
/-! DEFINITION. Array work: how an invocation starts (02_formats.md R63-R65, 05_step_tables.md R149-R152), the tile walk
(R134-R136, 07_image_ops.md R186), accumulation, swap, drain and preload of an array (04_core.md R103-R108), the
epilogue of a row (R114-R116), and how an invocation ends (05_step_tables.md R155). -/

namespace Sys2Proof.Machine

/-! ## Scale slots of an entry (02_formats.md R61-R65) -/

def slotOf (e : BitVec 512) : Option Nat := if bitOf e.toNat 30 then some (ef e 29 24) else none
def destFmt (e : BitVec 512) : Nat := ef e 134 131
/-- Byte address of the slot words, none without SREC. -/
def srecOf (e : BitVec 512) : Option Nat := granule (if isVec e then ef e 362 346 else ef e 250 234)

/-- The reference amax of a slot (R63). -/
def slotRef (b : Block) (c n : Nat) (e : BitVec 512) : Q :=
  if flag b (.coreSslotCfg c n) 5 then
    match srecOf e with
    | none => Q.zero
    | some a => amaxIn (scrWord b c (a + 8))
  else if flag b (.coreSslotCfg c n) 7 then amaxIn (rd b (.coreSslotAmax c n)) else Q.zero

/-- The scale S of an invocation that starts now; 1.0 without a slot (R63). -/
def startScale (b : Block) (c : Nat) (e : BitVec 512) : Word :=
  match slotOf e with
  | none => 0x3F800000
  | some n => slotScale (slotRef b c n e) (BitVec.ofNat 32 (rd b (.coreSslotScale c n))) (destFmt e)
      (fld b (.coreSslotCfg c n) 2 0) (flag b (.coreSslotCfg c n) 6)

/-- The input scale words (R54, 03_arithmetic.md R91). -/
def saWord (b : Block) (c : Nat) (e : BitVec 512) : Word :=
  scaleWord b c (if isVec e then ef e 326 308 else ef e 214 196)
def sbWord (b : Block) (c : Nat) (e : BitVec 512) : Word :=
  scaleWord b c (if isVec e then ef e 345 327 else ef e 233 215)

/-! ## Starting an invocation -/

/-- What an invocation of an entry latches in its first cycle. -/
def latch (b : Block) (c : Nat) (e : BitVec 512) : Invocation :=
  let x := runtimeExt b c e
  { entry := e, index := seqEntry b c, ext := x.1, klen := x.2.1, qbase := x.2.2.1, kbase := x.2.2.2,
    sa := saWord b c e, sb := sbWord b c e, scale := startScale b c e, extw := extWords b c e,
    cnt := Counters.zero, flags := 0, skipped := 0, amax := Q.zero, invoc := rd b (.seqInvoc c),
    startBeat := beat b, units := 0, workDone := false, zero := false }

/-- The first cycle of an invocation: its slot's scale is written, it is in progress, and the core is busy
(02_formats.md R63, R64). -/
def Act.latchWork (c : Nat) (i : Invocation) : Act :=
  Act.all [
    .opt (slotOf i.entry) (fun n => .setReg (.coreSslotScale c n) i.scale.toNat),
    .onCore c (fun s => { s with inv := some i }),
    .setFld (.coreStatus c) 0 0 1]

/-- A zero extent is in progress until its planned duration is over: it reads nothing and leaves its slot (R152,
R153). -/
def Act.latchZero (c : Nat) (i : Invocation) : Act :=
  Act.all [.onCore c (fun s => { s with inv := some { i with zero := true } }), .setFld (.coreStatus c) 0 0 1]

/-- An array, pooling, resize or vector entry starts (05_step_tables.md R145, R151, R152): a shape overrun, which is
judged first, writes its record and faults; a zero extent, or a null repetition, only keeps its place in the schedule;
otherwise the words are latched, the slot's scale is written, and the work begins. -/
def Act.beginWork (c : Nat) (e : BitVec 512) (work : Act) : Act :=
  .read fun b =>
    let i := latch b c e
    if shapeOverrun e i.ext i.extw then Act.all [
      .record c e (creBytes (seqEntry b c) (opcodeOf e) 2 0 (i.invoc % 2 ^ 32) 0 Counters.zero),
      .seqFault c 1 0x23 0]
    else if nullRepetition b c || zeroExtent i.ext then .latchZero c i
    else Act.all [.latchWork c i, work]

/-- The invocation in progress changes. -/
def Act.onInv (c : Nat) (g : Invocation → Invocation) : Act := .onCore c fun s => { s with inv := s.inv.map g }

/-! ## The tile walk (R134, 07_image_ops.md R186) -/

/-- Extents of the walk: batches 2 and 1, row tiles, column tiles. -/
def walkExt (i : Invocation) : Nat × Nat × Nat × Nat :=
  let x := natAt i.ext
  if isMat i.entry then (x 4, x 3, x 0 / 32, x 1 / 32)
  else (1, x 6, x 0 * x 1 * x 2 / 32, convNc i.entry / 32)

/-- First column of tiles an array runs, and the step from one to the next (R134). -/
def walkStep (e : BitVec 512) (a : Nat) : Nat × Nat := if arraysOf e = 3 then (a, 2) else (0, 1)

/-- The entry uses the array. -/
def usesArr (e : BitVec 512) (a : Nat) : Bool := bitOf (arraysOf e) a

/-- The first tile of an array. -/
def firstTile (i : Invocation) (a : Nat) : Option Tile :=
  let n0 := (walkStep i.entry a).1
  if usesArr i.entry a && decide (n0 < (walkExt i).2.2.2) then some { b2 := 0, b1 := 0, mt := 0, nt := n0 } else none

/-- The tile after t on an array. -/
def tileAfter (i : Invocation) (a : Nat) (t : Tile) : Option Tile :=
  let (b2, b1, m, n) := walkExt i
  let (n0, k) := walkStep i.entry a
  if t.nt + k < n then some { t with nt := t.nt + k }
  else if t.mt + 1 < m then some { t with mt := t.mt + 1, nt := n0 }
  else if t.b1 + 1 < b1 then some { b2 := t.b2, b1 := t.b1 + 1, mt := 0, nt := n0 }
  else if t.b2 + 1 < b2 then some { b2 := t.b2 + 1, b1 := 0, mt := 0, nt := n0 }
  else none

/-- DIAG and WIN of R130. -/
def diagOf (i : Invocation) : Int := signedOf (((i.extw[3]?).getD 0).toNat % 65536) 16
def winOf (i : Invocation) : Int := ((((i.extw[3]?).getD 0).toNat / 65536 : Nat) : Int)

/-- MASK of an entry. -/
def maskOf (e : BitVec 512) : Nat := ef e 296 295

/-- Element (m, n) is masked (04_core.md R115). -/
def isMasked (i : Invocation) (m n : Nat) : Bool :=
  let qp := i.qbase + m
  let kp := i.kbase + n
  match maskOf i.entry with
  | 1 => decide (kp > qp + diagOf i) || decide (kp ≥ i.klen)
  | 2 => decide (kp > qp + diagOf i) || decide (kp ≤ qp + diagOf i - winOf i) || decide (kp ≥ i.klen)
  | 3 => decide (kp ≥ i.klen)
  | _ => false

/-- The walker skips the tile (R136). -/
def isSkipped (i : Invocation) (t : Tile) : Bool :=
  let q0 := i.qbase + (32 * t.mt : Nat)
  let q1 := q0 + 31
  let k0 := i.kbase + (32 * t.nt : Nat)
  let k1 := k0 + 31
  let causal := decide (k0 > q1 + diagOf i) || decide (k0 ≥ i.klen)
  bitOf i.entry.toNat 14 &&
    (match maskOf i.entry with
     | 1 => causal
     | 2 => causal || decide (k1 ≤ q0 + diagOf i - winOf i) || decide (q0 + diagOf i - winOf i + 1 ≥ i.klen)
     | 3 => decide (k0 ≥ i.klen)
     | _ => false)

/-! ## Operands of a tile -/

/-- Products per cell per cycle of an operand format (02_formats.md R53). -/
def fmtG (f : Nat) : Nat := if f = 1 ∨ f = 2 then 1 else if f = 3 ∨ f = 4 then 2 else if f = 0 then 1 else 4

/-- g of an entry (R53). -/
def gOf (e : BitVec 512) : Nat := min (fmtG (ef e 118 115)) (fmtG (ef e 126 123))

/-- K of an invocation. -/
def kOf (i : Invocation) : Nat := if isMat i.entry then natAt i.ext 2 else (taps i.entry).length * convKc i.entry

/-- Cycles an array accumulates one tile (04_core.md R100, 07_image_ops.md R196). -/
def accCycles (i : Invocation) : Nat :=
  let k := kOf i
  let g := gOf i.entry
  if opcodeOf i.entry = opConv ∧ ef i.entry 316 315 = 2 then 4 * k
  else match arithOf i.entry with
    | .fast => k / g
    | .strict => 2 * k / g
    | .profJ => k / g
    | .profO => k / min g 2
    | .x32 => 6 * k

/-- The K sequence of row m of a tile's A operand. -/
def tileA (b : Block) (c : Nat) (i : Invocation) (t : Tile) (pad : Nat × Nat) (r : Nat) : KSeq :=
  let e := i.entry
  if isMat e then matSeq b (arithOf e) (matA c e t) (bitOf e.toNat 390) (32 * t.mt + r) (kOf i)
  else convA b c e (arithOf e) i.ext pad t.b1 (32 * t.mt + r) (32 * t.nt)

/-- The K sequence of column n of a tile's B operand. -/
def tileB (b : Block) (c : Nat) (i : Invocation) (t : Tile) (j : Nat) : KSeq :=
  let e := i.entry
  if isMat e then matSeq b (arithOf e) (matB c e t) (bitOf e.toNat 391) (32 * t.nt + j) (kOf i)
  else convB b c e (arithOf e) (32 * t.nt + j)

/-- Accumulator (r, j) of a set; an empty set is cleared. -/
def accAt (s : List (List Acc)) (r j : Nat) : Acc := ((((s[r]?).getD [])[j]?).getD Acc.clear)

/-- A set accumulates a tile (04_core.md R99, 03_arithmetic.md R75): the set, and the counts of its decodes (R135). -/
def accumulate (b : Block) (c : Nat) (i : Invocation) (t : Tile) (start : List (List Acc)) :
    List (List Acc) × Counters :=
  let m := arithOf i.entry
  let pad := if ef i.entry 318 317 = 1 ∧ !isMat i.entry then padConst i.entry m i.extw else (0, 127)
  let as := (List.range 32).map (tileA b c i t pad)
  let bs := (List.range 32).map (tileB b c i t)
  let rows := (as.zip (List.range 32)).map fun x =>
    (bs.zip (List.range 32)).map fun y => dot m (gOf i.entry) (accAt start x.2 y.2) (x.1.vals.zip y.1.vals)
  (rows, (as ++ bs).foldl (fun n s => n.add s.cnt) Counters.zero)

/-! ## Preloads (R133, 03_arithmetic.md R72) -/

/-- Rows and columns of a preload: M_max, N_max, level-1 batches. -/
def preExt (e : BitVec 512) : Nat × Nat × Nat :=
  if isMat e then (32 * ef e 322 315, 32 * ef e 330 323, ef e 403 392)
  else (ef e 326 319 * ef e 337 327 * ef e 348 338, convNc e, 1)

/-- The entry names a preload. -/
def hasPreload (e : BitVec 512) : Bool := ef e 288 287 != 0

/-- Row r of the preload of a tile, as the mode loads it. A preload of pairs in a mode other than X32, which the spec
neither rejects nor gives an effect, loads the sum word: the model's choice (log 30). -/
def preRow (b : Block) (c : Nat) (e : BitVec 512) (t : Tile) (r : Nat) : List Acc :=
  let (mm, nm, b1) := preExt e
  let pair := ef e 288 287 == 2
  let sz := if pair then 8 else 4
  let row := if isMat e then (t.b2 * b1 + t.b1) * mm + 32 * t.mt + r else t.b1 * mm + 32 * t.mt + r
  let base := ef e 286 270 * 16 + (row * nm + 32 * t.nt) * sz
  (List.range 32).map fun j =>
    preload (arithOf e) (BitVec.ofNat 32 (scrWord b c (base + j * sz)))
      (if pair then BitVec.ofNat 32 (scrWord b c (base + j * sz + 4)) else 0)

/-- A set made ready for a tile: preloaded, or cleared. -/
def readySet (b : Block) (c : Nat) (e : BitVec 512) (t : Option Tile) : List (List Acc) :=
  match t with
  | none => []
  | some t => if hasPreload e then (List.range 32).map (preRow b c e t) else []

/-! ## Status of an array (04_core.md ARR_STATUS) -/

/-- The tile that the shadow set will accumulate after its drain. -/
def shadowNext (i : Invocation) (a : Nat) (s : ArrState) : Option Tile :=
  if s.liveTile.isSome then s.next else s.next.bind (tileAfter i a)

/-- The shadow set holds what the tile after the live one begins with: the 32 rows of its preload, where it has one. -/
def shadowReady (i : Invocation) (a : Nat) (s : ArrState) : Bool :=
  !hasPreload i.entry || (shadowNext i a s).isNone || s.preloaded == 32

/-- The shadow set is free (R106): a set swapped out is so when all its rows have been drained, and cleared or preloaded; at
the start of a macro-operation no set has been swapped out, and the first tile waits for its own live set alone (R107). -/
def shadowFree (i : Option Invocation) (a : Nat) (s : ArrState) : Bool :=
  s.shadowTile.isNone && i.all fun i => s.drained == 0 || shadowReady i a s

/-- ARR_ST_STATE of an array: 1 accumulating, 2 holding for its shadow set (R103, R105), 3 draining only, 0 idle. -/
def arrShown (i : Option Invocation) (a : Nat) (s : ArrState) : Nat :=
  if (s.liveTile.isSome || s.next.isSome) && !shadowFree i a s then 2
  else if s.liveTile.isSome then 1
  else if s.shadowTile.isSome || !s.queue.isEmpty then 3 else 0

/-- ARR_STATUS follows the array. -/
def Act.showArr (c a : Nat) : Act :=
  .read fun b =>
    let s := (Machine.core b c).arr a
    Act.all [
      .setFld (.arrStatus c a) 7 6 (arrShown (Machine.core b c).inv a s),
      .setFld (.arrStatus c a) 4 4 (shadowFree (Machine.core b c).inv a s).toNat]

/-- An array is prepared for an invocation (R107): its live set is cleared or preloaded for its first tile. -/
def Act.armArray (c a : Nat) : Act :=
  .read fun b => .opt (Machine.core b c).inv fun i =>
    .when (usesArr i.entry a) (Act.all [
      .onArr c a (fun s => { ArrState.reset with
        next := firstTile i a, live := readySet b c i.entry (firstTile i a), armed := s.armed }),
      .showArr c a])

/-- MATMUL, SCORE and CONV start alike. -/
def Act.startArray (c op : Nat) : Act :=
  .read fun b => .opt (readyOp b c op) fun (_, e) => .beginWork c e (Act.all [.armArray c 0, .armArray c 1])

/-- MATMUL: the entry latches its words and its tiles are ready to walk (R131, R134, R149-R152). -/
def execMatmul (c : Nat) (s : State) : Host.Outcome State Fault Refusal :=
  perform (isCore c) (.startArray c opMatmul) s

/-- SCORE: as MATMUL, with tiles that may be skipped (R136). -/
def execScore (c : Nat) (s : State) : Host.Outcome State Fault Refusal :=
  perform (isCore c) (.startArray c opScore) s

/-- CONV (07_image_ops.md R184-R196). -/
def execConv (c : Nat) (s : State) : Host.Outcome State Fault Refusal :=
  perform (isCore c) (.startArray c opConv) s

/-! ## The datapath -/

/-- TILE_ACCUMULATION_START: the next tile accumulates in the live set, once the shadow set is free; a skipped tile reads
nothing (R103, R135, R136). The worked timeline after R110 starts a tile while the other set still drains; R103 and the
row of the table are followed (log 65). -/
def execTileAccumulationStart (c a : Nat) (s : State) : Host.Outcome State Fault Refusal :=
  perform (isCore c && isArr a) (.read fun b =>
    let s := (core b c).arr a
    match (core b c).inv, s.next with
    | some i, some t =>
      if s.liveTile.isSome || s.replay.isSome || !shadowFree (some i) a s then .nop
      else
        let x := if isSkipped i t then (s.live, Counters.zero) else accumulate b c i t s.live
        Act.all [
          .onArr c a (fun s => { s with
            next := tileAfter i a t, liveTile := some t, live := x.1, liveCnt := x.2 }),
          if isSkipped i t then .onInv c fun i => { i with skipped := satAdd i.skipped 1 32 }
          else .count (.arrAccCyc c a) (accCycles i),
          .showArr c a]
    | _, _ => .nop) s

/-- ACCUMULATOR_SWAP: all cells exchange their sets, where the shadow set is free (R105) and holds the preload that the next
tile begins with (R106, R107). -/
def execAccumulatorSwap (c a : Nat) (s : State) : Host.Outcome State Fault Refusal :=
  perform (isCore c && isArr a) (.read fun b =>
    let s := (core b c).arr a
    if s.liveTile.isNone || s.replay.isSome || !shadowFree (core b c).inv a s ||
        !((core b c).inv.all fun i => shadowReady i a s) then .nop
    else Act.all [
      .onArr c a (fun s => { s with
        live := s.shadow, liveTile := none, liveCnt := Counters.zero,
        shadow := s.live, shadowTile := s.liveTile, shadowCnt := s.liveCnt, drained := 0, preloaded := 0 }),
      .setFld (.arrStatus c a) 5 5 (1 - fld b (.arrStatus c a) 5 5),
      .showArr c a]) s

/-- ACCUMULATOR_PRELOAD: the next preload row of the tile that the shadow set will accumulate is written once that row
has been drained (R106). -/
def execAccumulatorPreload (c a : Nat) (s : State) : Host.Outcome State Fault Refusal :=
  perform (isCore c && isArr a) (.read fun b =>
    let s := (core b c).arr a
    match (core b c).inv.bind fun i => (shadowNext i a s).map fun t => (i, t) with
    | none => .nop
    | some (i, t) =>
      if !hasPreload i.entry || decide (32 ≤ s.preloaded) || (s.shadowTile.isSome && decide (s.drained ≤ s.preloaded))
      then .nop
      else
        let rows := if s.shadow.isEmpty then List.replicate 32 [] else s.shadow
        Act.all [
          .onArr c a (fun s => { s with
            shadow := putAt rows [] s.preloaded (preRow b c i.entry t s.preloaded), preloaded := s.preloaded + 1 }),
          .showArr c a]) s

/-! ## The epilogue of a row (04_core.md R114-R116, 03_arithmetic.md R88-R95) -/

/-- The bias element of column n, and whether it was flushed (03_arithmetic.md R88). -/
def biasOf (b : Block) (c : Nat) (i : Invocation) (t : Tile) (n : Nat) : Option (Val × Bool) :=
  let e := i.entry
  (granule (ef e 267 251)).map fun a =>
    let fmt := ef e 268 268
    let sz := if fmt = 0 then 4 else 2
    let nmax := (preExt e).2.1
    let code := leNat (scr b c (a + (if bitOf e.toNat 269 then t.b1 * nmax * sz else 0) + n * sz) sz)
    if (arithOf e).flushes && isSubnormal fmt code then (.zero (bitOf code (fmtBits fmt - 1)), true)
    else (decodeCode fmt code, false)

/-- How an entry's epilogue treats its values. -/
def epiOf (i : Invocation) : Epi :=
  { mode := arithOf i.entry, split := bitOf i.entry.toNat 11, sa := val32 i.sa.toNat, sb := val32 i.sb.toNat,
    act := ef i.entry 291 289, leaky := ef i.entry 294 292 + 1,
    lo := val32 ((i.extw[0]?).getD 0).toNat, hi := val32 ((i.extw[1]?).getD 0).toNat }

/-- MASK_VAL (R115). -/
def maskVal (i : Invocation) : Val := val32 ((i.extw[2]?).getD 0).toNat

/-- The exact epilogue input of an accumulator: the word, or in X32 the sum of the pair (03_arithmetic.md R86). -/
def accOut (m : Mode) (a : Acc) : OutVal :=
  let v := a.toV
  { v := if m == .x32 && !v.s.isNaN && !v.s.isInf then sumVals [v.s, v.e] else v.s,
    ovf := v.ovf, flush := v.flush, flags := v.flags }

/-- Output element n of row m before conversion, and its bias flush. -/
def outElem (b : Block) (c : Nat) (i : Invocation) (t : Tile) (a : Acc) (m n : Nat) : OutVal × Counters :=
  let bias := biasOf b c i t n
  let fl := match bias with
    | some (_, true) => Counters.flushes 1
    | _ => Counters.zero
  if isMasked i m n then (OutVal.clean (maskVal i), fl)
  else (epilogue (epiOf i) (accOut (arithOf i.entry) a) (bias.map (·.1)), fl)

/-- A pair's code, count and largest magnitude (03_arithmetic.md R86, R93). -/
def pairOut (a : Acc) : Nat × Tally :=
  let v := a.toV
  (a.s.toNat + a.e.toNat * 2 ^ 32,
   { cnt := countElem v.s.isNaN a.ovf false a.flush, flags := 0,
     amax := (match v.s with | .fin q => q.abs | _ => Q.zero) })

/-- Row r of a drained tile, converted. A pair is written unmasked whatever MASK is: the spec does not say how a pair is
masked, and this is the model's choice (log 30). -/
def rowOut (b : Block) (c : Nat) (i : Invocation) (t : Tile) (set : List (List Acc)) (r : Nat) : RowOut :=
  let e := i.entry
  let d := Desc.ofByte (ef e 138 131)
  let S := (val32 i.scale.toNat).toQ
  let skip := isSkipped i t
  if d.fmt = 8 then
    let xs := (List.range 32).map fun j => pairOut (accAt set r j)
    { codes := xs.map (·.1), exps := [], tally := Tally.sum (xs.map (·.2)) }
  else if skip then convRow (arithOf e) d S (List.replicate 32 (OutVal.clean (maskVal i)))
  else
    let xs := (List.range 32).map fun j => outElem b c i t (accAt set r j) (32 * t.mt + r) (32 * t.nt + j)
    let o := convRow (arithOf e) d S (xs.map (·.1))
    { o with tally := o.tally.add (Tally.counts (xs.foldl (fun n x => n.add x.2) Counters.zero)) }

/-- Where a row's bytes go (R131, 07_image_ops.md R188, 06_streams.md R173). -/
def arrayPuts (c : Nat) (i : Invocation) (t : Tile) (r : Nat) (o : RowOut) : List (Nat × Bytes) :=
  let e := i.entry
  if ef e 314 314 = 1 then
    let bs := packCodes (destFmt e) o.codes
    (0, bs) :: (if o.exps.isEmpty then [] else [(roundUp bs.length 16, o.exps.map fun n => BitVec.ofNat 8 n)])
  else if isMat e then rowPuts (matC c e t) (32 * t.mt + r) (32 * t.nt) o
  else
    let l := cvOutput c e t.b1
    let pos := outPos i.ext (32 * t.mt + r)
    if outBlock e = 16 then
      linPuts l (outIndex e pos (32 * t.nt)) { o with codes := o.codes.take 16, exps := o.exps.take 1 } ++
      linPuts l (outIndex e pos (32 * t.nt + 16)) { o with codes := o.codes.drop 16, exps := o.exps.drop 1 }
    else linPuts l (outIndex e pos (32 * t.nt)) o

/-! ## Drain -/

/-- The drain queue holds two tiles (R108). -/
def queueRows : Nat := 64

/-- The drain stops for a replay (11_integrity.md R319): the array discards the tile that accumulates in its live set,
which is made ready for that tile again; the discarded attempt counts nothing, its skip neither (R320). -/
def Act.stopDrain (c a : Nat) : Act :=
  .read fun b => .opt (Machine.core b c).inv fun i =>
    .opt ((Machine.core b c).arr a).liveTile fun t => Act.all [
      .onArr c a (fun s => { s with
        next := some t, liveTile := none, liveCnt := Counters.zero, live := readySet b c i.entry (some t) }),
      .when (isSkipped i t) (.onInv c fun i => { i with skipped := i.skipped - 1 })]

/-- A check fires in an array's work: the replay of the tile begins. -/
def Act.arrayDetection (c a : Nat) (d : Det) (t : Tile) (injected : Bool) : Act :=
  Act.all [.stopDrain c a, .replayDetection c a d t injected, .showArr c a]

/-- The next row of the drained tile enters the queue: its counts and flags are the invocation's, and the shadow row is
cleared (R106, R108, R114). -/
def Act.drainNext (c a : Nat) (i : Invocation) (t : Tile) (open_ : Bool) : Act :=
  .read fun b =>
    let s := (Machine.core b c).arr a
    let o := rowOut b c i t s.shadow s.drained
    let ps := (arrayPuts c i t s.drained o).map fun p =>
      if open_ then (p.1, (List.range p.2.length).map fun k => Config.abandonedByte b.freeCtr (p.1 + k)) else p
    let tally := if s.drained = 0 then o.tally.add (Tally.counts s.shadowCnt) else o.tally
    let rows := if s.shadow.isEmpty then List.replicate 32 [] else s.shadow
    let last := s.drained == 31
    Act.all [
      .when open_ .bump,
      .onInv c (fun i => i.take tally),
      .onArr c a (fun s => { s with
        queue := s.queue ++ [{ tile := t, row := s.drained, puts := ps }]
        shadow := if last && (!hasPreload i.entry || (shadowNext i a s).isNone) then [] else putAt rows [] s.drained []
        drained := s.drained + 1
        shadowTile := if last then none else s.shadowTile
        shadowCnt := if last then Counters.zero else s.shadowCnt }),
      .showArr c a]

/-- The replay of an array's tile is in progress: its drain has stopped (11_integrity.md R319). -/
def replaying (s : ArrState) : Bool := s.replay.isSome

/-- The residue that the path carries to the check a drained row's detection names: of the accumulator in the column the
detection names, or of stage 1 or 2 of its epilogue; what a later stage decides is compared with its duplicate
(11_integrity.md R310, R311). -/
def rowExpected (b : Block) (c : Nat) (i : Invocation) (t : Tile) (s : ArrState) (d : Det) : Nat :=
  let j := detByte d 1
  let a := accAt s.shadow s.drained j
  let x := epiResidues (epiOf i)
    (if arithOf i.entry == .x32 then sumCarried [a.toV.carriedS, a.toV.carriedE] else a.toV.carriedS)
    ((biasOf b c i t (32 * t.nt + j)).map (·.1))
  if d.code = 0x01 then a.sRes
  else if detByte d 6 = 1 then x.1
  else if detByte d 6 = 2 then x.2
  else detByte d 2

/-- A check of the row that drains fires: it names that row and one of its columns, and what was expected is what the
path carried; a feeder's parity is reported with the first row (11_integrity.md R310, R334). -/
def rowFires (b : Block) (c : Nat) (i : Invocation) (t : Tile) (s : ArrState) (d : Det) : Bool :=
  detFires d &&
    (if d.code = 0x01 ∨ d.code = 0x02 then
      detByte d 0 == s.drained && decide (detByte d 1 < 32) && detByte d 2 == rowExpected b c i t s d
    else if d.code = 0x04 then s.drained == 0
    else d.code == 0x07 || d.code == 0x08)

/-- The unit of a scratch error is the bank of core c that its granule lies in (11_integrity.md R330, 01_module.md
R20). -/
def bankOf (c : Nat) (d : Det) : Bool :=
  d.uclass == 3 && decide (detGranule d < 0x14000) && d.uid == c * 40 + bankOfGranule (detGranule d)

/-- DRAIN_ROW: the next row passes the epilogue into the drain queue (R106, R114). A residue, epilogue or feeder check
that fires, or an injection armed before the tile, stops the drain for a replay of the tile (11_integrity.md R319); an uncorrectable
scratch read is uncontained and leaves the row's bytes open (log 9). -/
def execDrainRow (c a : Nat) (d : Option Det) (s : State) : Host.Outcome State Fault Refusal :=
  perform (isCore c && isArr a) (.read fun b =>
    let s := (core b c).arr a
    match (core b c).inv, s.shadowTile with
    | some i, some t =>
      if replaying s || decide (queueRows ≤ s.queue.length) then .nop
      else if s.armed && s.drained == 0 then Act.all [
        .bump,
        .onArr c a (fun s => { s with armed := false }),
        .arrayDetection c a
          { code := 0x01, uclass := 1, uid := c * 2 + a, unit := 0
            syndrome := BitVec.ofNat 128 (injectedSyn a s.drained (Config.freeWord b.freeCtr).toNat) } t true]
      else match d.filter (rowFires b c i t s) with
        | none => .drainNext c a i t false
        | some x =>
          if x.code = 0x07 ∨ x.code = 0x08 then
            .when (bankOf c x) (Act.all [
              .drainNext c a i t (x.code == 0x08),
              .detection { agentRecord b (.seq c) with tile := t } x (ownerOfCore b c) (beat b)])
          else .arrayDetection c a x t false
    | _, _ => .nop) s

/-- The row leaves the queue; the last row of a tile counts it (ARR_TILES). -/
def Act.popRow (c a : Nat) (q : QRow) : Act :=
  Act.all [.onArr c a (fun s => { s with queue := s.queue.drop 1 }), .when (q.row == 31) (.count (.arrTiles c a) 1),
    .showArr c a]

/-- The 32-bit word of a queued row that holds column j's output. -/
def rowWord (i : Invocation) (q : QRow) (j : Nat) : Nat :=
  let w := if destFmt i.entry = 8 then 64 else fmtBits (destFmt i.entry)
  leAt (q.puts.flatMap (·.2)) (j * w / 32 * 4) 4

/-- The parity check at the write of a queued row fires: the detection names the row and one of its columns, and what was
expected is the parity of that word (11_integrity.md R310, R313). -/
def queueFires (i : Invocation) (q : QRow) (d : Det) : Bool :=
  d.code == 0x05 && detFires d && detByte d 0 == q.row && decide (detByte d 1 < 32) &&
    detByte d 2 == wordParity (rowWord i q (detByte d 1))

/-- DRAIN_QUEUE_WRITE: the queue's front row is written to scratch, in row order (R108). A parity error suppresses the
write and the tile is replayed (11_integrity.md R310, R319). -/
def execDrainQueueWrite (c a : Nat) (d : Option Det) (s : State) : Host.Outcome State Fault Refusal :=
  perform (isCore c && isArr a) (.read fun b =>
    let s := (core b c).arr a
    match (core b c).inv, s.queue with
    | some i, q :: _ =>
      if ef i.entry 314 314 = 1 ∨ replaying s then .nop
      else match d.filter (queueFires i q) with
        | none => Act.all [.puts c q.puts, .popRow c a q]
        | some x => .arrayDetection c a x q.tile false
    | _, _ => .nop) s

/-- DRAIN_ROW_TO_RING: with ROUTE = 1 the drain path waits on the ring's FREE object before each row; released, it
writes the row into slot TAIL mod S and publishes it (06_streams.md R171, R173). A parity error suppresses the write and
the tile is replayed (11_integrity.md R310, R319). -/
def execDrainRowToRing (c a : Nat) (s : State) (d : Option Det := none) : Host.Outcome State Fault Refusal :=
  perform (isCore c && isArr a) (.read fun b =>
    let s := (core b c).arr a
    match (core b c).inv, s.queue, ownerOfCore b c with
    | some i, q :: _, some f =>
      let n := ef i.entry 101 98
      if ef i.entry 314 314 = 0 ∨ replaying s then .nop
      else if s.ringWait = 0 then Act.all [
        .onArr c a (fun s => { s with ringWait := 1 }), .issueWait (.drain c a) f (ringFree b c n) 1]
      else if s.ringWait = 2 then
        match d.filter (queueFires i q) with
        | none => Act.all [
            .puts c (q.puts.map fun p => (slotAt b c n (ringTail b c n) + p.1, p.2)),
            .publish (.drain c a) (seqEntry b c) c f n,
            .onArr c a (fun s => { s with ringWait := 0 }),
            .popRow c a q]
        | some x => .arrayDetection c a x q.tile false
      else .nop
    | _, _, _ => .nop) s

/-! ## Completion (05_step_tables.md R155, 02_formats.md R62) -/

/-- An array has nothing left to do. -/
def ArrState.idle (s : ArrState) : Bool :=
  s.next.isNone && s.liveTile.isNone && s.shadowTile.isNone && s.queue.isEmpty && s.replay.isNone

/-- The last output of the invocation has been written. -/
def workOver (s : CoreState) (i : Invocation) : Bool :=
  i.zero || (if onArrays i.entry then s.arr0.idle && s.arr1.idle else i.workDone)

/-- The first beat in which the record may be written: a planned duration of D cycles ends D / 256 beats after the start
or later (R153; where in its beat an entry starts is left out, log 7). -/
def recordBeat (s : CoreState) (i : Invocation) : Nat := i.startBeat + natAt s.durs i.index / 256

/-- STATUS of an invocation's record (R155). -/
def Invocation.status (i : Invocation) : Nat := if i.zero then 1 else 0

/-- The slot publishes the amax, and S goes to the scale-out word (02_formats.md R62, R63). -/
def Act.publishSlot (c : Nat) (i : Invocation) : Act :=
  .opt (slotOf i.entry) fun n => Act.all [
    .setReg (.coreSslotAmax c n) (amaxWord i.amax).toNat,
    .setFld (.coreSslotCfg c n) 7 7 1,
    .opt (srecOf i.entry) fun a => .setScr c a (leBytes i.scale.toNat 4 ++ leBytes (amaxWord i.amax).toNat 4)]

/-- The core's cumulative conversion counters (02_formats.md R67). -/
def Act.countConversions (c : Nat) (k : Counters) : Act :=
  Act.all [.count (.coreCnvSat c) k.sat, .count (.coreCnvFlush c) k.flush, .count (.coreCnvNan c) k.nan,
    .count (.coreCnvOvf c) k.ovf]

/-- INVOCATION_COMPLETE: the slot is published, the record written, SIGOBJ signalled, and the sequencer goes on, not
before the planned duration is over (R153, R155). A zero extent publishes and counts nothing (R152). -/
def execInvocationComplete (c : Nat) (s : State) : Host.Outcome State Fault Refusal :=
  perform (isCore c) (.read fun b =>
    match (core b c).inv, ownerOfCore b c with
    | some i, some f =>
      .when (workOver (core b c) i && (core b c).vecReplay.isNone && decide (recordBeat (core b c) i ≤ beat b)) (Act.all [
        .when (!i.zero) (Act.all [.publishSlot c i, .countConversions c i.cnt]),
        .finish c f i.entry i.status ((arithOf i.entry).keep i.flags) i.skipped i.cnt,
        .goTo c (i.index + 1)])
    | _, _ => .nop) s

end Sys2Proof.Machine
end

