-- ==== Sys2Proof/Machine/Sync.lean ====
section
/-! DEFINITION. Synchronisation messages at their homes and back at their agents (06_streams.md R158-R168). -/

namespace Sys2Proof.Machine

/-- Waiters released from the head of a queue while the head's amount is at most the count (R159): the count left,
the queue left, the released. -/
def serveQueue : Nat → List Waiter → Nat × List Waiter × List Waiter
  | n, [] => (n, [], [])
  | n, w :: r =>
    if w.n ≤ n then
      let x := serveQueue (n - w.n) r
      (x.1, x.2.1, w :: x.2.2)
    else (n, w :: r, [])

/-- A home holds n and serves its wait queue from the head (R159). -/
def Act.serveWith (o n : Nat) : Act :=
  .read fun b =>
    let x := serveQueue n (Machine.obj b o).queue
    Act.all [
      .setFld (.synObjState o) 15 0 x.1,
      .setWaiters o (fun s => { s with queue := x.2.1 }),
      .each x.2.2 fun w => .issue (.rel w.agent)]

/-- SIGNAL n applied at a home (R158, R159). -/
def Act.applySignal (o n : Nat) (a : Agent) (pos : Nat) : Act :=
  .read fun b =>
    if objType b o ≠ 1 then .addrFaultAt a pos o
    else if 65535 < semCount b o + n then .overrunAt a pos o
    else .serveWith o (semCount b o + n)

/-- WAIT n applied at a home (R158): released at once, or queued behind the earlier waiters. -/
def Act.applyWait (o : Nat) (w : Waiter) : Act :=
  .read fun b =>
    if objType b o ≠ 1 then .addrFault w.agent o
    else if (Machine.obj b o).queue.isEmpty && decide (w.n ≤ semCount b o) then
      Act.all [.setFld (.synObjState o) 15 0 (semCount b o - w.n), .issue (.rel w.agent)]
    else .setWaiters o fun s => { s with queue := s.queue ++ [w] }

/-- A barrier's generation completes at its home (R160): a back to 0, the generation bit inverted, the release
broadcast to the plots that contributed, and a RELEASE on every port that brought an arrival (09_schedules.md R266).
Waits satisfied here no longer have a bound (R166). -/
def Act.completeBarrier (f o : Nat) : Act :=
  .read fun b =>
    let s := Machine.obj b o
    Act.all [
      .setFld (.synObjState o) 14 0 0,
      .setFld (.synObjState o) 31 31 (1 - barGen b o),
      .setWaiters o (fun s => { s with held := s.held.map fun w => { w with left := none }, ports := [], sent := false }),
      .each (s.shares.filter fun x => x.2 != 0) (fun x => .issue (.bcast o x.1)),
      .each s.ports fun p => .ctlMsg p 5 ((relObj b f o).getD 0) (1 - barGen b o) 0]

/-- Participants n more have arrived at a home or proxy (R161, 09_schedules.md R266). A proxy that is full sends one
ARRIVE on its HOME port and waits for the release. -/
def Act.addArrivals (o n : Nat) : Act :=
  .read fun b =>
    let a := barArrived b o + n
    let f := (ownerOfPlot b (o / 512)).getD 0
    Act.all [
      .setFld (.synObjState o) 14 0 a,
      .when (decide (barCount b o ≤ a)) (match (Machine.obj b o).home with
        | none => .completeBarrier f o
        | some (p, h) =>
          .when (!(Machine.obj b o).sent) (Act.all [.onObj o (fun s => { s with sent := true }),
            .ctlMsg p 4 h (barGen b o) 0]))]

/-- A local arrival at its plot unit (R160, R161): a second one in a generation is a schedule overrun; the last of the
plot's share goes to the home as one combined arrival. -/
def Act.applyArrival (o : Nat) (w : Waiter) : Act :=
  .read fun b =>
    let s := Machine.obj b o
    if objType b o ≠ 2 then .addrFault w.agent o
    else if s.held.any fun x => x.agent == w.agent then .overrun w.agent o
    else
      let p := (w.agent.core.map plotOf).getD 0
      let n := smGetD s.localCnt p 0 + 1
      Act.all [
        .setWaiters o (fun s => { s with held := s.held ++ [w], localCnt := smPut s.localCnt p n }),
        .when (n == smGetD s.shares p 0) (.issue (.comb o p n))]

/-- Message i leaves the network. -/
def Act.takeMsg (i : Nat) : Act := .units fun u => { u with syncNet := dropAt u.syncNet i }

/-- SIGNAL_AT_HOME: message i, a SIGNAL, is applied at its home (R158, R159). -/
def execSignalAtHome (i : Nat) (s : State) : Host.Outcome State Fault Refusal :=
  perform true (.read fun b => match b.syncNet[i]? with
    | some (.sig o n a pos) => Act.all [.takeMsg i, .applySignal o n a pos]
    | _ => .nop) s

/-- WAIT_AT_HOME: message i, a WAIT, is applied at its home (R158, R159). -/
def execWaitAtHome (i : Nat) (s : State) : Host.Outcome State Fault Refusal :=
  perform true (.read fun b => match b.syncNet[i]? with
    | some (.wait o w) => Act.all [.takeMsg i, .applyWait o w]
    | _ => .nop) s

/-- BARRIER_ARRIVAL: message i, an arrival at its plot unit or a combined arrival at the home (R160, R161). -/
def execBarrierArrival (i : Nat) (s : State) : Host.Outcome State Fault Refusal :=
  perform true (.read fun b => match b.syncNet[i]? with
    | some (.arr o w) => Act.all [.takeMsg i, .applyArrival o w]
    | some (.comb o _ n) => Act.all [.takeMsg i, .addArrivals o n]
    | _ => .nop) s

/-- BARRIER_RELEASE_BROADCAST: message i, a release at a plot unit, releases the unit's held agents (R161). -/
def execBarrierReleaseBroadcast (i : Nat) (s : State) : Host.Outcome State Fault Refusal :=
  perform true (.read fun b => match b.syncNet[i]? with
    | some (.bcast o p) =>
      let here (w : Waiter) : Bool := w.agent.core.map plotOf == some p
      Act.all [.takeMsg i,
        .each ((Machine.obj b o).held.filter here) (fun w => .issue (.rel w.agent)),
        .setWaiters o fun s => { s with held := s.held.filter (fun w => !here w), localCnt := smDel s.localCnt p }]
    | _ => .nop) s

/-- A released agent resumes (R162): a sequencer's WAIT or BARRIER completes, a drain path or receiver has its slot,
a context's WAIT or ARRIVE retires, the directory engine has its record. -/
def Act.resume (a : Agent) : Act :=
  .read fun b =>
    match a with
    | .seq c =>
      match entryAt b c, ownerOfCore b c with
      | some e, some f =>
        .when ((Machine.core b c).seqWaiting && seqState b c == seqWaits) (.finishControl c f e)
      | _, _ => .nop
    | .drain c i => .onArr c i fun s => if s.ringWait = 1 then { s with ringWait := 2 } else s
    | .ctx c x =>
      .when ((ctxOf (Machine.core b c) x).waiting && ctxWaiting b c x) (Act.all [
        .onCtx c x (fun s => { s with waiting := false }), .setCtxWaiting c x false, .setCtxPc c x (ctxPc b c x + 1)])
    | .bind p ch => .onPort p fun s =>
        { s with rx := match s.rx.findIdx? fun r => r.channel == ch && r.wait == 1 with
            | some k => s.rx.modify k fun r => { r with wait := 2 }
            | none => s.rx }
    | .dir f => .onDir f fun s => if s.qwait = 1 then { s with qwait := 2 } else s
    | .port _ => .nop

/-- WAITER_RESUME: message i, a release, reaches its agent (R162). -/
def execWaiterResume (i : Nat) (s : State) : Host.Outcome State Fault Refusal :=
  perform true (.read fun b => match b.syncNet[i]? with
    | some (.rel a) => Act.all [.takeMsg i, .resume a]
    | _ => .nop) s

/-- The bound of a waiter has run out. -/
def Waiter.expired (w : Waiter) : Bool := w.left == some 0

/-- The waits and arrivals of object o that have not been satisfied within their bound (R166): queued or held at the
home, or still on their way to it. -/
def expiredAt (b : Block) (o : Nat) : List Waiter :=
  ((Machine.obj b o).queue ++ (Machine.obj b o).held ++
    (b.syncNet.filterMap SyncMsg.waiter).filterMap fun x => if x.1 = o then some x.2 else none).filter Waiter.expired

/-- The objects at which some bound has run out, ascending (R168). -/
def lateObjs (b : Block) : List Nat :=
  (((b.objs.map (·.1) ++ (b.syncNet.filterMap SyncMsg.waiter).map (·.1)).filter fun o => !(expiredAt b o).isEmpty).foldl
    (fun l o => smPut l o ()) []).map (·.1)

/-- A wait or arrival that its bound has ended leaves the network. -/
def Act.dropLate : Act :=
  .units fun u => { u with syncNet := u.syncNet.filter fun m => !((SyncMsg.waiter m).any fun x => x.2.expired) }

/-- Waits of object o not satisfied within their bound: each is a schedule overrun of its agent (R166, R167). -/
def Act.expire (o : Nat) : Act :=
  .read fun b => Act.all [
    .each (expiredAt b o) fun w => .read fun b => Act.all [.unitFault w.agent (posOf b w.agent) 2, .count .synOverruns 1,
      .log { agentRecord b w.agent with detector := 0x20, disp := 9, cause := 2, syndrome := o }],
    .setWaiters o fun s =>
      { s with queue := s.queue.filter (fun w => !w.expired), held := s.held.filter (fun w => !w.expired) }]

/-- WAIT_BOUND_EXPIRY: at a beat boundary every waiter or participant whose bound has ended faults, in ascending object
number, wherever its message is; then each partition concerned cancels its other waits and stops (R166, R168). -/
def execWaitBoundExpiry (s : State) : Host.Outcome State Fault Refusal :=
  perform true (.read fun b =>
    let late := lateObjs b
    Act.all [
      .each late .expire,
      .dropLate,
      .each ((owners b).filter fun f => late.any fun o => ownerOfPlot b (o / 512) == some f) .faultStop]) s

end Sys2Proof.Machine
end

