-- ==== Sys2Proof/Machine/Beats.lean ====
section
/-! DEFINITION. Beats, the start of a run, the plan and the energy windows (01_module.md R40, 09_schedules.md R256 to
R261, 06_streams.md R166). -/

namespace Sys2Proof.Machine

/-- A sensor has failed; sensorReading replaces it from now on (14_module_hw.md R399). -/
def Act.sensorFails (i : Nat) : Act :=
  .whenB (fun b => !b.power.failed.contains i) (Act.all [
    .setReg (.pwrSensor i) 0x8000,
    .power fun p => { p with failed := p.failed ++ [i] }])

/-- A reading outside -40 to 150 °C: its sensor has failed (R399). -/
def outOfRange (v : BitVec 16) : Bool := decide (v.toInt < -640) || decide (2400 < v.toInt)

/-- A reading of a sensor enters its register, or shows that the sensor has failed; a failed one keeps reading 0x8000. -/
def Act.sense (i : Nat) (v : BitVec 16) : Act :=
  if outOfRange v then .sensorFails i
  else .whenB (fun b => !b.power.failed.contains i) (.setReg (.pwrSensor i) v.toNat)

/-- The readings of the input monitor and the sensors enter their registers (14_module_hw.md R399). -/
def Act.sample (m : Sample) : Act :=
  Act.all [
    .setReg .pwrVin m.vin.toNat, .setReg .pwrIin m.iin.toNat, .setReg .pwrPin m.pin.toNat,
    .setReg .pwrCool m.cool.toNat, .setReg .pwrFlow m.flow.toNat,
    .each (m.sensors.filter fun x => decide (x.1 < 92)) (fun x => .sense x.1 x.2),
    .power fun p => { p with rails := (m.rails.filter fun x => decide (x.1 < 64)).foldl (fun l x => smPut l x.1 x.2) p.rails }]

/-- Bounds count down in the partition of f: it is RUNNING, a PAUSE in progress included (R166, 12_host.md R358). -/
def boundsRun (b : Block) (f : Nat) : Bool :=
  (part b f).st == .running && (part b f).started

/-- One beat fewer of a waiter's bound. -/
def Waiter.tick (w : Waiter) : Waiter := { w with left := w.left.map (· - 1) }

/-- One beat fewer for the waiters of an object. -/
def ObjState.tick (s : ObjState) : ObjState := { s with queue := s.queue.map Waiter.tick, held := s.held.map Waiter.tick }

/-- One beat fewer for a wait or arrival that is still on its way. -/
def SyncMsg.tick (m : SyncMsg) : SyncMsg :=
  match m with
  | .wait o w => .wait o w.tick
  | .arr o w => .arr o w.tick
  | m => m

/-- A partition in a beat boundary: RUNNING beats are counted (R258), and the beats of a PAUSE (12_host.md R358). -/
def Partition.tick (p : Partition) : Partition :=
  { p with
    beatsRun := if p.st == .running && p.started then p.beatsRun + 1 else p.beatsRun
    pauseBeats := if p.pausing.isSome then p.pauseBeats + 1 else p.pauseBeats }

/-- Everything that counts beats. -/
def Act.tickUnits : Act :=
  .read fun b => .units fun u => { u with
    objs := u.objs.map (fun x =>
      (x.1, if (match ownerOfPlot b (x.1 / 512) with | some f => boundsRun b f | none => false) then x.2.tick else x.2))
    syncNet := u.syncNet.map (fun m =>
      if (match m.obj.bind (fun o => ownerOfPlot b (o / 512)) with | some f => boundsRun b f | none => false)
      then m.tick else m)
    parts := u.parts.map (fun x => (x.1, x.2.tick))
    lock := { u.lock with sinceMarker := u.lock.sinceMarker + 1 } }

/-- RUN_START: at the boundary that begins the start beat, every sequencer begins entry 0 (R257). -/
def execRunStart (f : Nat) (s : State) : Host.Outcome State Fault Refusal :=
  perform (isVf f) (.read fun b =>
    let p := part b f
    .when (p.st == .running && !p.started && decide (beat b = p.startBeat)) (Act.all [
      .onPart f (fun p => { p with started := true }),
      .each (coresOf b f) fun c => Act.all [.setSeqState c seqRunning, .setSeqEntry c 0]])) s

/-- PLAN_EXCEEDED: still RUNNING past PLAN_BEATS, logged once with event 0x3B; the run continues (R256). -/
def execPlanExceeded (f : Nat) (s : State) : Host.Outcome State Fault Refusal :=
  perform (isVf f) (.read fun b =>
    let p := part b f
    .opt p.image fun im =>
      .when (p.st == .running && p.started && !p.planLogged && decide (im.planBeats < p.beatsRun)) (Act.all [
        .onPart f (fun p => { p with planLogged := true }),
        .log { Tansy.none with func := f, image := im.imageId.toNat, detector := 0x3B,
                               syndrome := im.planBeats % 2 ^ 64 * 65536 }])) s

/-- The window word, in µJ, that a partition is charged for its latest beat; PEAK beyond the last window (R256, R259). -/
def windowWord (p : Partition) : Nat :=
  match p.image with
  | none => 0
  | some im => (im.energy[(p.beatsRun - 1) / 64]?).getD im.peak

/-- Ten times the energy allowed in a 64-beat window, in µJ: P_FIX × 10.24 µs and the windows of the RUNNING partitions
(R261). -/
def allowedEnergy (b : Block) : Nat :=
  252928 + 10 * (((owners b).filter fun f => (part b f).st == .running && (part b f).started).map
    fun f => windowWord (part b f)).foldl (· + ·) 0

/-- ENERGY_WINDOW_CHECK: the energy metered in the window that ends now, in µJ, against the allowed (R261); an excess
counts and is logged. -/
def execEnergyWindowCheck (metered : Nat) (s : State) : Host.Outcome State Fault Refusal :=
  perform true (.whenB (fun b => modState b == modOperational && beat b % 64 == 0) (.read fun b =>
    .when (decide (allowedEnergy b < 10 * metered)) (Act.all [
      .count .pwrExcess 1,
      .logEvent 0x32 0 metered 0,
      .event 0 3]))) s

end Sys2Proof.Machine
end

