-- ==== Sys2Proof/Machine/Translate.lean ====
section
/-! DEFINITION. Address translation (13_memory.md R378-R382): the tables of a partition, the walk and its faults, the
translation caches. -/

namespace Sys2Proof.Machine

/-! ## Chunks (R369, R377) -/

/-- The first device address of a controller (R369). -/
def ctlAt (k : Nat) : Nat := lpddrBase + k * ctlBytes

/-- Bytes of one chunk. -/
def chunkBytes : Nat := 0x40000000

/-- The first device address of a chunk (R377). -/
def chunkAt (x : Nat × Nat) : Nat := ctlAt x.1 + x.2 * chunkBytes

/-- n bytes from device address a lie in one of the chunks. -/
def within (chunks : List (Nat × Nat)) (a n : Nat) : Bool :=
  chunks.any fun x => decide (chunkAt x ≤ a) && decide (a + n ≤ chunkAt x + chunkBytes)

/-- n bytes from device address a lie in one of the partition's chunks. -/
def inChunks (p : Partition) (a n : Nat) : Bool := within p.chunks a n

/-- The partition's chunks whose capacity is in the module: a fenced controller's has left it (R376). -/
def presentChunks (b : Block) (p : Partition) : List (Nat × Nat) := p.chunks.filter fun x => !isFenced b 7 x.1

/-- The controllers of the dies that hold some plots (R377). -/
def isHome (plots : List Nat) (k : Nat) : Bool := plots.any fun p => p / 8 == k / 2

/-- The controller that holds a partition's tables: its lowest-numbered home controller (R381). -/
def tableCtl (p : Partition) : Nat := ((List.range 16).find? (isHome (plotList p.plots))).getD 0

/-! ## Tables (R379, R380) -/

/-- log2 of the bytes that one entry of a level spans. -/
def levelShift (level : Nat) : Nat := 39 - 9 * level

/-- The entry that a virtual address indexes at a level. -/
def pteKey (level va : Nat) : Nat := level * 2 ^ 36 + va / 2 ^ levelShift level

/-- The level of a leaf of a size (R380). -/
def leafLevel (size : Nat) : Nat := if size = 30 then 1 else if 21 ≤ size then 2 else 3

/-- The leaf of a page: ADDR, SIZE, W, R, LEAF and V (R379). -/
def leafWord (m : Mapping) : DWord :=
  BitVec.ofNat 64 (m.pa / 4096 % 2 ^ 40 * 4096 + m.size % 64 * 64 + m.w.toNat * 8 + m.r.toNat * 4 + 3)

/-- The consecutive entries a page occupies, all identical (R380). -/
def leafKeys (m : Mapping) : List Nat :=
  (List.range (2 ^ (m.size - levelShift (leafLevel m.size)))).map fun i => pteKey (leafLevel m.size) m.va + i

/-- The table that holds an entry: the one of its level with 512 entries around it. -/
def tableKey (key : Nat) : Nat := key / 2 ^ 36 * 2 ^ 36 + key % 2 ^ 36 / 512

/-- Where a table of function f's partition stands: some 4 KiB of the reserve of the controller that holds the tables
(R379, R381); which is open (log 9). -/
def tablePlace (f : Nat) (p : Partition) (table : Nat) : Nat :=
  ctlAt (tableCtl p) + 0x11C0000000 + Config.tablePage f table % 2 ^ 18 * 4096

/-- The device address of an entry. -/
def entryPlace (f : Nat) (p : Partition) (key : Nat) : Nat := tablePlace f p (tableKey key) + key % 512 * 8

/-- An entry that points to a table at a device address: ADDR and V (R379). -/
def tableWord (a : Nat) : DWord := BitVec.ofNat 64 (a / 4096 * 4096 + 1)

/-- A page is mapped: its leaf, and on each level above it the entry that points to the next table; `place` says where
tables stand. -/
def mapPage (place : Nat → Nat) (t : List (Nat × DWord)) (m : Mapping) : List (Nat × DWord) :=
  (List.range (leafLevel m.size)).foldl
    (fun t l => smPut t (pteKey l m.va) (tableWord (place (tableKey (pteKey (l + 1) m.va)))))
    ((leafKeys m).foldl (fun t k => smPut t k (leafWord m)) t)

/-- The table that an entry of a level points to is empty. -/
def tableEmpty (t : List (Nat × DWord)) (level va : Nat) : Bool :=
  !t.any fun e => tableKey e.1 == tableKey (pteKey (level + 1) va)

/-- A page is unmapped: its leaf, then every table on the way that has become empty (log 9). -/
def unmapPage (t : List (Nat × DWord)) (m : Mapping) : List (Nat × DWord) :=
  (List.range (leafLevel m.size)).foldr (fun l t => if tableEmpty t l m.va then smDel t (pteKey l m.va) else t)
    ((leafKeys m).foldl smDel t)

/-- The page of a leaf that va indexes. -/
def leafPage (e : DWord) (va : Nat) : Mapping :=
  let n := e.toNat
  let size := bitsOf n 11 6
  { va := va / 2 ^ size * 2 ^ size, size := size, pa := bitsOf n 51 12 * 4096, r := bitOf n 2, w := bitOf n 3 }

/-- A leaf is well formed: no reserved bit, LEAF and SIZE as its level wants, ADDR aligned, and the page in the
partition's chunks (R380). -/
def leafGood (chunks : List (Nat × Nat)) (level : Nat) (e : DWord) : Bool :=
  let n := e.toNat
  let size := bitsOf n 11 6
  let pa := bitsOf n 51 12 * 4096
  bitsOf n 63 52 == 0 && bitsOf n 5 4 == 0 && bitOf n 1 && level != 0 &&
    decide (12 ≤ size) && decide (size ≤ 30) && leafLevel size == level && pa % 2 ^ size == 0 &&
    within chunks pa (2 ^ size)

/-- An entry that points to a table: LEAF 0, which level 3 does not admit (R379). -/
def pointsOn (level : Nat) (e : DWord) : Bool := decide (level < 3) && !bitOf e.toNat 1

/-- A pointing entry is well formed: no reserved bit (R380). -/
def pointerGood (e : DWord) : Bool := bitsOf e.toNat 63 52 == 0 && bitsOf e.toNat 5 4 == 0

/-- A translation fault as XLT_FLT_INFO states it: kind and level. -/
structure XltFault where
  kind : Nat
  level : Nat

/-- The walk from a list of levels on (R379, R382): the page, or V = 0 or a malformed entry on the way. -/
def walkFrom (chunks : List (Nat × Nat)) (t : List (Nat × DWord)) (va : Nat) : List Nat → Except XltFault Mapping
  | [] => .error { kind := 2, level := 3 }
  | l :: r =>
    match smGet t (pteKey l va) with
    | none => .error { kind := 2, level := l }
    | some e =>
      if !bitOf e.toNat 0 then .error { kind := 2, level := l }
      else if pointsOn l e then
        if pointerGood e then walkFrom chunks t va r else .error { kind := 4, level := l }
      else if leafGood chunks l e then .ok (leafPage e va) else .error { kind := 4, level := l }

/-- Device-address segments with their lengths, or the fault; the pages used, up to the fault, and the address that
faults. -/
inductive Xlt where
  | ok (segs : List (Nat × Nat)) (used : List Mapping)
  | fault (x : XltFault) (used : List Mapping) (va : Nat)

/-- len bytes from va, page by page; `fuel` bounds the pages (R382). -/
def xlate (chunks : List (Nat × Nat)) (t : List (Nat × DWord)) (write : Bool) : Nat → Nat → Nat → Xlt
  | 0, _, _ => .ok [] []
  | fuel + 1, va, len =>
    if len = 0 then .ok [] []
    else if 2 ^ 48 ≤ va then .fault { kind := 1, level := 0 } [] va
    else match walkFrom chunks t va [0, 1, 2, 3] with
      | .error x => .fault x [] va
      | .ok m =>
        if (write && !m.w) || (!write && !m.r) then .fault { kind := 3, level := leafLevel m.size } [m] va
        else
          let n := min len (m.va + 2 ^ m.size - va)
          match xlate chunks t write fuel (va + n) (len - n) with
          | .ok segs used => .ok ((m.pa + (va - m.va), n) :: segs) (m :: used)
          | .fault x used a => .fault x (m :: used) a

/-- len bytes from an affine value in the virtual space of function f's partition (R382). -/
def translate (b : Block) (f : Nat) (write : Bool) (v : Int) (len : Nat) : Xlt :=
  if v < 0 then .fault { kind := 1, level := 0 } [] 0
  else xlate (presentChunks b (part b f)) (part b f).maps write (len / 4096 + 2) v.toNat len

/-- The controller of an LPDDR5X device address (13_memory.md R369). -/
def ctlOf (a : Nat) : Nat := (a - lpddrBase) / ctlBytes

/-- n bytes from an LPDDR5X device address; what an uncorrectable block returns is open (R374, log 9). -/
def lpdBytes (b : Block) (a n : Nat) : Bytes :=
  let bad := (lpd b (ctlOf a)).bad
  if bad.isEmpty then bytesAt b a n
  else (List.range n).map fun i =>
    if bad.contains ((a + i) / 64) then Config.abandonedByte b.freeCtr (a + i) else byteAt b (a + i)

/-- The free-value counter advances where some block is uncorrectable: what the next read returns is open again. -/
def Act.freshBlocks : Act := .whenB (fun b => b.lpds.any fun x => !x.2.bad.isEmpty) .bump

/-- The bytes of device-address segments. -/
def segBytes (b : Block) (segs : List (Nat × Nat)) : Bytes := segs.flatMap fun s => lpdBytes b s.1 s.2

/-- Block blk (device address div 64) lies wholly inside n bytes from a. -/
def wholeBlocks (a n : Nat) (blk : Nat) : Bool := decide (a ≤ blk * 64) && decide (blk * 64 + 64 ≤ a + n)

/-- The blocks that a write of n bytes from a replaces whole are no longer uncorrectable (R374). -/
def Act.mendBlocks (a n : Nat) : Act :=
  .whenB (fun b => (Machine.lpd b (ctlOf a)).bad.any (wholeBlocks a n))
    (.onLpd (ctlOf a) fun k => { k with bad := k.bad.filter fun x => !wholeBlocks a n x })

/-- Bytes written over device-address segments. -/
def Act.setSegs : List (Nat × Nat) → Bytes → Act
  | [], _ => Act.nop
  | s :: r, bs => ((Act.setMem s.1 (bs.take s.2)).seq (Act.mendBlocks s.1 s.2)).seq (Act.setSegs r (bs.drop s.2))

/-- The translation cache after a use of a page: moved or put to the front, 64 held; and whether it was a miss
(R381). -/
def tlbUse (l : List (Nat × Nat × Nat × Bool)) (m : Mapping) : List (Nat × Nat × Nat × Bool) × Bool :=
  let e := (m.va, m.size, m.pa, m.w)
  if l.contains e then (e :: l.filter (· != e), false) else ((e :: l).take 64, true)

/-- The cache after several uses, with the pages it missed. -/
def tlbUses (l : List (Nat × Nat × Nat × Bool)) (ms : List Mapping) : List (Nat × Nat × Nat × Bool) × List Mapping :=
  ms.foldl (fun x m => let y := tlbUse x.1 m; (y.1, if y.2 then x.2 ++ [m] else x.2)) (l, [])

/-- The reads of a walk for va that ends at a level: the 64 bytes around the entry of each level (R381). -/
def walkReads (p : Partition) (f owner : Nat) (w : Nat × Nat) : List LpdReq :=
  (List.range (w.2 + 1)).map fun l =>
    { owner := owner, addr := entryPlace f p (pteKey l w.1) / 64 * 64, len := 64, write := false, left := 64, data := []
      walkOf := some f }

/-- Walks, each for an address and to a level: counted, and their reads queued; a stream engine's go ahead of its
partition's queue (R381). -/
def Act.walks (f owner : Nat) (ws : List (Nat × Nat)) : Act :=
  .read fun b =>
    let p := Machine.part b f
    let rs := ws.flatMap (walkReads p f owner)
    Act.all [
      .count (.xltWalks f) ws.length,
      .when (!ws.isEmpty) (.onLpd (tableCtl p) fun k => { k with
        queue := if owner < 0x80 then rs ++ k.queue else k.queue ++ rs })]

/-- The walk that found a page. -/
def Mapping.walked (m : Mapping) : Nat × Nat := (m.va, leafLevel m.size)

/-- The walk that ended at a fault: none where the address is out of range, or where a page was found (R382). -/
def XltFault.walked (x : XltFault) (va : Nat) : List (Nat × Nat) := if x.kind = 2 ∨ x.kind = 4 then [(va, x.level)] else []

/-- The walks of a translation without a cache, as an engine does it. -/
def Xlt.walks : Xlt → List (Nat × Nat)
  | .ok _ used => used.map (·.walked)
  | .fault x used va => used.map (·.walked) ++ x.walked va

/-- The device-address segments of a translation that succeeds. -/
def Xlt.segs : Xlt → Option (List (Nat × Nat))
  | .ok segs _ => some segs
  | .fault _ _ _ => none

/-- A stream engine's uses of its cache, and walks that found no page; misses walk in the partition's own slots. -/
def Act.useTlb (c f : Nat) (ms : List Mapping) (more : List (Nat × Nat) := []) : Act :=
  .read fun b =>
    let x := tlbUses (Machine.core b c).tlb ms
    Act.all [.onCore c (fun s => { s with tlb := x.1 }), .walks f f (x.2.map (·.walked) ++ more)]

/-- The host path's uses of its cache, and walks that found no page; misses walk in host-path slots. -/
def Act.useHostTlb (f : Nat) (ms : List Mapping) (more : List (Nat × Nat) := []) : Act :=
  .read fun b =>
    let x := tlbUses (Machine.func b f).tlb ms
    Act.all [.onFunc f (fun s => { s with tlb := x.1 }), .walks f 0x82 (x.2.map (·.walked) ++ more)]

/-- n bytes from a in pieces of at most 4,096 bytes, on 64-byte blocks (R372). -/
def reqPieces (a n : Nat) : List (Nat × Nat) :=
  let lo := a / 64 * 64
  let hi := ceilDiv (a + n) 64 * 64
  (List.range (ceilDiv (hi - lo) 4096)).map fun i => (lo + 4096 * i, min 4096 (hi - lo - 4096 * i))

/-- What the Teasel and directory engines read or write is queued in their place in the host path (R371); the bytes move at
once (log 48). -/
def Act.engineTraffic (write : Bool) (segs : List (Nat × Nat)) : Act :=
  .each (segs.flatMap fun s => reqPieces s.1 s.2) fun x => .onLpd (ctlOf x.1) fun k => { k with
    queue := k.queue ++ [{ owner := 0x80, addr := x.1, len := x.2, write := write, left := x.2, data := [] }] }

/-- A cache without the pages of a virtual range. -/
def tlbWithout (lo hi : Nat) (l : List (Nat × Nat × Nat × Bool)) : List (Nat × Nat × Nat × Bool) :=
  l.filter fun e => !(decide (e.1 < hi) && decide (lo < e.1 + 2 ^ e.2.1))

/-- Every cache of the function drops the pages of a virtual range (R381). -/
def Act.dropRange (f lo hi : Nat) : Act :=
  .read fun b => Act.all [
    .each (allCoresOf b f) (fun c => .when (!(Machine.core b c).tlb.isEmpty) (.onCore c fun s =>
      { s with tlb := tlbWithout lo hi s.tlb })),
    .when (!(Machine.func b f).tlb.isEmpty) (.onFunc f fun s => { s with tlb := tlbWithout lo hi s.tlb }),
    .count (.xltDrops f) 1]

/-- The caches of a partition's cores are cleared at START, RESUME and restore (R381). -/
def Act.clearTlbs (f : Nat) : Act :=
  .read fun b => .each (coresOf b f) fun c => .onCore c fun s => { s with tlb := [] }

/-- Registers of a translation fault (R382): only the first after a START or RESTORE enters them. -/
def Act.xltFault (f : Nat) (v : Int) (x : XltFault) (write : Bool) (lcore : Nat) : Act :=
  .whenB (fun b => (Machine.part b f).fltOpen) (Act.all [
    .setReg (.xltFltVa f) (codeOf v 64),
    .setReg (.xltFltInfo f) (x.kind * 2 ^ 28 + x.level * 2 ^ 26 + write.toNat * 2 ^ 25 + lcore % 2 ^ 15),
    .onPart f fun p => { p with fltOpen := false }])

end Sys2Proof.Machine
end

