-- ==== Sys2Proof/Machine/Lpddr.lean ====
section
/-! DEFINITION. The LPDDR5X controllers (13_memory.md R368 to R376): queues, slots, errors, training. -/

namespace Sys2Proof.Machine

/-! ## Controllers -/

/-- LPD_STATE of a controller. -/
def lpdState (b : Block) (k : Nat) : Nat := fld b (.lpdStatus k) 31 28
def Act.setLpdState (k st : Nat) : Act := .setFld (.lpdStatus k) 31 28 st

def lpdOff : Nat := 0
def lpdReady : Nat := 2
def lpdSelfRefresh : Nat := 3
def lpdFenced : Nat := 4
def lpdFailed : Nat := 5

/-- Owner of a slot position (LPD_SLOTn). -/
def slotOwner (b : Block) (k pos : Nat) : Nat := bitsOf (rd b (.lpdSlot k (pos / 4))) (pos % 4 * 8 + 7) (pos % 4 * 8)

/-! ## The checkpoint area (R383) -/

/-- The partitions with a generation in their checkpoint area that n bytes from a meet; its layout is not stated
(R383, log 52). -/
def areaOf (b : Block) (a n : Nat) : List Nat :=
  (owners b).filter fun f =>
    let p := part b f
    !p.ckpts.isEmpty && (p.chunks.take (plotList p.plots).length).any fun x =>
      decide (a < chunkAt x + chunkBytes) && decide (chunkAt x < a + n)

/-- Bytes written over a checkpoint area: no generation of that partition can be restored any more (log 52). -/
def Act.spoilCkpts (segs : List (Nat × Nat)) : Act :=
  .read fun b => .each (segs.flatMap fun s => areaOf b s.1 s.2) fun f => .onPart f fun p => { p with ckpts := [] }

/-- n bytes from a as a request finds them: what a generation looks like is open (log 9, log 52). -/
def storedBytes (b : Block) (a n : Nat) : Bytes :=
  if (areaOf b a n).isEmpty then bytesAt b a n else (List.range n).map fun i => Config.abandonedByte b.freeCtr (a + i)

/-! ## Requests (R372) -/

/-- The users of a controller that may queue a request of n bytes at device address a: a partition reaches its chunks
and, for its walks, the reserve; the host path everything the controller holds. -/
def mayQueue (b : Block) (owner a n : Nat) (write : Bool) : Bool :=
  let f := if owner < 0x100 then owner else owner - 0x100
  let p := part b f
  if 0x80 ≤ owner ∧ owner < 0x84 then owner != 0x81
  else isVf f && p.st != .empty &&
    (inChunks p a n || (!write && decide (owner < 0x100) && decide (0x11C0000000 ≤ (a - lpddrBase) % ctlBytes)))

/-- Beats of the scrub period (R375). -/
def scrubPeriod (b : Block) (k : Nat) : Nat := fld b (.lpdScrub k) 7 0 * 22500000000

/-- The scrubber may read n bytes at a next: it reads every block in ascending order, one pass in each period (R375; the
order is log 48's). -/
def scrubDue (b : Block) (k a : Nat) : Bool :=
  a == ctlAt k + (lpd b k).scrubAt &&
    ((lpd b k).scrubAt != 0 || (lpd b k).scrubFrom.all fun q => decide (q + scrubPeriod b k ≤ beat b))

/-- The scrubber has queued a read of n bytes. -/
def Lpd.scrubbed (k : Lpd) (q n : Nat) : Lpd :=
  { k with scrubAt := (k.scrubAt + n) % ctlBytes, scrubFrom := if k.scrubAt = 0 then some q else k.scrubFrom }

/-! ## Host requests (12_host.md R346) -/

/-- The edge die that the host path of a controller's die leaves from: E0 for the western dies, E1 for the eastern ones
(01_module.md R16, log 48). -/
def ctlEdge (k : Nat) : Nat := k / 2 % 2

/-- A function's weight: HOSTW; function 0, which has no partition, takes one request a turn (log 48). -/
def hostWeight (b : Block) (f : Nat) : Nat := max 1 (part b f).hostw

/-- The first request of function f. -/
def HostQ.first (q : HostQ) (f : Nat) : Option BarReq := q.reqs.find? fun r => r.f == f

/-- The function served next: the one whose turn it is while its weight lasts, else the next with a request. -/
def HostQ.next (q : HostQ) : Option Nat :=
  if 0 < q.left ∧ (q.first q.turn).isSome then some q.turn
  else ((List.range 17).map fun i => (q.turn + 1 + i) % 17).find? fun f => (q.first f).isSome

/-- The queue without the request that is served next. -/
def HostQ.served (q : HostQ) (weight f : Nat) (r : BarReq) : HostQ :=
  { reqs := q.reqs.erase r, turn := f, left := (if 0 < q.left ∧ q.turn = f then q.left else weight) - 1 }

/-- The request that an edge die sends next, with its function. -/
def nextBar (b : Block) (e : Nat) : Option (Nat × BarReq) :=
  (hostq b e).next.bind fun f => ((hostq b e).first f).map fun r => (f, r)

/-- The 64-byte blocks of some segments wait at the edge dies of their controllers. -/
def Act.queueBar (f : Nat) (write : Bool) (segs : List (Nat × Nat)) : Act :=
  .each (segs.flatMap fun s => (List.range ((s.1 + s.2 - 1) / 64 + 1 - s.1 / 64)).map fun i => (s.1 / 64 + i) * 64)
    fun a => .onHostq (ctlEdge (ctlOf a)) fun q => { q with reqs := q.reqs ++ [{ f := f, addr := a, write := write }] }

/-- A host request reaches its controller's port in its turn. -/
def Act.sendBar (ctl addr : Nat) (write : Bool) : Act :=
  .read fun b => .opt (nextBar b (ctlEdge ctl)) fun x =>
    .when (ctlOf x.2.addr == ctl && x.2.addr == addr && x.2.write == write) (Act.all [
      .onHostq (ctlEdge ctl) (fun q => q.served (hostWeight b x.1) x.1 x.2),
      .onLpd ctl fun k => { k with
        queue := k.queue ++ [{ owner := 0x84, addr := addr, len := 64, write := write, left := 64, data := [] }] }])

/-- LPDDR_REQUEST: a request of 64 to 4,096 bytes arrives and is queued; a write is visible at once (R372), and its
whole blocks are good again (R374). A host BAR request, whose bytes its access has moved, comes from its edge die. -/
def execLpddrRequest (ctl owner port addr len : Nat) (data : Option Bytes) (s : State) :
    Host.Outcome State Fault Refusal :=
  perform (isCtl ctl && decide (port < 4)) (.read fun b =>
    if owner = 0x84 then .when (lpdState b ctl == lpdReady && len == 64) (.sendBar ctl addr data.isSome)
    else .when (lpdState b ctl == lpdReady && decide (64 ≤ len) && decide (len ≤ 4096) && decide (ctlAt ctl ≤ addr) &&
        decide (addr + len ≤ ctlAt ctl + ctlBytes) && mayQueue b owner addr len data.isSome &&
        (owner != 0x83 || (data.isNone && scrubDue b ctl addr)) && data.all (fun d => d.length == len)) (Act.all [
      .onLpd ctl (fun k => { k with
        queue := k.queue ++ [{ owner := owner, addr := addr, len := len, write := data.isSome, left := len
                               data := if data.isSome then [] else storedBytes b addr len }] }),
      .when (data.isNone && !(areaOf b addr len).isEmpty) .bump,
      .when (owner == 0x83) (.onLpd ctl fun k => k.scrubbed (beat b) len),
      .opt data fun d => Act.all [.spoilCkpts [(addr, len)], .setMem addr d, .mendBlocks addr len]])) s

/-! ## Slots (R371, R384) -/

/-- The next n bytes of the requests a test admits, in arrival order: the queue left, and what was carried of each. -/
def carry (who : LpdReq → Bool) : Nat → List LpdReq → List LpdReq × List (LpdReq × Nat)
  | _, [] => ([], [])
  | n, q :: r =>
    if !who q || n = 0 then
      let x := carry who n r
      (q :: x.1, x.2)
    else
      let k := min n q.left
      let x := carry who (n - k) r
      (if k = q.left then x.1 else { q with left := q.left - k } :: x.1, (q, k) :: x.2)

/-- Owners a slot serves in turn, with the bytes it can carry of them (R371, R384). -/
def slotUsers (b : Block) (k pos : Nat) : List ((LpdReq → Bool) × Nat) :=
  let q := (lpd b k).queue
  let own := slotOwner b k pos
  let is (n : Nat) : LpdReq → Bool := fun r => r.owner == n
  let anyCkpt : LpdReq → Bool := fun r => decide (0x100 ≤ r.owner)
  let host : LpdReq → Bool := fun r => r.owner == 0x82 || r.owner == 0x84
  if own = 0x80 then
    if q.any (is 0x80) then
      if q.any anyCkpt then [(is 0x80, 512)] else [(is 0x80, 512), (host, 512)]
    else if q.any anyCkpt then [(anyCkpt, 992)]
    else if q.any host then [(host, 512)] else [(is 0x83, 512)]
  else if own = 0 then [(anyCkpt, 992)]
  else if q.any (is own) then [(is own, 512)] else [(is (0x100 + own), 992)]

/-- A slot's work: its users in turn within its capacity. -/
def slotWork : List ((LpdReq → Bool) × Nat) → Nat → List LpdReq → List LpdReq × List (LpdReq × Nat)
  | [], _, q => (q, [])
  | (who, cap) :: r, used, q =>
    let x := carry who (cap - used) q
    let y := slotWork r (used + (x.2.map (·.2)).foldl (· + ·) 0) x.1
    (y.1, x.2 ++ y.2)

/-- A device address lies in the reserve, where the translation tables stand (13_memory.md R377, R379). -/
def inReserve (a : Nat) : Bool := decide (0x11C0000000 ≤ (a - lpddrBase) % ctlBytes)

/-- Source code of a syndrome (R374): a partition reads the reserve for its walks alone. -/
def lpdSource (q : LpdReq) : Nat :=
  if q.owner = 0x83 then 1 else if 0x100 ≤ q.owner then 4
  else if q.walkOf.isSome || (decide (q.owner < 0x80) && inReserve q.addr) then 3 else if q.owner < 0x80 then 0 else 2

/-- The partition that holds an LPDDR5X address. -/
def partAt (b : Block) (a : Nat) : Option Nat := (owners b).find? fun f => inChunks (part b f) a 1

/-- The partition whose data a read carries: its own, its checkpoint's, the one whose tables a walk reads, or the one whose
chunk an engine or host request reads (11_integrity.md R323, log 48). -/
def LpdReq.part? (b : Block) (q : LpdReq) : Option Nat :=
  if q.owner < 0x80 then some q.owner else if 0x100 ≤ q.owner then some (q.owner - 0x100)
  else if q.walkOf.isSome then q.walkOf else partAt b q.addr

/-- The data a completed read returns, the bytes of uncorrectable blocks open (log 9). -/
def readBack (b : Block) (q : LpdReq) (bad : List Nat) : Bytes :=
  (List.range q.len).map fun i =>
    if bad.contains ((q.addr + i) / 64) then Config.abandonedByte b.freeCtr (q.addr + i) else (q.data[i]?).getD 0

/-- The detection that a read of an uncorrectable block makes (R374); its channel is open (log 9). -/
def ueDet (b : Block) (k source blk : Nat) : Det :=
  { code := 0x0A, uclass := 7, uid := k, unit := 0
    syndrome := BitVec.ofNat 128 (blk % 2 ^ 40 + 0xFF * 2 ^ 40 + (Config.freeWord b.freeCtr).toNat % 8 * 2 ^ 48 +
      source * 2 ^ 56) }

/-- An LPDDR5X detection (R374, R375, 11_integrity.md R310): a read of partition f's data taints it; the scrub's taints
none. -/
def Act.lpdDetection (k source : Nat) (f : Option Nat) (d : Det) : Act :=
  .read fun b =>
    let t := partRecord b (f.getD 0x1F)
    let perm := permanentNow b 7 k d.code && !isFenced b 7 k
    if d.code = 0x0A ∧ source = 1 then Act.all [
      .detect 7 k d.code,
      .read (fun b => .log { t with uclass := 7, unit := k, detector := d.code, disp := if perm then 4 else 0
                                    hist := histTotal b 7 k, syndrome := d.syndrome.toNat }),
      .when perm (.fence 7 k 4)]
    else .detection t d f (beat b)

/-- The uncorrectable blocks that a read of device-address segments meets. -/
def badIn (b : Block) (segs : List (Nat × Nat)) : List Nat :=
  (segs.flatMap fun s => (lpd b (ctlOf s.1)).bad.filter fun blk =>
    decide (s.1 / 64 ≤ blk) && decide (blk * 64 < s.1 + s.2)).eraseDups

/-- A read of segments at once reports the uncorrectable blocks it meets, each a detection at its controller (R374); what
the next read of them returns is open again (log 9). -/
def Act.readBad (f : Option Nat) (source : Nat) (segs : List (Nat × Nat)) : Act :=
  .read fun b => .when (!(badIn b segs).isEmpty) (Act.all [
    .each (badIn b segs) (fun blk => Act.all [
      .count (.lpdEccUncorr (ctlOf (blk * 64))) 1,
      .lpdDetection (ctlOf (blk * 64)) source f (ueDet b (ctlOf (blk * 64)) source blk)]),
    .bump])

/-- The block a detection names. -/
def detBlock (d : Det) : Nat := d.syndrome.toNat % 2 ^ 40

/-- The detection as its controller records it: the block and channel are the check's, the symbol is 0xFF for an uncorrectable
error, and the source is the request's (R374). -/
def asRead (d : Det) (source : Nat) : Det :=
  { d with syndrome := BitVec.ofNat 128 (detBlock d +
      (if d.code = 0x0A then 0xFF else d.syndrome.toNat / 2 ^ 40 % 256) * 2 ^ 40 + d.syndrome.toNat / 2 ^ 48 % 8 * 2 ^ 48 +
      source * 2 ^ 56) }

/-- A corrected block is written back in its owner's next slot (R374). -/
def writeBack (q : LpdReq) (blk : Nat) : LpdReq :=
  { owner := q.owner, addr := blk * 64, len := 64, write := true, left := 64, data := [] }

/-- A read whose last byte has been carried: its data goes out, and its errors are reported; `d` is a check that fires
on it. A scrub read that reaches the controller's end completes a pass (R375). -/
def Act.readDone (k : Nat) (q : LpdReq) (d : Option Det) : Act :=
  .read fun b =>
    let inIt (blk : Nat) : Bool := decide (q.addr / 64 ≤ blk) && decide (blk ≤ (q.addr + q.len - 1) / 64)
    let mine := match d with
      | some x => if (x.code == 0x09 || x.code == 0x0A) && x.uclass == 7 && x.uid == k && inIt (detBlock x) then some x else none
      | none => none
    let fresh := match mine with
      | some x => if x.code = 0x0A ∧ !(lpd b k).bad.contains (detBlock x) then [detBlock x] else []
      | none => []
    let old := if q.owner = 0x84 then [] else (lpd b k).bad.filter inIt
    let f := q.part? b
    Act.all [
      .when (!old.isEmpty || !fresh.isEmpty) .bump,
      .onLpd k (fun c => { c with bad := c.bad ++ fresh }),
      .when (q.owner != 0x83 && q.data.length == q.len) (.emit (.lpdData k (readBack b q (old ++ fresh)))),
      .count (.lpdEccUncorr k) (old.length + fresh.length),
      .each old (fun blk => .lpdDetection k (lpdSource q) f (ueDet b k (lpdSource q) blk)),
      .opt mine (fun x => .when (x.code == 0x09 || !fresh.isEmpty) (Act.all [
        .when (x.code == 0x09) (Act.all [.count (.lpdEccCorr k) 1,
          .onLpd k fun c => { c with queue := writeBack q (detBlock x) :: c.queue }]),
        .lpdDetection k (lpdSource q) f (asRead x (lpdSource q))])),
      .when (q.owner == 0x83 && q.addr + q.len == ctlAt k + ctlBytes) (.count (.lpdScrubPasses k) 1)]

/-- The slot at position `pos` of the present frame begins in the present beat and has not passed: frames are 3 beats from
beats whose count is a multiple of 3, a slot is 12 core cycles (R371, R386). -/
def slotNow (b : Block) (k pos : Nat) : Bool :=
  beat b % 3 == pos * 12 / 256 && decide ((lpd b k).nextSlot ≤ beat b / 3 * 64 + pos)

/-- LPDDR_SLOT_SERVICE: slot `pos` of the frame carries up to 512 bytes of its owner's queue (R371, R372). -/
def execLpddrSlotService (ctl pos : Nat) (d : Option Det) (s : State) : Host.Outcome State Fault Refusal :=
  perform (isCtl ctl && decide (pos < 64)) (.read fun b => .when (lpdState b ctl == lpdReady && slotNow b ctl pos) (
    let x := slotWork (slotUsers b ctl pos) 0 (lpd b ctl).queue
    let sum (w : Bool) : Nat := ((x.2.filter fun y => y.1.write == w).map (·.2)).foldl (· + ·) 0
    Act.all [
      .onLpd ctl (fun k => { k with queue := x.1, nextSlot := beat b / 3 * 64 + pos + 1 }),
      .count (.lpdRdBytes ctl) (sum false),
      .count (.lpdWrBytes ctl) (sum true),
      .each (x.2.filter fun y => !y.1.write && y.2 == y.1.left) fun y => .readDone ctl y.1 d])) s

/-! ## Training (R370) -/

/-- A training's outcome: the controller is ready with all channels, or off for the session. -/
def Act.trained (k : Nat) (ok : Bool) : Act :=
  .read fun b => .when (!isFenced b 7 k) (Act.all [
    .setLpdState k (if ok then lpdReady else lpdFailed), .setFld (.lpdStatus k) 27 20 (if ok then 0xFF else 0)])

/-- A write of LPD_TRN_OVR by function f with GO set: the trims are held, and the controller is trained again with them;
while a partition that holds chunks there is LOADED, RUNNING or PAUSED the write is discarded and logged (R370). -/
def Act.trnGo (f ctl v : Nat) (ok : Bool) : Act :=
  .read fun b =>
    let holds (g : Nat) : Bool :=
      ((Machine.part b g).st == .loaded || (Machine.part b g).st == .running || (Machine.part b g).st == .paused) &&
        (Machine.part b g).chunks.any fun x => x.1 == ctl
    if f ≠ 0 ∨ (owners b).any holds then .logAccess f (Reg.lpdTrnOvr ctl).addr
    else .when (bitOf v 30) (Act.all [
      .setReg (.lpdTrnOvr ctl) (v % 2 ^ 23 + bitsOf v 31 31 * 2 ^ 31),
      .trained ctl ok])

/-- LPD_TRN_GO: function 0 writes LPD_TRN_OVR with GO set. -/
def execLpdTrnGo (f ctl : Nat) (value : Word) (trained : Bool) (s : State) : Host.Outcome State Fault Refusal :=
  perform (isFunc f && isCtl ctl) (.whenB (fun b => answers b f) (.trnGo f ctl value.toNat trained)) s

end Sys2Proof.Machine
end

