-- ==== Sys2Proof/Machine/Checkpoint.lean ====
section
/-! DEFINITION. The in-module checkpoint (13_memory.md R383, R385, 06_streams.md R169): what a generation holds, and
how it is restored on a variant's cores (09_schedules.md R255). Inside a generation, agents and ring users name their
core by its logical number. -/

namespace Sys2Proof.Machine

/-- Offsets in a core's register frame that travel with the logical core: scale slots, SEQ_STATUS, SEQ_INVOC, SEQ_CREC,
SEQ_LOOP, SEQ_RS, STR_STATUS, STR_CTX and the rings (R255, R383). -/
def travels (o : Nat) : Bool :=
  (decide (0x400 ≤ o) && decide (o < 0x800)) || o == 0x3000 || o == 0x3008 || (decide (0x3040 ≤ o) && decide (o < 0x3300)) ||
  o == 0x4000 || (decide (0x4040 ≤ o) && decide (o < 0x4050)) || (decide (0x4100 ≤ o) && decide (o < 0x4200))

/-- The first device address of core c's register frame is this much above 0. -/
def frameAt (c : Nat) : Nat := coreBase c

/-- An agent with its core renamed. -/
def Agent.renamed (g : Nat → Option Nat) (a : Agent) : Agent :=
  match a with
  | .seq c => .seq ((g c).getD c)
  | .drain c i => .drain ((g c).getD c) i
  | .ctx c x => .ctx ((g c).getD c) x
  | a => a

/-- A ring user with its core renamed; receivers and engines have none. -/
def renameUser (g : Nat → Option Nat) (x : Nat × Nat × Nat × Nat) : Nat × Nat × Nat × Nat :=
  if x.2.1 ≤ 2 then (x.1, x.2.1, (g x.2.2.1).getD x.2.2.1, x.2.2.2) else x

/-- The control storage that travels, users renamed; everything that belongs to the place is as in `home`. -/
def CoreState.travel (g : Nat → Option Nat) (s home : CoreState) : CoreState :=
  { home with
    steps := s.steps, durs := s.durs, progs := s.progs, loops := s.loops, seqWaiting := s.seqWaiting, ended := s.ended,
    ringPub := s.ringPub.map (renameUser g), ringRel := s.ringRel.map (renameUser g), ctxs := s.ctxs,
    inv := none, arr0 := ArrState.reset, arr1 := ArrState.reset, vecReplay := none, moves := [], inq := [], tlb := [],
    arbTried := 0, escalated := none, kept := [] }

/-- Entries of a sorted list with keys in [lo, hi), keys made relative. -/
def cut {α : Type} (l : List (Nat × α)) (lo hi : Nat) : List (Nat × α) :=
  (l.filter fun e => decide (lo ≤ e.1) && decide (e.1 < hi)).map fun e => (e.1 - lo, e.2)

/-- Bytes of scratch per core (01_module.md R20). -/
def scratchBytes : Nat := 0x140000

/-- What a generation holds of core c. -/
def snapCore (b : Block) (g : Nat → Option Nat) (c : Nat) : CoreSnap :=
  { regs := (cut b.regs (frameAt c) (frameAt c + 0x10000)).filter fun e => travels e.1
    scratch := cut b.mem (scratchAt c 0) (scratchAt c scratchBytes)
    core := (Machine.core b c).travel g CoreState.reset }

/-- The waiters of an object renamed. -/
def ObjState.renamed (g : Nat → Option Nat) (s : ObjState) : ObjState :=
  { s with queue := s.queue.map (fun w => { w with agent := w.agent.renamed g })
           held := s.held.map (fun w => { w with agent := w.agent.renamed g }) }

/-- What a generation holds of a partition (R383). -/
def snapshot (b : Block) (f gen : Nat) : Ckpt :=
  let p := part b f
  let cs := coresOf b f
  let g (c : Nat) : Option Nat := cs.findIdx? (· == c)
  { gen := gen, began := beat b,
    pendingEpochs := p.sentEpochs.map (2 * ·) ++ p.recvEpochs.map (2 * · + 1),
    beatsRun := p.beatsRun, qidx := (Machine.dir b f).qidx, qwait := (Machine.dir b f).qwait,
    cores := cs.map (snapCore b g),
    objs := (allObjsOf b f).filterMap fun o => (relObj b f o).map fun r =>
      (r, BitVec.ofNat 32 (rd b (.synObjCfg o)), BitVec.ofNat 32 (rd b (.synObjState o)),
       BitVec.ofNat 32 (rd b (.synObjWaiters o)), (Machine.obj b o).renamed g) }

/-- Participants of a barrier per plot under a placement (06_streams.md R161). -/
def plotShares (im : Image) (cores : List Nat) (o : Nat) : List (Nat × Nat) :=
  (im.parts.filter fun x => x.1 == o).foldl (fun m x =>
    match cores[x.2.2]? with
    | none => m
    | some c => smPut m (plotOf c) (smGetD m (plotOf c) 0 + 1)) []

/-- Arrivals of the plots that have sent their combined arrival. -/
def fullPlots (s : ObjState) : Nat :=
  (s.shares.filter fun x => x.2 != 0 && smGetD s.localCnt x.1 0 == x.2).foldl (fun n x => n + x.2) 0

/-- An object's state on new cores: shares and local counts by the new plots, bounds at B again (R169). -/
def ObjState.placed (s : ObjState) (g : Nat → Option Nat) (shares : List (Nat × Nat)) (bound : Nat) : ObjState :=
  let t := s.renamed g
  let again (w : Waiter) : Waiter := { w with left := w.left.map fun _ => bound + 1 }
  { t with
    queue := t.queue.map again, held := t.held.map again, shares := shares,
    localCnt := t.held.foldl (fun m w =>
      match w.agent.core with
      | none => m
      | some c => smPut m (plotOf c) (smGetD m (plotOf c) 0 + 1)) [] }

/-- A core goes back to holding no image; what belongs to its place stays. -/
def Act.clearCore (c : Nat) : Act :=
  Act.all [
    .onCore c (fun s => CoreState.reset.travel some { s with entryBeat := 0 }),
    .resetRegs (fun a => !(decide (frameAt c ≤ a) && decide (a < frameAt c + 0x10000) && travels (a - frameAt c) &&
      !(decide (a - frameAt c < 0x800) || decide (0x3100 ≤ a - frameAt c) && decide (a - frameAt c < 0x3300)))),
    .setFld (.coreStatus c) 0 0 0, .idleArr c 0, .idleArr c 1]

/-- A logical core's snapshot is placed on core c. -/
def Act.placeCore (c : Nat) (g : Nat → Option Nat) (k : CoreSnap) : Act :=
  Act.all [
    .onCore c (fun s => k.core.travel g s),
    .resetRegs (fun a => !(decide (frameAt c ≤ a) && decide (a < frameAt c + 0x10000) && travels (a - frameAt c))),
    .each k.regs (fun e => .opt (Reg.ofAddr (frameAt c + e.1)) fun r => .setReg r e.2.toNat),
    .resetMem (fun a => !(decide (scratchAt c 0 ≤ a) && decide (a < scratchAt c scratchBytes))),
    .each k.scratch fun e => .setScr c e.1 [e.2]]

/-- Messages of a partition leave the network. -/
def Act.dropMessages (f : Nat) : Act :=
  .read fun b => .units fun u => { u with syncNet := u.syncNet.filter fun m => !msgOf b f m }

/-- An object takes its saved state on the new cores. -/
def Act.placeObj (f : Nat) (im : Image) (cores : List Nat) (x : Nat × Word × Word × Word × ObjState) : Act :=
  .read fun b => .opt (physObj b f x.1) fun o =>
    let s := x.2.2.2.2
    let bound := x.2.1.toNat % 65536
    let t := s.placed (fun l => cores[l]?) (plotShares im cores x.1) bound
    Act.all [
      .setReg (.synObjCfg o) x.2.1.toNat,
      .setReg (.synObjState o) x.2.2.1.toNat,
      .onObj o (fun _ => t),
      .when (decide (x.2.1.toNat / 2 ^ 30 = 2)) (.setFld (.synObjState o) 14 0
        (x.2.2.1.toNat % 2 ^ 15 - fullPlots s + fullPlots t)),
      .showWaiters o]

/-- A generation is restored on variant v and the partition becomes PAUSED (R255, R358). -/
def Act.restore (f v : Nat) (k : Ckpt) : Act :=
  .read fun b =>
    match (Machine.part b f).image with
    | none => .nop
    | some im =>
      let pl := plotList (Machine.part b f).plots
      let cs := physCores pl ((im.place[v]?).getD [])
      Act.all [
        .dropMessages f,
        .closeTaints f,
        .each (coresOf b f) (fun c => Act.all [.abandonReplays c, .clearCore c]),
        .each (cs.zip k.cores) (fun x => .placeCore x.1 (fun l => cs[l]?) x.2),
        .each k.objs (.placeObj f im cs),
        .onPart f (fun p => { p with
          variant := v, beatsRun := k.beatsRun, taint := none, poisonedBy := none, replace := false, pausing := none,
          halted := none, pauseBeats := 0, started := true, fltOpen := true }),
        .onDir f (fun d => { d with qidx := k.qidx, qwait := k.qwait }),
        .setPState f .paused]

/-- Bytes of a generation in one plot: the scratch and the control storage of its 400 cores (R384: 64 plots move
34,340,864,000 bytes). -/
def genBytes : Nat := 536576000

/-- The transfer of generation g of partition f, to or from its half of each chunk of the checkpoint area: requests that
only slots of R384 serve (R383, R384, log 52). -/
def Act.queueCkpt (f g : Nat) (write : Bool) : Act :=
  .read fun b =>
    let p := Machine.part b f
    .each (p.chunks.take (plotList p.plots).length) fun x =>
      let a := chunkAt x + g % 2 * 2 ^ 29
      Act.all [
        .onLpd x.1 (fun k => { k with
          queue := k.queue ++ [{ owner := 0x100 + f, addr := a, len := genBytes, write := write, left := genBytes, data := [] }] }),
        .when write (.mendBlocks a genBytes)]

/-- The rollback or re-placement of a partition (R255, R325, R326): the lowest-numbered valid variant and the latest
valid generation that began at an admitted beat, transferred back; FAULTED where either is missing. -/
def Act.rollback (f : Nat) (ok : Nat → Bool) : Act :=
  .read fun b =>
    let p := Machine.part b f
    match latestCkpt p ok, p.image.bind (validVariant b f) with
    | some k, some v => if memoryLost b p then .ruin f else .seq (.restore f v k) (.queueCkpt f k.gen false)
    | _, _ => .ruin f

end Sys2Proof.Machine
end

