-- ==== Sys2Proof/Machine/Functions.lean ====
section
/-! DEFINITION. The functions of 04_core.md R118 on exact finite non-zero operands. A result that is rational is
exact. Every other result is irrational, so it lies strictly between representable values and their midpoints; it is
computed to 1,400 fractional bits and given an odd last bit, so that one rounding of the number here is the correct
rounding of the function (log 14). -/

namespace Sys2Proof.Machine

/-- Fractional bits of the fixed-point numbers of this file. -/
def fxBits : Nat := 1400

/-- Fractional bits of the reduction by 2π. -/
def redBits : Nat := 1800

/-- The floor of q × 2^w. -/
def fxOf (q : Q) (w : Nat) : Int := Q.floor { q with exp := q.exp + w }

/-- A fixed-point number as an exact one that lies on no grid: half a last unit is added. -/
def offGrid (a : Int) : Q := { num := 2 * a + 1, den := 1, exp := -((fxBits : Int) + 1) }

/-- Larger than anything a destination, a scale or a block exponent can hold; and smaller. -/
def huge : Q := Q.pow2 1600
def tiny : Q := Q.pow2 (-1600)

/-- Σ of z, z^3 / 3, z^5 / 5, … from the term with divisor n on. -/
def atanhSum (fuel n : Nat) (zp z2 acc : Int) : Int :=
  match fuel with
  | 0 => acc
  | k + 1 => atanhSum k (n + 2) (zp * z2 / 2 ^ fxBits) z2 (acc + zp / n)

/-- ln 2. -/
def ln2Fx : Int := 2 * atanhSum 500 1 (2 ^ fxBits / 3) (2 ^ fxBits / 9) 0

/-- Σ of ±(1 / k^n) / n, n odd, with w fractional bits. -/
def atanSum (fuel n : Nat) (k : Int) (t acc : Int) (plus : Bool) : Int :=
  match fuel with
  | 0 => acc
  | j + 1 => atanSum j (n + 2) k (t / (k * k)) (if plus then acc + t / n else acc - t / n) (!plus)

/-- atan (1 / k) with w fractional bits. -/
def atanInv (w : Nat) (k : Int) : Int := atanSum (w / 4) 1 k (2 ^ w / k) 0 true

/-- π with w fractional bits (Machin). -/
def piFx (w : Nat) : Int := 16 * atanInv w 5 - 4 * atanInv w 239

/-- The power series of e^r from term n on, for r ≥ 0. -/
def expSum (fuel n : Nat) (r t acc : Int) : Int :=
  match fuel with
  | 0 => acc
  | k + 1 => let t := t * r / 2 ^ fxBits / n; expSum k (n + 1) r t (acc + t)

/-- e^r for a fixed-point r of 0 to 1. -/
def expFrac (r : Int) : Int := expSum 300 1 r (2 ^ fxBits) (2 ^ fxBits)

/-- e^q. -/
def expQ (q : Q) : Q :=
  if (Q.ofInt 1100).lt q then huge
  else if q.lt (Q.ofInt (-1100)) then tiny
  else
    let x := fxOf q fxBits
    let k := x / ln2Fx
    let o := offGrid (expFrac (x - k * ln2Fx))
    { o with exp := o.exp + k }

/-- q is an integer. -/
def isInteger (q : Q) : Bool := ((Q.ofInt q.floor).sub q).isZero

/-- 2^q. -/
def exp2Q (q : Q) : Q :=
  if (Q.ofInt 1500).lt q then huge
  else if q.lt (Q.ofInt (-1500)) then tiny
  else if isInteger q then Q.pow2 q.floor
  else
    let k := q.floor
    let o := offGrid (expFrac (fxOf (q.sub (Q.ofInt k)) fxBits * ln2Fx / 2 ^ fxBits))
    { o with exp := o.exp + k }

/-- ln q for q > 0 other than 1, in fixed point. -/
def lnFx (q : Q) : Int :=
  let e := q.binade
  let m := fxOf { q with exp := q.exp - e } fxBits
  let z := (m - 2 ^ fxBits) * 2 ^ fxBits / (m + 2 ^ fxBits)
  e * ln2Fx + 2 * atanhSum 500 1 z (z * z / 2 ^ fxBits) 0

/-- q = 2^(its binade). -/
def isPow2 (q : Q) : Bool := ((Q.pow2 q.binade).sub q).isZero

/-- ln q for q > 0. -/
def lnQ (q : Q) : Q := if isPow2 q && q.binade == 0 then Q.zero else offGrid (lnFx q)

/-- log₂ q for q > 0. -/
def log2Q (q : Q) : Q := if isPow2 q then Q.ofInt q.binade else (offGrid (lnFx q)).div (offGrid ln2Fx)

/-- ⌊√n⌋ of a number below 4^bits, from the highest bit down. -/
def sqrtBits (bits n r : Nat) : Nat :=
  match bits with
  | 0 => r
  | b + 1 => sqrtBits b n (if (r + 2 ^ b) * (r + 2 ^ b) ≤ n then r + 2 ^ b else r)

/-- ⌊√n⌋. -/
def isqrt (n : Nat) : Nat := sqrtBits (Nat.log2 n / 2 + 1) n 0

/-- √q for q > 0: exact where q is a square, else strictly between two neighbouring 400-bit fractions. -/
def sqrtQ (q : Q) : Q :=
  let odd := q.exp % 2
  let n := q.num.natAbs * q.den * 2 ^ odd.toNat
  let h := (q.exp - odd) / 2
  let s := isqrt n
  if s * s = n then { num := s, den := q.den, exp := h }
  else { num := 2 * (isqrt (n * 4 ^ 400) : Nat) + 1, den := q.den, exp := h - 401 }

/-- The Taylor series of sine or cosine, from the term with factorial n on. -/
def trigSum (fuel n : Nat) (r2 t acc : Int) : Int :=
  match fuel with
  | 0 => acc
  | k + 1 => let t := -(t * r2 / 2 ^ fxBits / (n * (n + 1))); trigSum k (n + 2) r2 t (acc + t)

/-- q mod 2π. -/
def modTwoPi (q : Q) : Int := (fxOf q redBits % (2 * piFx redBits)) / 2 ^ (redBits - fxBits)

/-- sin q. -/
def sinQ (q : Q) : Q := let r := modTwoPi q; offGrid (trigSum 300 2 (r * r / 2 ^ fxBits) r r)

/-- cos q. -/
def cosQ (q : Q) : Q := let r := modTwoPi q; offGrid (trigSum 300 1 (r * r / 2 ^ fxBits) (2 ^ fxBits) (2 ^ fxBits))

/-- (e^2q − 1) / (e^2q + 1). -/
def tanhQ (q : Q) : Q :=
  let e := expQ { q with exp := q.exp + 1 }
  (e.sub (Q.ofInt 1)).div (e.add (Q.ofInt 1))

/-- 1 / (1 + e^−q). -/
def sigmoidQ (q : Q) : Q := (Q.ofInt 1).div ((Q.ofInt 1).add (expQ q.neg))

/-- q × sigmoid q. -/
def siluQ (q : Q) : Q := q.mul (sigmoidQ q)

/-- Σ x^n / n!! over odd n, from the term after divisor n on. -/
def oddSum (fuel n : Nat) (x2 t acc : Int) : Int :=
  match fuel with
  | 0 => acc
  | k + 1 => let t := t * x2 / 2 ^ fxBits / (n + 2); oddSum k (n + 2) x2 t (acc + t)

/-- q × Φ(q), with Φ(q) = 1/2 + φ(q) × Σ q^n / n!!. -/
def geluQ (q : Q) : Q :=
  if (Q.ofInt 40).lt q then q.mul ((Q.ofInt 1).sub tiny)
  else if q.lt (Q.ofInt (-40)) then tiny.neg
  else
    let q2 := q.mul q
    let x := fxOf q fxBits
    let series := offGrid (oddSum 4000 1 (fxOf q2 fxBits) x x)
    let density := (expQ { q2 with num := -q2.num, exp := q2.exp - 1 }).div (sqrtQ (offGrid (2 * piFx fxBits)))
    q.mul ((Q.dy 1 (-1)).add (density.mul series))

end Sys2Proof.Machine
end

