-- ==== Sys2Proof/Machine/Vector.lean ====
section
/-! DEFINITION. What the vector unit computes for one row: operands (05_step_tables.md R140, R141), the operations of
04_core.md R117 to R119 and R423, and how a row is written. -/

namespace Sys2Proof.Machine

/-! ## Operands -/

/-- A decoded value times its tensor scale, exactly (R140). ∞ × 0 is an invalid operation: its NaN raises invalid
where an arithmetic operation takes it, as a signalling one does. -/
def scaled (v s : Val) : Val :=
  if v.isNaN then v else if s.isNaN then s else if invalidProduct v s then .nan 0x7FC00000 true else mulVal v s

/-- A stored or immediate element as an operand, and whether it was flushed (R117). -/
def operand (m : Mode) (f code wb : Nat) (s : Val) : Val × Bool :=
  if m.flushes && wb != 255 && isSubnormal f code then (scaled (.zero (bitOf code (fmtBits f - 1))) s, true)
  else (scaled (decodeElem f code wb) s, false)

/-- One operand of each column of a row; columns the test refuses are not decoded and read as +0. -/
structure Operands where
  vals : List Val
  cnt : Counters

/-- Operands from a list of codes with block exponents. -/
def operandsOf (m : Mode) (f : Nat) (s : Val) (present : Nat → Bool) (l : List (Nat × Nat)) : Operands :=
  let xs := (l.zip (List.range l.length)).map fun x =>
    if present x.2 then operand m f x.1.1 x.1.2 s else (.zero false, false)
  { vals := xs.map (·.1), cnt := Counters.flushes ((xs.filter fun x => x.2).length) }

/-- Row r of a tensor. -/
def viewRow (b : Block) (m : Mode) (v : View) (s : Val) (r n : Nat) (present : Nat → Bool) : Operands :=
  operandsOf m v.fmt s present ((List.range n).map fun i => (v.code b r i, v.wb b r i))

/-- Row r of X, and of Y: YIMM for every element where Y_ADDR is none (R140). -/
def xRow (b : Block) (c : Nat) (i : Invocation) (bat r : Nat) (present : Nat → Bool) : Operands :=
  viewRow b (arithOf i.entry) (vecX c i.entry bat) (val32 i.sa.toNat) r (natAt i.ext 1) present

def yRow (b : Block) (c : Nat) (i : Invocation) (bat r : Nat) (present : Nat → Bool) : Operands :=
  let e := i.entry
  if (granule (ef e 97 81)).isNone then
    operandsOf (arithOf e) 0 (val32 i.sb.toNat) present (List.replicate (natAt i.ext 1) (ef e 307 276, 127))
  else viewRow b (arithOf e) (vecY c e bat) (val32 i.sb.toNat) r (natAt i.ext 1) present

/-- First byte of AUX. -/
def auxAt (e : BitVec 512) : Nat := ef e 379 363 * 16

/-- Row r of FMA's addend: Z's format code and shape, no scale, no block exponent (R141). -/
def addendRow (b : Block) (c : Nat) (i : Invocation) (bat r : Nat) : Operands :=
  let e := i.entry
  let z := vecZ c e bat
  let base := auxAt e + bat * ef e 275 260 * 16 + r * z.row
  operandsOf (arithOf e) z.fmt (val32 0x3F800000) (fun _ => true)
    ((List.range (natAt i.ext 1)).map fun k => (elemCode b c base z.fmt k, 127))

/-- SELECT's flag of an element (R141). -/
def selectFlag (b : Block) (c : Nat) (e : BitVec 512) (bat r k : Nat) : Nat :=
  scrWord b c (auxAt e + ((bat * ef e 156 145 + r) * (32 * ef e 167 157) + k) * 4)

/-- SCALE2's n of an element (R141). -/
def scaleInt (b : Block) (c : Nat) (e : BitVec 512) (bat r k : Nat) : Int :=
  if (granule (ef e 97 81)).isNone then signedOf (ef e 307 276) 32
  else signedOf (scrWord b c ((ef e 97 81 + bat * ef e 259 244 + r * ef e 199 184) * 16 + k * 4)) 32

/-! ## Operations -/

/-- An arithmetic operation on operands in their order: the first NaN decides (R117), none is an invalid operation. -/
def arith (m : Mode) (inputs : List Val) (f : Option Val) : OutVal :=
  match nanAmong m inputs with
  | some (v, fl) => { v := v, ovf := false, flush := false, flags := fl }
  | none =>
    match f with
    | some v => OutVal.clean v
    | none => { v := (invalidOp m).1, ovf := false, flush := false, flags := (invalidOp m).2 }

def addArith (m : Mode) (x y : Val) : OutVal := arith m [x, y] (addVal x y)
def subArith (m : Mode) (x y : Val) : OutVal := arith m [x, y] (addVal x y.negate)
def mulArith (m : Mode) (x y : Val) : OutVal := arith m [x, y] (if invalidProduct x y then none else some (mulVal x y))
def maxArith (m : Mode) (x y : Val) : OutVal := arith m [x, y] (some (activate.maxVal x y))
def minArith (m : Mode) (x y : Val) : OutVal := arith m [x, y] (some (activate.minVal x y))

/-- Quotient of two values that are no NaN; none for 0 / 0 and ∞ / ∞. -/
def quotient (x y : Val) : Option Val :=
  let s := x.sign != y.sign
  if (x.isZero && y.isZero) || (x.isInf && y.isInf) then none
  else if x.isInf || y.isZero then some (.inf s)
  else if x.isZero || y.isInf then some (.zero s)
  else some (.fin (x.toQ.div y.toQ))

def divArith (m : Mode) (x y : Val) : OutVal := arith m [x, y] (quotient x y)

def fmaArith (m : Mode) (x y a : Val) : OutVal :=
  arith m [x, y, a] (if invalidProduct x y then none else addVal (mulVal x y) a)

/-- x × 2^n; beyond ±4,000 a further doubling or halving changes no rounding. -/
def scale2Arith (m : Mode) (x : Val) (n : Int) : OutVal :=
  let n := max (-4000) (min 4000 n)
  arith m [x] (some (match x with
    | .fin q => .fin { q with exp := q.exp + n }
    | v => v))

/-- Functions of one operand by SUBOP (R118, R141), on a value that is no NaN; none is an invalid operation. -/
def unary (sub : Nat) (x : Val) : Option Val :=
  let one : Val := .fin (Q.ofInt 1)
  let half : Val := .fin (Q.dy 1 (-1))
  match sub, x with
  | 0x0E, x => quotient one x
  -- SQRT
  | 0x0F, .inf n => if n then none else some (.inf false)
  | 0x0F, .fin q => if q.isNeg then none else some (.fin (sqrtQ q))
  -- RSQRT
  | 0x10, .inf n => if n then none else some (.zero false)
  | 0x10, .zero n => some (.inf n)
  | 0x10, .fin q => if q.isNeg then none else some (.fin (sqrtQ ((Q.ofInt 1).div q)))
  -- EXP, EXP2
  | 0x12, .inf n => some (if n then .zero false else .inf false)
  | 0x12, .zero _ => some one
  | 0x12, .fin q => some (.fin (expQ q))
  | 0x13, .inf n => some (if n then .zero false else .inf false)
  | 0x13, .zero _ => some one
  | 0x13, .fin q => some (.fin (exp2Q q))
  -- LOG, LOG2
  | 0x14, .inf n => if n then none else some (.inf false)
  | 0x14, .zero _ => some (.inf true)
  | 0x14, .fin q => if q.isNeg then none else some (Val.ofQ (lnQ q) false)
  | 0x15, .inf n => if n then none else some (.inf false)
  | 0x15, .zero _ => some (.inf true)
  | 0x15, .fin q => if q.isNeg then none else some (Val.ofQ (log2Q q) false)
  -- SIN, COS
  | 0x16, .inf _ => none
  | 0x16, .fin q => some (.fin (sinQ q))
  | 0x17, .inf _ => none
  | 0x17, .zero _ => some one
  | 0x17, .fin q => some (.fin (cosQ q))
  -- TANH
  | 0x18, .inf n => some (if n then one.negate else one)
  | 0x18, .fin q => some (.fin (tanhQ q))
  -- SIGMOID
  | 0x19, .inf n => some (if n then .zero false else one)
  | 0x19, .zero _ => some half
  | 0x19, .fin q => some (.fin (sigmoidQ q))
  -- SILU, GELU
  | 0x1A, .inf n => some (if n then .zero true else .inf false)
  | 0x1A, .fin q => some (.fin (siluQ q))
  | 0x1B, .inf n => some (if n then .zero true else .inf false)
  | 0x1B, .fin q => some (.fin (geluQ q))
  | _, v => some v

/-- A value passed on by ABS, NEG, COPYSIGN or SELECT (R423): no flag; a NaN keeps sign and payload in strict mode and
is the mode's NaN in the others. -/
def passOn (m : Mode) (v : Val) : OutVal :=
  match v with
  | .nan b _ => OutVal.clean (if m == .strict then .nan (b ||| 0x00400000#32) false else modeNaN m)
  | v => OutVal.clean v

/-- A comparison's answer and flags (R423): 0x0A EQ, 0x0B LT, 0x0C LE. -/
def compare (m : Mode) (sub : Nat) (x y : Val) : Bool × BitVec 4 :=
  if x.isNaN || y.isNaN then (false, m.keep (flIf (sub != 0x0A || anySignalling [x, y]) flInvalid))
  else (if sub = 0x0A then x.eqv y else if sub = 0x0B then x.lt y else !y.lt x, 0)

/-- The one rounding of the first way (R117): on the FP32 grid, with the mode's limits. -/
def rounded (m : Mode) (o : OutVal) : OutVal := o.step (rnd m o.v)

/-! ## Writing -/

/-- Elements written as FP32 by the first way of R117. -/
def directRow (m : Mode) (vs : List OutVal) : RowOut :=
  let os := vs.map (rounded m)
  { codes := os.map fun o => (word32 o.v).toNat, exps := [],
    tally := Tally.sum (os.map fun o =>
      { cnt := countElem o.v.isNaN o.ovf false o.flush, flags := m.keep o.flags, amax := Q.zero }) }

/-- CONVERT and NORM always convert (R117, 08_attention.md R212). -/
def alwaysConverts (e : BitVec 512) : Bool := opcodeOf e == opConvert || opcodeOf e == opNorm

/-- Results written to Z in one of the two ways of R117. -/
def writeOut (i : Invocation) (vs : List OutVal) : RowOut :=
  let d := Desc.ofByte (ef i.entry 138 131)
  if d.fmt = 0 ∧ (slotOf i.entry).isNone ∧ !alwaysConverts i.entry then directRow (arithOf i.entry) vs
  else convRow (arithOf i.entry) d (val32 i.scale.toNat).toQ vs

/-- What a replay unit writes in the core's scratch and adds to the invocation, or the value of its address fault. -/
structure VecOut where
  puts : List (Nat × Bytes)
  tally : Tally
  fault : Option Nat

/-- Row r of Z from its results, with what decoding its operands counted. -/
def zRow (c : Nat) (i : Invocation) (bat r : Nat) (vs : List OutVal) (cnt : Counters) : VecOut :=
  let o := writeOut i vs
  { puts := rowPuts (vecZ c i.entry bat) r 0 o, tally := o.tally.add (Tally.counts cnt), fault := none }

/-! ## CONVERT and ELEMWISE -/

def allColumns (_ : Nat) : Bool := true

/-- Batch iteration and row of unit u. -/
def batOf (i : Invocation) (u : Nat) : Nat := u / natAt i.ext 0
def rowOf (i : Invocation) (u : Nat) : Nat := u % natAt i.ext 0

/-- CONVERT of a row (R141). -/
def convertUnit (c : Nat) (i : Invocation) (b : Block) (u : Nat) : VecOut :=
  let x := xRow b c i (batOf i u) (rowOf i u) allColumns
  zRow c i (batOf i u) (rowOf i u) (x.vals.map OutVal.clean) x.cnt

/-- An operation of R423, which raises no flag in any mode, whatever its conversion does. -/
def VecOut.silent (o : VecOut) : VecOut := { o with tally := { o.tally with flags := 0 } }

/-- ELEMWISE operations of X alone. -/
def unaryUnit (f : Mode → Val → OutVal) (c : Nat) (i : Invocation) (b : Block) (u : Nat) : VecOut :=
  let x := xRow b c i (batOf i u) (rowOf i u) allColumns
  zRow c i (batOf i u) (rowOf i u) (x.vals.map (f (arithOf i.entry))) x.cnt

/-- ELEMWISE operations of X and Y. -/
def binaryUnit (f : Mode → Val → Val → OutVal) (c : Nat) (i : Invocation) (b : Block) (u : Nat) : VecOut :=
  let x := xRow b c i (batOf i u) (rowOf i u) allColumns
  let y := yRow b c i (batOf i u) (rowOf i u) allColumns
  zRow c i (batOf i u) (rowOf i u) ((x.vals.zip y.vals).map fun p => f (arithOf i.entry) p.1 p.2) (x.cnt.add y.cnt)

/-- FMA. -/
def fmaUnit (c : Nat) (i : Invocation) (b : Block) (u : Nat) : VecOut :=
  let x := xRow b c i (batOf i u) (rowOf i u) allColumns
  let y := yRow b c i (batOf i u) (rowOf i u) allColumns
  let a := addendRow b c i (batOf i u) (rowOf i u)
  zRow c i (batOf i u) (rowOf i u)
    (((x.vals.zip y.vals).zip a.vals).map fun p => fmaArith (arithOf i.entry) p.1.1 p.1.2 p.2)
    ((x.cnt.add y.cnt).add a.cnt)

/-- SELECT. -/
def selectUnit (c : Nat) (i : Invocation) (b : Block) (u : Nat) : VecOut :=
  let x := xRow b c i (batOf i u) (rowOf i u) allColumns
  let y := yRow b c i (batOf i u) (rowOf i u) allColumns
  (zRow c i (batOf i u) (rowOf i u)
    (((x.vals.zip y.vals).zip (List.range x.vals.length)).map fun p =>
      passOn (arithOf i.entry) (if selectFlag b c i.entry (batOf i u) (rowOf i u) p.2 = 0 then p.1.2 else p.1.1))
    (x.cnt.add y.cnt)).silent

/-- SCALE2. -/
def scale2Unit (c : Nat) (i : Invocation) (b : Block) (u : Nat) : VecOut :=
  let x := xRow b c i (batOf i u) (rowOf i u) allColumns
  zRow c i (batOf i u) (rowOf i u)
    ((x.vals.zip (List.range x.vals.length)).map fun p =>
      scale2Arith (arithOf i.entry) p.1 (scaleInt b c i.entry (batOf i u) (rowOf i u) p.2))
    x.cnt

/-- Comparisons write INT32 words (R141). -/
def compareUnit (c : Nat) (i : Invocation) (b : Block) (u : Nat) : VecOut :=
  let x := xRow b c i (batOf i u) (rowOf i u) allColumns
  let y := yRow b c i (batOf i u) (rowOf i u) allColumns
  let rs := (x.vals.zip y.vals).map fun p => compare (arithOf i.entry) (subopOf i.entry) p.1 p.2
  let z := vecZ c i.entry (batOf i u)
  { puts := [(z.base + rowOf i u * z.row, rs.flatMap fun r => leBytes r.1.toNat 4)]
    tally := { cnt := x.cnt.add y.cnt, flags := rs.foldl (fun f r => f ||| r.2) 0, amax := Q.zero }
    fault := none }

/-- The unit of an ELEMWISE SUBOP (R141). -/
def elemUnit (sub : Nat) : Nat → Invocation → Block → Nat → VecOut :=
  match sub with
  | 0x00 => binaryUnit addArith
  | 0x01 => binaryUnit subArith
  | 0x02 => binaryUnit mulArith
  | 0x03 => fmaUnit
  | 0x04 => binaryUnit maxArith
  | 0x05 => binaryUnit minArith
  | 0x06 => fun c i b u => (unaryUnit (fun m x => passOn m x.abs) c i b u).silent
  | 0x07 => fun c i b u => (unaryUnit (fun m x => passOn m x.negate) c i b u).silent
  | 0x08 => fun c i b u => (binaryUnit (fun m x y => passOn m (x.withSign y.sign)) c i b u).silent
  | 0x09 => selectUnit
  | 0x0A => compareUnit
  | 0x0B => compareUnit
  | 0x0C => compareUnit
  | 0x0D => scale2Unit
  | 0x11 => binaryUnit divArith
  | n => unaryUnit fun m x => arith m [x] (unary n x)

/-! ## Reductions (R119) -/

/-- One combining step of a reduction, rounded. -/
def redStep (m : Mode) (sub : Nat) (x y : OutVal) : OutVal :=
  let o := match sub with
    | 0 => addArith m x.v y.v
    | 1 => maxArith m x.v y.v
    | _ => minArith m x.v y.v
  let r := rounded m o
  { v := r.v, ovf := x.ovf || y.ovf || r.ovf, flush := x.flush || y.flush || r.flush,
    flags := x.flags ||| y.flags ||| r.flags }

/-- A lane's first element, rounded by itself. -/
def redFirst (m : Mode) (o : OutVal) : OutVal :=
  let a := arith m [o.v] (some o.v)
  rounded m { a with ovf := o.ovf, flush := o.flush, flags := o.flags ||| a.flags }

/-- A lane takes an element. -/
def laneTake (m : Mode) (sub : Nat) (cur : Option OutVal) (o : OutVal) : Option OutVal :=
  match cur with
  | none => some (redFirst m o)
  | some x => some (redStep m sub x o)

/-- The 32 lanes after the elements, each with its index, in ascending order. -/
def lanesOf (m : Mode) (sub : Nat) (l : List (Nat × OutVal)) : List (Option OutVal) :=
  (List.range 32).map fun k => (l.filter fun x => x.1 % 32 == k).foldl (fun a x => laneTake m sub a x.2) none

/-- One level of the tree. -/
def treeLevel (m : Mode) (sub : Nat) : List (Option OutVal) → List (Option OutVal)
  | x :: y :: r =>
    (match x, y with
     | some x, some y => some (redStep m sub x y)
     | some x, none => some x
     | none, y => y) :: treeLevel m sub r
  | l => l

/-- A reduction over a run; none without an element. -/
def reduceRun (m : Mode) (sub : Nat) (l : List (Nat × OutVal)) : Option OutVal :=
  let t := treeLevel m sub
  ((t (t (t (t (t (lanesOf m sub l))))))[0]?).getD none

/-- A list with its indices. -/
def indexed {α : Type} (l : List α) : List (Nat × α) := (List.range l.length).zip l

/-- REDUCE: with AXIS = 0 one element per row (into a blocked destination, a block of one, log 64), else one row of column results per batch iteration (R141). -/
def reduceUnit (c : Nat) (i : Invocation) (b : Block) (u : Nat) : VecOut :=
  let m := arithOf i.entry
  let sub := subopOf i.entry
  if bitOf i.entry.toNat 380 then
    let rows := (List.range (natAt i.ext 0)).map fun r => xRow b c i u r allColumns
    let col (k : Nat) : OutVal :=
      (reduceRun m sub (indexed (rows.map fun x => OutVal.clean ((x.vals[k]?).getD (.zero false))))).getD
        (OutVal.clean (.zero false))
    zRow c i u 0 ((List.range (natAt i.ext 1)).map col) (rows.foldl (fun n x => n.add x.cnt) Counters.zero)
  else
    let x := xRow b c i (batOf i u) (rowOf i u) allColumns
    zRow c i (batOf i u) (rowOf i u) (reduceRun m sub (indexed (x.vals.map OutVal.clean))).toList x.cnt

/-! ## DIGEST, GATHER and SCATTER (R141, R142, 11_integrity.md R317) -/

/-- The bytes of X in ascending batch iteration, row and column. -/
def xBytes (b : Block) (c : Nat) (i : Invocation) : Bytes :=
  (List.range (natAt i.ext 2)).flatMap fun bat => (List.range (natAt i.ext 0)).flatMap fun r =>
    let v := vecX c i.entry bat
    scr b c (v.base + r * v.row) (natAt i.ext 1 * fmtBits v.fmt / 8)

/-- DIGEST: the last batch iteration's unit writes the digest. -/
def digestUnit (c : Nat) (i : Invocation) (b : Block) (u : Nat) : VecOut :=
  { puts := if u + 1 = natAt i.ext 2 then [((vecZ c i.entry 0).base, leBytes (treeDigest (xBytes b c i)).toNat 8)]
            else []
    tally := Tally.zero, fault := none }

/-- Bytes of a row of a tensor, and of its exponents. -/
def rowBytes (b : Block) (c : Nat) (v : View) (r n : Nat) : Bytes := scr b c (v.base + r * v.row) (n * fmtBits v.fmt / 8)
def rowExps (b : Block) (c : Nat) (v : View) (r n : Nat) : Bytes :=
  match v.xbase with
  | none => []
  | some x => scr b c (x + r * v.xrow) (n / 16)

/-- NaN elements of a row that is moved (02_formats.md R67). -/
def movedNaNs (b : Block) (v : View) (r n : Nat) : Counters :=
  { Counters.zero with nan := ((List.range n).filter fun k => (decodeElem v.fmt (v.code b r k) (v.wb b r k)).isNaN).length }

/-- X and Z of a GATHER or SCATTER entry have one format. -/
def sameFormat (e : BitVec 512) : Bool :=
  decide ((vecX 0 e 0).fmt = (vecZ 0 e 0).fmt) && (vecX 0 e 0).xbase.isSome == (vecZ 0 e 0).xbase.isSome

/-- A GATHER or SCATTER entry whose bytes are open. -/
def movesOpen (e : BitVec 512) : Bool := opcodeOf e == opGather && !sameFormat e

/-- GATHER and SCATTER of row r: the index names X's row, or Z's. Elements move as they are stored; between different
formats the spec states no result, and the bytes are open (log 9). -/
def moveUnit (c : Nat) (i : Invocation) (b : Block) (u : Nat) : VecOut :=
  let e := i.entry
  let bat := batOf i u
  let r := rowOf i u
  let idx := signedOf (scrWord b c (auxAt e + r * 4)) 32
  if idx < 0 ∨ signedOf (ef e 307 276) 32 ≤ idx then
    { puts := [], tally := Tally.zero, fault := some (codeOf idx 32) }
  else
    let k := idx.toNat
    let n := natAt i.ext 1
    let x := vecX c e bat
    let z := vecZ c e bat
    let src := if subopOf e = 0 then k else r
    let dst := if subopOf e = 0 then r else k
    let same := sameFormat e
    let free (a l : Nat) : Bytes := (List.range l).map fun j => Config.abandonedByte b.freeCtr (a + j)
    let za := z.base + dst * z.row
    let data := if same then rowBytes b c x src n else free za (n * fmtBits z.fmt / 8)
    let exps := match z.xbase with
      | none => []
      | some a => [(a + dst * z.xrow, if same then rowExps b c x src n else free (a + dst * z.xrow) (n / 16))]
    { puts := (za, data) :: exps, tally := Tally.counts (if same then movedNaNs b x src n else Counters.zero),
      fault := none }

/-! ## NORM (08_attention.md R210 to R218) -/

/-- Column k of a row is present (R211). -/
def normPresent (i : Invocation) (k : Nat) : Bool := decide (i.kbase + k < i.klen)

/-- First byte of a row's statistics record (R210). -/
def statAt (e : BitVec 512) (bat r : Nat) : Nat := auxAt e + (bat * ef e 156 145 + r) * 16

/-- An exact result with the tags and flags of its inputs. -/
def OutVal.from (o : OutVal) (ins : List OutVal) : OutVal :=
  { v := o.v, ovf := ins.any (·.ovf) || o.ovf, flush := ins.any (·.flush) || o.flush,
    flags := ins.foldl (fun f x => f ||| x.flags) o.flags }

/-- e_of of R212. -/
def eOf (m : Mode) (v mx : OutVal) : OutVal :=
  let d := rounded m ((subArith m v.v mx.v).from [v, mx])
  rounded m ((arith m [d.v] (unary 0x12 d.v)).from [d])

/-- The maximum of the present columns, rounded; an infinity stays, in profile J too, so that a +∞ score gives NaN and
a row without a value above −∞ gives +0, as R213 says (R212; log 30). -/
def rowMax (m : Mode) (vs : List OutVal) : OutVal :=
  let mx := vs.foldl (fun a v => (maxArith m a.v v.v).from [a, v]) (OutVal.clean (.inf true))
  if mx.v.isInf then mx else rounded m mx

/-- The sum over the lanes of e_of of the present columns. -/
def rowSum (m : Mode) (vs : List (Nat × OutVal)) (mx : OutVal) : OutVal :=
  (reduceRun m 0 (vs.map fun x => (x.1, eOf m x.2 mx))).getD (OutVal.clean (.zero false))

/-- m and l of a row, merged with a previous record where there is one (R212, R214). -/
def rowStats (m : Mode) (vs : List (Nat × OutVal)) (old : Option (OutVal × OutVal)) : OutVal × OutVal :=
  let mc := rowMax m (vs.map (·.2))
  match old with
  | none => if mc.v = .inf true then (mc, OutVal.clean (.zero false)) else (mc, rowSum m vs mc)
  | some (mo, lo) =>
    let mn := (maxArith m mo.v mc.v).from [mo, mc]
    if mn.v = .inf true then (mn, OutVal.clean (.zero false))
    else
      let lc := rowSum m vs mn
      if mo.v = .inf true then (mn, lc)
      else
        let e := eOf m mo mn
        let p := rounded m ((mulArith m lo.v e.v).from [lo, e])
        (mn, rounded m ((addArith m p.v lc.v).from [p, lc]))

/-- A word of a record as a value. -/
def statWord (b : Block) (c a : Nat) : OutVal := OutVal.clean (val32 (scrWord b c a))

/-- A NORM row: SUBOP 0 STATS, 1 APPLY, 2 STATS_APPLY, 3 RECOMPUTE. -/
def normUnit (c : Nat) (i : Invocation) (b : Block) (u : Nat) : VecOut :=
  let e := i.entry
  let m := arithOf e
  let sub := subopOf e
  let bat := batOf i u
  let r := rowOf i u
  let x := xRow b c i bat r (normPresent i)
  let vs := indexed (x.vals.map OutVal.clean)
  let here := vs.filter fun p => normPresent i p.1
  let a := statAt e bat r
  let old := if sub = 0 ∧ bitOf (ef e 307 276) 0 then some (statWord b c (a + 4), statWord b c (a + 8)) else none
  let st := if sub = 0 ∨ sub = 2 then rowStats m here old else (statWord b c (a + 4), statWord b c (a + 8))
  let record : List (Nat × Bytes) :=
    if sub = 0 ∨ sub = 2 then [(a + 4, leBytes (word32 st.1.v).toNat 4 ++ leBytes (word32 st.2.v).toNat 4)] else []
  if sub = 0 then
    { puts := record
      tally := { cnt := x.cnt, flags := m.keep (st.1.flags ||| st.2.flags), amax := Q.zero }, fault := none }
  else
    let y := yRow b c i bat r (normPresent i)
    let elem (p : Nat × OutVal) : OutVal :=
      if !normPresent i p.1 || st.1.v == .inf true then OutVal.clean (.zero false)
      else
        let ex := eOf m p.2 st.1
        let q := (divArith m ex.v st.2.v).from [ex, st.2]
        if sub = 3 then
          let q := rounded m q
          let d := subArith m ((y.vals[p.1]?).getD (.zero false)) (statWord b c a).v
          (mulArith m q.v d.v).from [q, d]
        else q
    let o := zRow c i bat r (vs.map elem) (if sub = 3 then x.cnt.add y.cnt else x.cnt)
    { o with puts := record ++ o.puts }

end Sys2Proof.Machine
end

