-- ==== Sys2Proof/Machine/ImageOps.lean ====
section
/-! DEFINITION. POOL and RESIZE (07_image_ops.md R198 to R204): one output row of 32 channels, and one box. -/

namespace Sys2Proof.Machine

/-! ## POOL -/

/-- Rows of 32 channels that a pooling invocation writes, by batch iteration, channel block, depth and height. -/
def poolUnits (i : Invocation) : Nat := natAt i.ext 6 * (convNc i.entry / 32) * natAt i.ext 0 * natAt i.ext 1

/-- A pooling unit's batch iteration, channel block, depth and height. -/
def poolPlace (i : Invocation) (u : Nat) : Nat × Nat × Nat × Nat :=
  let ot := natAt i.ext 0
  let oh := natAt i.ext 1
  let nb := convNc i.entry / 32
  (u / (oh * ot * nb), u / (oh * ot) % nb, u / oh % ot, u % oh)

/-- POOL's FUNC and DIVMODE (R138). -/
def poolAvg (e : BitVec 512) : Bool := bitOf e.toNat 468
def poolInside (e : BitVec 512) : Bool := bitOf e.toNat 469

/-- The taps of one channel of a window: values with the flushes of their decodes (R198). -/
def poolTaps (b : Block) (c : Nat) (i : Invocation) (pad : Nat × Nat) (bat : Nat) (o : Nat × Nat × Nat) (ch : Nat) :
    List (Val × Bool) :=
  let e := i.entry
  let m := arithOf e
  let l := cvInput c e bat
  let s := val32 i.sa.toNat
  (taps e).filterMap fun k =>
    match tapAt e i.ext o k false with
    | some (t, h, w) =>
      let x := l.get b (inputIndex (ef e 316 315) (ef e 356 349) (ef e 367 357) (ef e 378 368) t h w ch)
      some (operand m l.fmt x.1 x.2 s)
    | none => if ef e 318 317 = 0 then none else some (scaled (decodeElem l.fmt pad.1 pad.2) s, false)

/-- A window's result before conversion, and what it counts (R199). -/
def poolResult (i : Invocation) (o : Nat × Nat × Nat) (ts : List (Val × Bool)) : OutVal × Counters :=
  let e := i.entry
  let m := arithOf e
  let vs := ts.map (·.1)
  let inside := ((taps e).filter (tapInside e i.ext o)).length
  let empty := if poolAvg e then poolInside e && inside == 0 else ts.isEmpty
  if empty then (OutVal.clean (.zero false), Counters.zero)
  else
    let cnt := Counters.flushes ((ts.filter fun x => x.2).length)
    if poolAvg e then
      let n := if poolInside e then inside else (taps e).length
      let infs := vs.filter Val.isInf
      let sum : Option Val :=
        match infs with
        | [] => some (match sumVals vs with
          | .fin q => .fin (q.div (Q.ofInt n))
          | v => v)
        | x :: r => if r.any fun y => y.sign != x.sign then none else some x
      (arith m vs sum, cnt)
    else (arith m vs (match vs with
      | [] => some (.zero false)
      | x :: r => some (r.foldl activate.maxVal x)), cnt)

/-- A row of 16 or 32 channels of an output tensor goes to its place; the channels are cut into blocks of its width. -/
def channelPuts (l : Lin) (bo : Nat) (at_ : Nat → Nat) (r : RowOut) : List (Nat × Bytes) :=
  (List.range (r.codes.length / bo)).flatMap fun k =>
    linPuts l (at_ (k * bo)) { r with codes := (r.codes.drop (k * bo)).take bo
                                      exps := (r.exps.drop (k * bo / 16)).take (bo / 16) }

/-- POOL of one output row of 32 channels. -/
def poolUnit (c : Nat) (i : Invocation) (b : Block) (u : Nat) : VecOut :=
  let e := i.entry
  let m := arithOf e
  let (bat, cb, t, h) := poolPlace i u
  let pad := if ef e 318 317 = 1 then padConst e m i.extw else (0, 127)
  let l := cvOutput c e bat
  let one (w : Nat) : List (Nat × Bytes) × Tally :=
    let xs := (List.range 32).map fun k => poolResult i (t, h, w) (poolTaps b c i pad bat (t, h, w) (32 * cb + k))
    let o := convRow m (Desc.ofByte (ef e 138 131)) (val32 i.scale.toNat).toQ (xs.map (·.1))
    (channelPuts l (outBlock e) (fun k => outIndex e (t, h, w) (32 * cb + k)) o,
     o.tally.add (Tally.counts (xs.foldl (fun n x => n.add x.2) Counters.zero)))
  let rs := (List.range (natAt i.ext 2)).map one
  { puts := rs.flatMap (·.1), tally := Tally.sum (rs.map (·.2)), fault := none }

/-! ## RESIZE -/

/-- A box record (R201): Y0, X0, Y1, X1 and the batch image. -/
structure Box where
  y0 : Val
  x0 : Val
  y1 : Val
  x1 : Val
  bidx : Nat

/-- Box n of the list. -/
def boxAt (b : Block) (c : Nat) (e : BitVec 512) (n : Nat) : Box :=
  let a := ef e 97 81 * 16 + 32 * n
  { y0 := val32 (scrWord b c a), x0 := val32 (scrWord b c (a + 4)), y1 := val32 (scrWord b c (a + 8)),
    x1 := val32 (scrWord b c (a + 12)), bidx := scrWord b c (a + 16) }

/-- A coordinate of sample r of n over an extent of `size`, on the grid of 2^-16 (R202). -/
def sampleAt (lo hi : Q) (size n r : Nat) : Q :=
  let k := Q.ofInt ((size : Int) - 1)
  let y :=
    if 1 < n then (lo.mul k).add (((Q.ofInt r).mul ((hi.sub lo).mul k)).div (Q.ofInt ((n : Int) - 1)))
    else ((lo.add hi).mul k).mul (Q.dy 1 (-1))
  y.roundFix (-16) .nearestEven

/-- A value is finite. -/
def Val.isFinite (v : Val) : Bool := !v.isNaN && !v.isInf

/-- The row or column pair a coordinate samples, each with its weight; a zero weight is omitted (R203). -/
def tapPair (y : Q) : List (Nat × Q) :=
  let lo := y.floor
  let f := y.sub (Q.ofInt lo)
  (lo.toNat, (Q.ofInt 1).sub f) :: (if f.isZero then [] else [(lo.toNat + 1, f)])

/-- The sample of a channel (R203), before conversion, and what it counts. -/
def sampleVal (b : Block) (i : Invocation) (img : Lin) (y x : Q) (ch : Nat) : OutVal × Counters :=
  let e := i.entry
  let m := arithOf e
  let get (r k : Nat) : Val × Bool :=
    let z := img.get b (inputIndex (ef e 316 315) 1 (ef e 328 318) (ef e 339 329) 0 r k ch)
    operand m img.fmt z.1 z.2 (val32 i.sa.toNat)
  if bitOf e.toNat 317 then
    let ts := (tapPair y).flatMap fun p => (tapPair x).map fun q => (get p.1 q.1, p.2.mul q.2)
    let vs := ts.map fun t => t.1.1
    let infs := vs.filter Val.isInf
    let sum : Option Val :=
      match infs with
      | [] => some (sumVals (ts.map fun t => mulVal t.1.1 (.fin t.2)))
      | a :: r => if r.any fun z => z.sign != a.sign then none else some a
    (arith m vs sum, Counters.flushes ((ts.filter fun t => t.1.2).length))
  else
    let half := Q.dy 1 (-1)
    let v := get (y.add half).floor.toNat (x.add half).floor.toNat
    (OutVal.clean v.1, Counters.flushes v.2.toNat)

/-- RESIZE of one box. -/
def resizeUnit (c : Nat) (i : Invocation) (b : Block) (u : Nat) : VecOut :=
  let e := i.entry
  let bx := boxAt b c e u
  if natAt i.ext 1 ≤ bx.bidx then { puts := [], tally := Tally.zero, fault := some bx.bidx }
  else
    let oh := ef e 356 349
    let ow := ef e 364 357
    let ih := ef e 328 318
    let iw := ef e 339 329
    let nch := 16 * ef e 348 340
    let img := mkLin c (ef e 80 64 * 16) (ef e 392 377) bx.bidx (Desc.ofByte (ef e 122 115)) (wordAddr (ef e 157 139))
    let out := mkLin c (ef e 114 98 * 16) 0 0 (Desc.ofByte (ef e 138 131)) (wordAddr (ef e 195 177))
    let bo := outBlock e
    let finite := bx.y0.isFinite && bx.y1.isFinite && bx.x0.isFinite && bx.x1.isFinite
    let one (r k : Nat) : List (Nat × Bytes) × Tally :=
      let y := sampleAt bx.y0.toQ bx.y1.toQ ih oh r
      let x := sampleAt bx.x0.toQ bx.x1.toQ iw ow k
      let within := finite && Q.zero.le y && y.le (Q.ofInt ((ih : Int) - 1)) && Q.zero.le x &&
        x.le (Q.ofInt ((iw : Int) - 1))
      let vs := (List.range nch).map fun ch =>
        if within then sampleVal b i img y x ch else (OutVal.clean (val32 ((i.extw[4]?).getD 0).toNat), Counters.zero)
      let o := convRow (arithOf e) (Desc.ofByte (ef e 138 131)) (val32 i.scale.toNat).toQ (vs.map (·.1))
      (channelPuts out bo (fun ch => (((u * (nch / bo) + ch / bo) * oh + r) * ow + k) * bo + ch % bo) o,
       o.tally.add (Tally.counts (vs.foldl (fun n v => n.add v.2) Counters.zero)))
    let rs := (List.range oh).flatMap fun r => (List.range ow).map fun k => one r k
    { puts := rs.flatMap (·.1), tally := Tally.sum (rs.map (·.2)), fault := none }

end Sys2Proof.Machine
end

