-- ==== Sys2Proof/Machine/Work.lean ====
section
/-! DEFINITION. How a vector, pooling or resize entry runs: its replay units in order (11_integrity.md R318), each
written before the next is read, a check that fires before a unit's outputs are written (R310), and the replay of that
unit (R319). One command per operation. -/

namespace Sys2Proof.Machine

/-- The replay units of an invocation: how many, what each writes, where it stands (11_integrity.md R318, R333), and
whether it can be replayed. -/
structure Work where
  count : Nat
  unit : Block → Nat → VecOut
  tile : Nat → Tile
  replayable : Bool

/-- Z aliases X (05_step_tables.md R128). -/
def aliased (e : BitVec 512) : Bool :=
  ef e 114 98 == ef e 80 64 && ef e 215 200 == ef e 183 168 && ef e 275 260 == ef e 243 228

/-- A unit that is a row of a batch iteration, or a whole batch iteration. -/
def rowTile (i : Invocation) (u : Nat) : Tile := { b2 := 0, b1 := batOf i u, mt := rowOf i u, nt := 0 }
def batTile (u : Nat) : Tile := { b2 := 0, b1 := u, mt := 0, nt := 0 }

/-- The work of a vector, pooling or resize invocation on core c (R318). -/
def workOf (c : Nat) (i : Invocation) : Work :=
  let e := i.entry
  let op := opcodeOf e
  let fits := !aliased e || decide (natAt i.ext 1 * fmtBits (ef e 118 115) / 8 ≤ 16384)
  let rows (f : Nat → Invocation → Block → Nat → VecOut) : Work :=
    { count := natAt i.ext 2 * natAt i.ext 0, unit := f c i, tile := rowTile i, replayable := fits }
  let bats (f : Nat → Invocation → Block → Nat → VecOut) : Work :=
    { count := natAt i.ext 2, unit := f c i, tile := batTile, replayable := fits }
  if op = opPool then
    { count := poolUnits i, unit := poolUnit c i
      tile := fun u => let p := poolPlace i u; { b2 := p.2.1, b1 := p.1, mt := p.2.2.1, nt := p.2.2.2 }
      replayable := true }
  else if op = opResize then
    { count := natAt i.ext 0, unit := resizeUnit c i, tile := fun u => { b2 := 0, b1 := 0, mt := u, nt := 0 }
      replayable := true }
  else if op = opNorm then rows normUnit
  else if op = opConvert then rows convertUnit
  else if op = opElemwise then rows (elemUnit (subopOf e))
  else if op = opReduce then (if bitOf e.toNat 380 then bats reduceUnit else rows reduceUnit)
  else if op = opDigest then bats digestUnit
  else rows moveUnit

/-- Unit u runs: its bytes are written, or left open after an uncorrectable read (log 9), and the invocation takes its
tally; an index or box out of range is an address fault (05_step_tables.md R142, 07_image_ops.md R204). -/
def Act.workUnit (c : Nat) (w : Work) (u : Nat) (open_ : Bool) : Act :=
  .read fun b =>
    let o := w.unit b u
    match o.fault with
    | some v => .seqFault c 3 0x21 (v * 65536)
    | none => Act.all [
        .when open_ .bump,
        .puts c (if open_ then o.puts.map fun p =>
            (p.1, (List.range p.2.length).map fun k => Config.abandonedByte b.freeCtr (p.1 + k)) else o.puts),
        .onInv c fun i => { i.take o.tally with units := u + 1 }]

/-- n units from u on; none after a fault. -/
def Act.workUnits (c : Nat) (w : Work) : Nat → Nat → Act
  | 0, _ => Act.nop
  | n + 1, u => (Act.whenB (fun b => (Machine.core b c).inv.isSome) (Act.workUnit c w u false)).seq
      (Act.workUnits c w n (u + 1))

/-- The units from u to the last, and the work is done. -/
def Act.workRest (c : Nat) (w : Work) (u : Nat) : Act :=
  Act.all [.workUnits c w (w.count - u) u, .onInv c (fun i => { i with workDone := true }),
    .whenB (fun b => (Machine.core b c).inv.any fun i => movesOpen i.entry) .bump]

/-- A check that fires in unit u: the unit is replayed; where no replay unit exists the detection is uncontained and
the unit's bytes are open (R318, log 9). -/
def Act.workDetection (c : Nat) (w : Work) (u syn : Nat) (injected : Bool) : Act :=
  let d : Det := { code := 0x03, uclass := 2, uid := c, unit := u, syndrome := BitVec.ofNat 128 syn }
  if w.replayable then .replayDetection c 2 d (w.tile u) injected
  else if injected then .read fun b => Act.all [
    .coreDetection c 0x03,
    .count .chkUncontained 1,
    .log { agentRecord b (.seq c) with uclass := 2, unit := c, tile := w.tile u, detector := 0x03, disp := 8,
                                       hist := histTotal b 2 c, syndrome := syn },
    .workRest c w u,
    .opt (ownerOfCore b c) fun f => .taint f (((Machine.core b c).inv.map (·.startBeat)).getD (beat b))]
  else .read fun b =>
    let s := ((Machine.core b c).inv.map (·.startBeat)).getD (beat b)
    Act.all [
      .workUnit c w u true,
      .detection { agentRecord b (.seq c) with tile := w.tile u } d (ownerOfCore b c) s,
      .workRest c w (u + 1)]

/-- The units of an invocation from u on, with a check that fires in one of them; an armed injection takes the first
(R319). -/
def Act.runFrom (c : Nat) (w : Work) (u : Nat) (d : Option Det) : Act :=
  .read fun b =>
    if (Machine.core b c).vecArmed && decide (u < w.count) then Act.all [
      .bump,
      .onCore c (fun s => { s with vecArmed := false }),
      .workDetection c w u (injectedSyn 2 (w.tile u).mt (Config.freeWord b.freeCtr).toNat) true]
    else match fired d with
      | none => .workRest c w u
      | some x =>
        if w.count ≤ x.unit ∨ x.unit < u then .workRest c w u
        else if x.code = 0x03 then Act.all [
          .workUnits c w (x.unit - u) u,
          .whenB (fun b => (Machine.core b c).inv.isSome) (.workDetection c w x.unit x.syndrome.toNat false)]
        else if (x.code = 0x07 ∨ x.code = 0x08) ∧ bankOf c x then Act.all [
          .workUnits c w (x.unit - u) u,
          .whenB (fun b => (Machine.core b c).inv.isSome) (Act.all [
            .workUnit c w x.unit (x.code == 0x08),
            .read (fun b => .detection { agentRecord b (.seq c) with tile := w.tile x.unit } x (ownerOfCore b c) (beat b)),
            .workRest c w (x.unit + 1)])]
        else .workRest c w u

/-- The work of an invocation that has just started, with a check that fires in one of its units. -/
def Act.runWork (c : Nat) (d : Option Det) : Act :=
  .read fun b => .opt (Machine.core b c).inv fun i => .runFrom c (workOf c i) 0 d

/-- An entry of an opcode and SUBOP starts and runs. -/
def Act.startSub (c op sub : Nat) (d : Option Det) : Act :=
  .read fun b => .opt (readySub b c op sub) fun (_, e) => .beginWork c e (.runWork c d)

/-- A POOL or RESIZE entry whose function bit has a value starts and runs. -/
def Act.startBit (c op bit : Nat) (v : Bool) (d : Option Det) : Act :=
  .read fun b => .opt (readyOp b c op) fun (_, e) =>
    .when (bitOf e.toNat bit == v) (.beginWork c e (.runWork c d))

/-- POOL with FUNC 0: the maximum of each window (07_image_ops.md R199). -/
def execPoolMax (c : Nat) (d : Option Det) (s : State) : Host.Outcome State Fault Refusal :=
  perform (isCore c) (.startBit c opPool 468 false d) s

/-- POOL with FUNC 1: the exact sum of each window over its divisor (R199). -/
def execPoolAvg (c : Nat) (d : Option Det) (s : State) : Host.Outcome State Fault Refusal :=
  perform (isCore c) (.startBit c opPool 468 true d) s

/-- RESIZE with METHOD 0 (07_image_ops.md R203). -/
def execResizeNearest (c : Nat) (d : Option Det) (s : State) : Host.Outcome State Fault Refusal :=
  perform (isCore c) (.startBit c opResize 317 false d) s

/-- RESIZE with METHOD 1 (07_image_ops.md R203). -/
def execResizeBilinear (c : Nat) (d : Option Det) (s : State) : Host.Outcome State Fault Refusal :=
  perform (isCore c) (.startBit c opResize 317 true d) s

/-- NORM STATS (08_attention.md R212, R214). -/
def execNormStats (c : Nat) (d : Option Det) (s : State) : Host.Outcome State Fault Refusal :=
  perform (isCore c) (.startSub c opNorm 0 d) s

/-- NORM APPLY (08_attention.md R212). -/
def execNormApply (c : Nat) (d : Option Det) (s : State) : Host.Outcome State Fault Refusal :=
  perform (isCore c) (.startSub c opNorm 1 d) s

/-- NORM STATS_APPLY (08_attention.md R212). -/
def execNormStatsApply (c : Nat) (d : Option Det) (s : State) : Host.Outcome State Fault Refusal :=
  perform (isCore c) (.startSub c opNorm 2 d) s

/-- NORM RECOMPUTE (08_attention.md R218). -/
def execNormRecompute (c : Nat) (d : Option Det) (s : State) : Host.Outcome State Fault Refusal :=
  perform (isCore c) (.startSub c opNorm 3 d) s

/-- CONVERT (05_step_tables.md R141). -/
def execConvert (c : Nat) (d : Option Det) (s : State) : Host.Outcome State Fault Refusal :=
  perform (isCore c) (.startSub c opConvert 0 d) s

/-- ELEMWISE: x + y (04_core.md R118). -/
def execElemAdd (c : Nat) (d : Option Det) (s : State) : Host.Outcome State Fault Refusal :=
  perform (isCore c) (.startSub c opElemwise 0 d) s

/-- ELEMWISE: x − y (04_core.md R118). -/
def execElemSub (c : Nat) (d : Option Det) (s : State) : Host.Outcome State Fault Refusal :=
  perform (isCore c) (.startSub c opElemwise 1 d) s

/-- ELEMWISE: x × y (04_core.md R118). -/
def execElemMul (c : Nat) (d : Option Det) (s : State) : Host.Outcome State Fault Refusal :=
  perform (isCore c) (.startSub c opElemwise 2 d) s

/-- ELEMWISE: x × y + a (04_core.md R118). -/
def execElemFma (c : Nat) (d : Option Det) (s : State) : Host.Outcome State Fault Refusal :=
  perform (isCore c) (.startSub c opElemwise 3 d) s

/-- ELEMWISE: the greater of x and y (04_core.md R118). -/
def execElemMax (c : Nat) (d : Option Det) (s : State) : Host.Outcome State Fault Refusal :=
  perform (isCore c) (.startSub c opElemwise 4 d) s

/-- ELEMWISE: the lesser of x and y (04_core.md R118). -/
def execElemMin (c : Nat) (d : Option Det) (s : State) : Host.Outcome State Fault Refusal :=
  perform (isCore c) (.startSub c opElemwise 5 d) s

/-- ELEMWISE: |x| (04_core.md R423). -/
def execElemAbs (c : Nat) (d : Option Det) (s : State) : Host.Outcome State Fault Refusal :=
  perform (isCore c) (.startSub c opElemwise 6 d) s

/-- ELEMWISE: −x (04_core.md R423). -/
def execElemNeg (c : Nat) (d : Option Det) (s : State) : Host.Outcome State Fault Refusal :=
  perform (isCore c) (.startSub c opElemwise 7 d) s

/-- ELEMWISE: x with y's sign (04_core.md R423). -/
def execElemCopysign (c : Nat) (d : Option Det) (s : State) : Host.Outcome State Fault Refusal :=
  perform (isCore c) (.startSub c opElemwise 8 d) s

/-- ELEMWISE: x or y by the AUX flag (04_core.md R423). -/
def execElemSelect (c : Nat) (d : Option Det) (s : State) : Host.Outcome State Fault Refusal :=
  perform (isCore c) (.startSub c opElemwise 9 d) s

/-- ELEMWISE: x = y (04_core.md R423). -/
def execElemCmpEq (c : Nat) (d : Option Det) (s : State) : Host.Outcome State Fault Refusal :=
  perform (isCore c) (.startSub c opElemwise 10 d) s

/-- ELEMWISE: x < y (04_core.md R423). -/
def execElemCmpLt (c : Nat) (d : Option Det) (s : State) : Host.Outcome State Fault Refusal :=
  perform (isCore c) (.startSub c opElemwise 11 d) s

/-- ELEMWISE: x ≤ y (04_core.md R423). -/
def execElemCmpLe (c : Nat) (d : Option Det) (s : State) : Host.Outcome State Fault Refusal :=
  perform (isCore c) (.startSub c opElemwise 12 d) s

/-- ELEMWISE: x × 2^n (04_core.md R118). -/
def execElemScale2 (c : Nat) (d : Option Det) (s : State) : Host.Outcome State Fault Refusal :=
  perform (isCore c) (.startSub c opElemwise 13 d) s

/-- ELEMWISE: 1 / x (04_core.md R118). -/
def execElemRcp (c : Nat) (d : Option Det) (s : State) : Host.Outcome State Fault Refusal :=
  perform (isCore c) (.startSub c opElemwise 14 d) s

/-- ELEMWISE: the square root of x (04_core.md R118). -/
def execElemSqrt (c : Nat) (d : Option Det) (s : State) : Host.Outcome State Fault Refusal :=
  perform (isCore c) (.startSub c opElemwise 15 d) s

/-- ELEMWISE: 1 over the square root of x (04_core.md R118). -/
def execElemRsqrt (c : Nat) (d : Option Det) (s : State) : Host.Outcome State Fault Refusal :=
  perform (isCore c) (.startSub c opElemwise 16 d) s

/-- ELEMWISE: x / y (04_core.md R118). -/
def execElemDiv (c : Nat) (d : Option Det) (s : State) : Host.Outcome State Fault Refusal :=
  perform (isCore c) (.startSub c opElemwise 17 d) s

/-- ELEMWISE: e^x (04_core.md R118). -/
def execElemExp (c : Nat) (d : Option Det) (s : State) : Host.Outcome State Fault Refusal :=
  perform (isCore c) (.startSub c opElemwise 18 d) s

/-- ELEMWISE: 2^x (04_core.md R118). -/
def execElemExp2 (c : Nat) (d : Option Det) (s : State) : Host.Outcome State Fault Refusal :=
  perform (isCore c) (.startSub c opElemwise 19 d) s

/-- ELEMWISE: ln x (04_core.md R118). -/
def execElemLog (c : Nat) (d : Option Det) (s : State) : Host.Outcome State Fault Refusal :=
  perform (isCore c) (.startSub c opElemwise 20 d) s

/-- ELEMWISE: log₂ x (04_core.md R118). -/
def execElemLog2 (c : Nat) (d : Option Det) (s : State) : Host.Outcome State Fault Refusal :=
  perform (isCore c) (.startSub c opElemwise 21 d) s

/-- ELEMWISE: sin x (04_core.md R118). -/
def execElemSin (c : Nat) (d : Option Det) (s : State) : Host.Outcome State Fault Refusal :=
  perform (isCore c) (.startSub c opElemwise 22 d) s

/-- ELEMWISE: cos x (04_core.md R118). -/
def execElemCos (c : Nat) (d : Option Det) (s : State) : Host.Outcome State Fault Refusal :=
  perform (isCore c) (.startSub c opElemwise 23 d) s

/-- ELEMWISE: tanh x (04_core.md R118). -/
def execElemTanh (c : Nat) (d : Option Det) (s : State) : Host.Outcome State Fault Refusal :=
  perform (isCore c) (.startSub c opElemwise 24 d) s

/-- ELEMWISE: sigmoid x (04_core.md R118). -/
def execElemSigmoid (c : Nat) (d : Option Det) (s : State) : Host.Outcome State Fault Refusal :=
  perform (isCore c) (.startSub c opElemwise 25 d) s

/-- ELEMWISE: x × sigmoid x (04_core.md R118). -/
def execElemSilu (c : Nat) (d : Option Det) (s : State) : Host.Outcome State Fault Refusal :=
  perform (isCore c) (.startSub c opElemwise 26 d) s

/-- ELEMWISE: x × Φ(x) (04_core.md R118). -/
def execElemGelu (c : Nat) (d : Option Det) (s : State) : Host.Outcome State Fault Refusal :=
  perform (isCore c) (.startSub c opElemwise 27 d) s

/-- REDUCE SUM (04_core.md R119). -/
def execReduceSum (c : Nat) (d : Option Det) (s : State) : Host.Outcome State Fault Refusal :=
  perform (isCore c) (.startSub c opReduce 0 d) s

/-- REDUCE MAX (04_core.md R119). -/
def execReduceMax (c : Nat) (d : Option Det) (s : State) : Host.Outcome State Fault Refusal :=
  perform (isCore c) (.startSub c opReduce 1 d) s

/-- REDUCE MIN (04_core.md R119). -/
def execReduceMin (c : Nat) (d : Option Det) (s : State) : Host.Outcome State Fault Refusal :=
  perform (isCore c) (.startSub c opReduce 2 d) s

/-- DIGEST (11_integrity.md R317). -/
def execDigest (c : Nat) (d : Option Det) (s : State) : Host.Outcome State Fault Refusal :=
  perform (isCore c) (.startSub c opDigest 0 d) s

/-- GATHER (05_step_tables.md R141, R142). -/
def execGather (c : Nat) (d : Option Det) (s : State) : Host.Outcome State Fault Refusal :=
  perform (isCore c) (.startSub c opGather 0 d) s

/-- SCATTER (05_step_tables.md R141, R142). -/
def execScatter (c : Nat) (d : Option Det) (s : State) : Host.Outcome State Fault Refusal :=
  perform (isCore c) (.startSub c opGather 1 d) s

end Sys2Proof.Machine
end

