-- ==== Sys2Proof/Machine/Campion.lean ====
section
/-! DEFINITION. Campion's commands (11_integrity.md): control parity, replays and arbitration, known-answer tests,
re-placement and rollback, the flash log and epoch verdicts. -/

namespace Sys2Proof.Machine

/-! ## Control parity and replays -/

/-- Start beat of the current entry: of the invocation, or of the control entry that waits; an entry that has not begun
starts now. -/
def entryStart (b : Block) (c : Nat) : Nat :=
  match (core b c).inv with
  | some i => i.startBeat
  | none => if (core b c).seqWaiting then (core b c).entryBeat else beat b

/-- PAR_CTRL: parity of a sequencer, stream-engine, loop or address register, or ECC of control storage, fails (R310):
uncontained from the start beat of the current entry. -/
def execParCtrl (c reg bit : Nat) (s : State) : Host.Outcome State Fault Refusal :=
  perform (isCore c) (.read fun b =>
    .detection (agentRecord b (.seq c))
      { code := 0x0C, uclass := 2, uid := c, unit := 0, syndrome := BitVec.ofNat 128 (reg % 65536 + bit % 256 * 65536) }
      (ownerOfCore b c) (entryStart b c)) s

/-- A code that the checks of a datapath report: 0 A0, 1 A1, 2 the vector unit (R310, R319). -/
def replayCode (dp code : Nat) : Bool :=
  if dp = 2 then code == 0x03 else code == 0x01 || code == 0x02 || code == 0x04 || code == 0x05

/-- What the report of a replay concerns: a check of the replay itself, a scratch error that it reads among them. -/
def replayReport (c dp : Nat) (x : Det) : Bool :=
  replayCode dp x.code || ((x.code == 0x07 || x.code == 0x08) && bankOf c x)

/-- The check fires in a later unit than the one replayed: that replay has passed. -/
def laterUnit (b : Block) (c dp : Nat) (x : Det) : Bool :=
  dp == 2 && (core b c).inv.any fun i => decide (i.units < x.unit) && decide (x.unit < (workOf c i).count)

/-- The walk goes on after a replay that passed: the rest of a vector, pooling or resize entry runs, with the check that
fires in it. -/
def Act.walkOn (c dp : Nat) (d : Option Det) : Act :=
  if dp = 2 then .read fun b => .opt (core b c).inv fun i => .runFrom c (workOf c i) i.units d else .showArr c dp

/-- REPLAY_COMPLETE: a replay that passes every check lets the walk go on; any detection, a scratch error that the replay
reads among them, starts the second replay, and in that one escalates (R319, R322). A check that fires in a later unit of
the entry is replayed in its turn. -/
def execReplayComplete (c unit : Nat) (d : Option Det) (s : State) (result : Bytes := []) :
    Host.Outcome State Fault Refusal :=
  perform (isCore c && decide (unit < 3)) (.read fun b => .opt (replayOf (core b c) unit) fun r =>
    match fired d with
    | none => Act.all [.replayPassed c unit r, .walkOn c unit none]
    | some x =>
      if laterUnit b c unit x then Act.all [.replayPassed c unit r, .walkOn c unit d]
      else .when (replayReport c unit x) (Act.all [
        .replayDetection c unit x r.tile false,
        .when (decide (2 ≤ r.attempt)) (.read fun b => .opt (core b c).escalated fun e => .escalate c unit e result)])) s

/-! ## Arbitration (R322) -/

/-- The partner core of a known-answer test, by preference (R316): the other column of the pair, then the other row. -/
def partnersOf (c : Nat) : List Nat :=
  let r := c % 3200 / 80
  [if c % 2 = 0 then c + 1 else c - 1, if r % 2 = 0 then c + 80 else c - 80]

/-- The arbiters of core c in the partition of f. -/
def arbitersOf (b : Block) (f c : Nat) : List Nat :=
  (partnersOf c).filter fun k => !flag b (.coreStatus k) 1 && ownerOfCore b k == some f

/-- The core of f whose escalation waits for its arbitration. -/
def escalatedCore (b : Block) (f : Nat) : Option Nat := (allCoresOf b f).find? fun c => (core b c).escalated.isSome

/-- The arbitration's record (R424). -/
def arbRecord (b : Block) (c : Nat) (r : Replay) (disp : Nat) : Tansy :=
  { agentRecord b (.seq c) with
    uclass := r.uclass, unit := r.uid, attempt := 3, tile := r.tile
    detector := ((r.pend.getLast?).map fun x => recDetector x.1).getD 0
    disp := disp, hist := histTotal b r.uclass r.uid, cause := 5 }

/-- The escalation is resolved. -/
def Act.resolve (c : Nat) : Act :=
  Act.all [.onCore c (fun s => { s with escalated := none, arbTried := 0, kept := [] }), .setFld (.chkStatus c) 2 2 0]

/-- The arbitration ends undecided: the partition becomes FAULTED. -/
def Act.undecided (f c : Nat) (r : Replay) : Act :=
  .read fun b => Act.all [.log (arbRecord b c r 7), .resolve c, .ruin f]

/-- ARBITRATION_COMPLETE: the arbiter's bits are compared with the kept result (R322). -/
def execArbitrationComplete (f arbiter : Nat) (passed : Bool) (result : Bytes) (s : State) :
    Host.Outcome State Fault Refusal :=
  perform (isVf f && isCore arbiter) (.read fun b => .opt (escalatedCore b f) fun c =>
    .opt (core b c).escalated fun r =>
      match (arbitersOf b f c).drop (core b c).arbTried with
      | [] => .undecided f c r
      | k :: rest =>
        .when (k == arbiter) (
          if passed then
            if result == (core b c).kept then Act.all [.log (arbRecord b c r 3), .resolve c, .fence 2 c 3]
            else Act.all [.log (arbRecord b c r 2), .resolve c, .fence r.uclass r.uid 2]
          else if rest.isEmpty then .undecided f c r
          else .onCore c fun s => { s with arbTried := s.arbTried + 1 })) s

/-! ## Known-answer tests (R314 to R316) -/

/-- The core has the unit: 0 A0, 1 A1, 2 vector unit, 3 pooling unit, 4 resize sampler. -/
def hasUnit (c u : Nat) : Bool := decide (u < 5) && (u != 3 || poolCapable c)

/-- An entry uses a datapath unit. -/
def usesUnit (e : BitVec 512) (u : Nat) : Bool :=
  match u with
  | 0 => onArrays e && usesArr e 0
  | 1 => onArrays e && usesArr e 1
  | 2 => isVec e
  | 3 => opcodeOf e == opPool
  | _ => opcodeOf e == opResize

/-- The test of a unit may end now: the sequencer stands at an entry that does not use it and lasts 256 cycles, and
65,536 cycles have passed since the unit's last test (R314). -/
def katDue (b : Block) (c u : Nat) : Bool :=
  match ownerOfCore b c, entryAt b c with
  | some f, some e =>
    let last := natAt (core b c).katTry u
    (part b f).st == .running && (part b f).started && (seqState b c == seqRunning || seqState b c == seqWaits) &&
      !usesUnit e u && decide (256 ≤ natAt (core b c).durs (seqEntry b c)) &&
      (last == 0 || decide (last + 256 ≤ beat b))
  | _, _ => false

/-- CHK_KAT_LAST of a unit after its test passed. -/
def Act.katPassed (c u : Nat) : Act :=
  .read fun b =>
    let now := beat b
    Act.all [
      .onCore c (fun s => { s with katAt := putAt s.katAt 0 u now }),
      if u = 0 then .setReg (.chkKatLastA0 c) now
      else if u = 1 then .setReg (.chkKatLastA1 c) now
      else .read fun b =>
        let ks := ((List.range 5).filter fun k => decide (2 ≤ k) && hasUnit c k).map fun k => natAt (core b c).katAt k
        .setReg (.chkKatLastVec c) (ks.foldl min now)]

/-- The unit a failed test names (R330). -/
def katUnit (c u : Nat) : Nat × Nat := if u < 2 then (1, c * 2 + u) else (2, c)

/-- A test of a unit has run (R316). -/
def CoreState.tested (s : CoreState) (u now : Nat) : CoreState :=
  { s with katTry := putAt s.katTry 0 u now, katRun := putAt s.katRun 0 u (natAt s.katRun u + 1) }

/-- The core that compares a unit's signature; none where both partners are fenced and the core compares its own
(R316). -/
def katPartner (b : Block) (c : Nat) : Option Nat := (partnersOf c).find? fun k => !flag b (.coreStatus k) 1

/-- The table's expected signature of a unit's vector (R316). -/
def katSignature (unit vector : Nat) : BitVec 32 := crc32c (Config.katResult unit vector)

/-- What a vector's test detects: the signature, CRC-32C of the drained outputs and the four counters after them, is
compared with the table's, and the inverted bit must have been reported (R316). -/
def katDet (b : Block) (c unit vector : Nat) (drained : Bytes) (injSeen : Bool) : Option Det :=
  let expected := katSignature unit vector
  let observed := crc32c drained
  let u := katUnit c unit
  if expected == observed && injSeen then none
  else some
    { code := 0x0B, uclass := u.1, uid := u.2, unit := 0
      syndrome := BitVec.ofNat 128 (vector + (if expected != observed then 1 else 2) * 256 + expected.toNat * 2 ^ 32 +
        observed.toNat * 2 ^ 64 + (katPartner b c).getD c % 65536 * 2 ^ 96) }

/-- A test that detected something taints from the unit's last passing test, or the partition's start if later (R310);
one that did not has passed. -/
def Act.katResult (c unit : Nat) (d : Option Det) : Act :=
  .read fun b =>
    let start := ((ownerOfCore b c).map fun f => (part b f).startBeat).getD 0
    match d with
    | some x => .detection (agentRecord b (.seq c)) x (ownerOfCore b c) (max (natAt (core b c).katAt unit) start)
    | none => .katPassed c unit

/-- CHK_KAT_GAP_MAX: a test ends the gap since the unit's last one (R315). -/
def Act.katGap (c unit : Nat) : Act :=
  .read fun b =>
    let last := natAt (core b c).katTry unit
    .when (decide (last ≠ 0) && decide (fld b (.chkKatGapMax c) 31 0 < beat b - last))
      (.setReg (.chkKatGapMax c) (min (beat b - last) 0xFFFFFFFF))

/-- KNOWN_ANSWER_TEST_COMPLETE: test k of a unit is vector k mod 256 (R316); a failure is a detection of code 0x0B. -/
def execKnownAnswerTestComplete (c unit : Nat) (outputs counters : Bytes) (lastRow : Nat) (reported : Option Nat)
    (s : State) : Host.Outcome State Fault Refusal :=
  perform (isCore c) (.read fun b => .when (hasUnit c unit && katDue b c unit) (Act.all [
    .katGap c unit,
    .onCore c (fun s => s.tested unit (beat b)),
    .count (.chkKatRuns c) 1,
    .setFld (.chkStatus c) 3 3 (katPartner b c).isNone.toNat,
    .katResult c unit (katDet b c unit (natAt (core b c).katRun unit % 256) (outputs ++ counters)
      (reported == some lastRow))])) s

/-! ## RUN_SELFTEST (R332) -/

/-- The datapath units whose vectors a self-test of a unit runs (R330): the core that holds them and their numbers. -/
def selfUnits (cls unit : Nat) : Nat × List Nat :=
  if cls = 1 then (unit / 2, [unit % 2]) else (unit, [2, 3, 4].filter (hasUnit unit))

/-- All 256 vectors run on a datapath unit; `d` is what the first failing one detected. -/
def Act.selftestUnit (c u : Nat) (d : Option Det) : Act :=
  .read fun b => Act.all [
    .katGap c u,
    .onCore c (fun s => { s with katTry := putAt s.katTry 0 u (beat b) }),
    .count (.chkKatRuns c) 256,
    .setFld (.chkStatus c) 3 3 (katPartner b c).isNone.toNat,
    .katResult c u d]

/-- What the outside reports of the vectors that fail in a unit: the first that detects something. -/
def selftestDet (b : Block) (c u : Nat) (fails : List KatOut) : Option Det :=
  (fails.filter fun x => x.core == c && x.unit == u && decide (x.vector < 256)).findSome? fun x =>
    katDet b c u x.vector x.drained x.injSeen

/-- The self-test of a unit fails. -/
def selftestFails (b : Block) (cls unit : Nat) (fails : List KatOut) : Bool :=
  (selfUnits cls unit).2.any fun u => (selftestDet b (selfUnits cls unit).1 u fails).isSome

/-- The self-test of one named unit. -/
def Act.selftest (cls unit : Nat) (fails : List KatOut) : Act :=
  .each (selfUnits cls unit).2 fun u => .read fun b =>
    .selftestUnit (selfUnits cls unit).1 u (selftestDet b (selfUnits cls unit).1 u fails)

/-! ## Re-placement and rollback (R325, R326, R331, 09_schedules.md R255) -/

/-- REPLACEMENT_AFTER_FENCING: the partition has stopped; its last checkpoint is restored on the lowest valid variant
(09_schedules.md R255). -/
def execReplacementAfterFencing (f : Nat) (s : State) : Host.Outcome State Fault Refusal :=
  perform (isVf f) (.read fun b =>
    let p := part b f
    .when (p.replace && p.st != .running && p.image.isSome && p.taint.isNone && p.poisonedBy.isNone)
      (.rollback f fun _ => true)) s

/-- The beats a checkpoint may have begun at for the rollback that is due (R325, R326). -/
def rollbackOk (p : Partition) (q : Nat) : Bool :=
  (match p.taint with
   | none => true
   | some s => decide (q ≤ s)) &&
  (match p.poisonedBy with
   | none => true
   | some e => decide (q < smGetD p.recvAt e (2 ^ 64)))

/-- ROLLBACK: after an uncontained detection, or a POISON, and any arbitration, the latest checkpoint that qualifies is
restored (R325, R326). -/
def execRollback (f : Nat) (s : State) : Host.Outcome State Fault Refusal :=
  perform (isVf f) (.read fun b =>
    let p := part b f
    .when ((p.taint.isSome || p.poisonedBy.isSome) && (escalatedCore b f).isNone) (.rollback f (rollbackOk p))) s

/-! ## The flash log (R335, R336) -/

/-- Records the log region holds: 15,358 sectors of 32 (R336). -/
def logRecords : Nat := 491456

/-- A log that takes one more record; a full one gives up its oldest sector. -/
def logAdd (l : List Bytes) (r : Bytes) : List Bytes := (if logRecords ≤ l.length then l.drop 32 else l) ++ [r]

/-- Sectors that a log of l records gives up to take n more. -/
def sectorsDropped (l : Nat) : Nat → Nat
  | 0 => 0
  | n + 1 => if logRecords ≤ l then 1 + sectorsDropped (l - 32 + 1) n else sectorsDropped (l + 1) n

/-- TANSY_LOG_FLASH_WRITE: the buffered records go to flash, and the header follows the log (R335, R336). -/
def execTansyLogFlashWrite (s : State) : Host.Outcome State Fault Refusal :=
  perform true (.campion fun k =>
    { k with log := k.buffer.foldl logAdd k.log, buffer := [] }.settle k.current.session
      ((k.current.head + sectorsDropped k.log.length k.buffer.length) % logSectors)) s

/-- A port's profile: 0 B, 1 O, 2 J (10_links.md LNK_CFG). -/
def portProfile (b : Block) (p : Nat) : Nat := fld b (.lnkCfg p) 29 28

/-! ## Injection -/

/-- A core's checks may be injected: its partition is RUNNING or PAUSED. -/
def mayInject (b : Block) (c : Nat) : Bool :=
  match ownerOfCore b c with
  | some f => (part b f).st == .running || (part b f).st == .paused
  | none => false

/-- A write of CHK_INJECT by function f: with GO, the unit's next replay unit takes an inverted residue bit. At any other
time than RUNNING or PAUSED, or by another function than 0, it is discarded and logged. -/
def Act.chkInject (f c v : Nat) : Act :=
  .read fun b =>
    if f ≠ 0 ∨ !mayInject b c then .logAccess f (Reg.chkInject c).addr
    else .when (bitOf v 0) (
      match bitsOf v 2 1 with
      | 0 => .onArr c 0 fun a => { a with armed := true }
      | 1 => .onArr c 1 fun a => { a with armed := true }
      | 2 => .onCore c fun s => { s with vecArmed := true }
      | _ => .nop)

/-- CHK_INJ_GO: function 0 writes CHK_INJECT. -/
def execChkInjGo (f c : Nat) (value : Word) (s : State) : Host.Outcome State Fault Refusal :=
  perform (isFunc f && isCore c) (.whenB (fun b => answers b f) (.chkInject f c value.toNat)) s

end Sys2Proof.Machine
end

