-- ==== Sys2Proof/Machine/Directory.lean ====
section
/-! DEFINITION. The prefix directory (08_attention.md R220 to R241): pages, the pool, prefix hashes, the walk, and the
engine's seven operations, asked for by the schedule queue or by PREFIX_QUERY. -/

namespace Sys2Proof.Machine

/-! ## Hashes (R233) -/

def mixw (x0 : DWord) : DWord :=
  let x1 := x0 ^^^ (x0 >>> 29)
  let x2 := x1 * 0x8F3C61B52D9E47A3
  let x3 := x2 ^^^ (x2 >>> 32)
  let x4 := x3 * 0xB5E193C70A6D2F59
  x4 ^^^ (x4 >>> 29)

/-- The hash of a block of 16 token ids under its parent's. -/
def blockHash (parent : DWord) (tok : List Nat) : DWord :=
  (List.range 16).foldl (fun h i => mixw (h ^^^ BitVec.ofNat 64 (natAt tok i) ^^^ BitVec.ofNat 64 (i * 2 ^ 40)))
    (mixw (parent ^^^ 0x6C1DE2F74B0895A1))

/-- Block i of a prompt. -/
def tokBlock (toks : List Nat) (i : Nat) : List Nat := (toks.drop (16 * i)).take 16

/-- h_0, h_1, … of the complete blocks. -/
def hashes (seed : DWord) (toks : List Nat) : List DWord :=
  ((List.range (toks.length / 16)).foldl (fun (x : DWord × List DWord) i =>
    let h := blockHash x.1 (tokBlock toks i)
    (h, h :: x.2)) (seed, [])).2.reverse

/-! ## Geometry (R220 to R222) -/

/-- The loaded image's geometry. -/
def geomOf (b : Block) (f : Nat) : Option Geometry := (part b f).image.bind fun im => im.cache

def Geometry.slotVA (g : Geometry) (s : Nat) : Nat := g.seqBase + s * g.seqStride
def Geometry.dataVA (g : Geometry) (s t : Nat) : Nat := g.slotVA s + t * g.re
def Geometry.sideVA (g : Geometry) (s t : Nat) : Nat := g.slotVA s + g.tmax * g.re + t * g.rx

/-- X0 of a side record. -/
def Geometry.x0 (g : Geometry) : Nat := 2 * g.l * g.h * g.d / 16

/-! ## Pages (R223, R229) -/

def Page.ref (p : Page) : Nat := p.slots.length + p.exports

/-- SEALED with REF = 0 and PIN = 0 (R228). -/
def Page.droppable (p : Page) : Bool := p.st == .sealed && p.ref == 0 && p.pin == 0

/-- Page number n. -/
def pageNum (d : DirFn) (n : Nat) : Option Page := d.pages.find? fun p => p.num == n

/-- The token id a page's side record holds (R222). -/
def tokenAt (b : Block) (g : Geometry) (p : Page) (t : Nat) : Nat :=
  leNat (lpdBytes b (p.sidePA + (t - p.t0) * g.rx + g.x0) 4)

/-! ## The pool (R223, 13_memory.md R377; log 20) -/

/-- The pool chunks of a partition: the draws after the checkpoint area. -/
def poolChunks (p : Partition) : List (Nat × Nat) :=
  (p.chunks.drop (popCount p.plots.toNat 64)).take (p.poolmib / 1024)

/-- Physical ranges in use: base and length. -/
def usedFrames (pages : List Page) : List (Nat × Nat) :=
  pages.flatMap fun p => [(p.dataPA, p.dataLen), (p.sidePA, p.sideLen)]

/-- The first address from a on that is congruent to v mod m. -/
def alignLike (a v m : Nat) : Nat := a + (v % m + m - a % m) % m

/-- A range of n bytes from a meets one of the ranges. -/
def meets (rs : List (Nat × Nat)) (a n : Nat) : Bool := rs.any fun r => decide (a < r.1 + r.2) && decide (r.1 < a + n)

/-- The lowest free range of n bytes congruent to va mod m, within one pool chunk. -/
def freeRange (chunks : List (Nat × Nat)) (used : List (Nat × Nat)) (n va m : Nat) : Option Nat :=
  let cands := chunks.flatMap fun x =>
    let lo := chunkAt x
    ((lo :: (used.map fun r => r.1 + r.2)).map fun a => alignLike a va m).filter fun a =>
      decide (lo ≤ a) && decide (a + n ≤ lo + chunkBytes) && !meets used a n
  cands.foldl (fun (o : Option Nat) a => match o with
    | none => some a
    | some c => some (min c a)) none

/-- A frame of n bytes for virtual address va: placed so that the largest pages map it, else where it fits. -/
def allocFrame (chunks : List (Nat × Nat)) (used : List (Nat × Nat)) (n va : Nat) : Option Nat :=
  match freeRange chunks used n va (2 ^ min 30 (Nat.log2 n)) with
  | some a => some a
  | none => freeRange chunks used n va 4096

/-- The largest translation page at va and pa within n bytes (R223). -/
def pageShift (va pa n : Nat) : Nat :=
  ((List.range 19).map fun i => 30 - i).find? (fun k => decide (2 ^ k ≤ n) && va % 2 ^ k == 0 && pa % 2 ^ k == 0) |>.getD 12

/-- The mappings of n bytes. -/
def mapRun : Nat → Nat → Nat → Nat → Bool → List Mapping
  | 0, _, _, _, _ => []
  | fuel + 1, va, pa, n, w =>
    if n = 0 then []
    else
      let k := pageShift va pa n
      { va := va, size := k, pa := pa, r := true, w := w } :: mapRun fuel (va + 2 ^ k) (pa + 2 ^ k) (n - 2 ^ k) w

/-- The mappings of a page in slot s. -/
def pageMaps (g : Geometry) (s : Nat) (p : Page) (w : Bool) : List Mapping :=
  mapRun (p.dataLen / 4096) (g.dataVA s p.t0) p.dataPA p.dataLen w ++
    mapRun (p.sideLen / 4096) (g.sideVA s p.t0) p.sidePA p.sideLen w

/-- The entries of a page in slot s are written, or removed; `place` says where tables stand. -/
def putPage (place : Nat → Nat) (g : Geometry) (s : Nat) (w : Bool) (t : List (Nat × DWord)) (p : Page) :
    List (Nat × DWord) :=
  (pageMaps g s p w).foldl (mapPage place) t
def takePage (g : Geometry) (s : Nat) (t : List (Nat × DWord)) (p : Page) : List (Nat × DWord) :=
  (pageMaps g s p true).foldl unmapPage t

/-- Caches drop the page's ranges in slot s (13_memory.md R381). -/
def Act.dropPage (f s : Nat) (g : Geometry) (p : Page) : Act :=
  Act.all [.dropRange f (g.dataVA s p.t0) (g.dataVA s p.t0 + p.dataLen),
    .dropRange f (g.sideVA s p.t0) (g.sideVA s p.t0 + p.sideLen)]

/-! ## The table (R235, R236) -/

/-- Sets of the function's table; 0 = no table. -/
def dirSets (b : Block) (f : Nat) : Nat :=
  let q := fld b (.tslDirQuota (part b f).engine f) 23 0
  if q < 16 then 0 else 2 ^ (Nat.log2 q - 4)

/-- The entry matches block i: hash, seed, position and the page's tokens (R235). -/
def entryMatches (b : Block) (d : DirFn) (g : Geometry) (h : DWord) (i : Nat) (tok : List Nat) (e : DirEntry) : Bool :=
  e.hash == h && e.seed == g.seed && e.pos == 16 * i &&
    (match pageNum d e.page with
     | none => false
     | some p => (List.range 16).all fun k => tokenAt b g p (16 * i + k) == natAt tok k)

/-- The set of a hash. -/
def setOf (sets : Nat) (h : DWord) : Nat := h.toNat % sets

/-- The entry of block i. DESIGN CHOICE (log 20): entries made under another TSL_DIR_QUOTA keep the set they were put in, so
after a change of the number of sets most are counted but no longer found. -/
def findEntry (b : Block) (f : Nat) (d : DirFn) (g : Geometry) (h : DWord) (i : Nat) (tok : List Nat) : Option DirEntry :=
  let sets := dirSets b f
  if sets = 0 then none
  else d.entries.find? fun e => e.set == setOf sets h && entryMatches b d g h i tok e

/-- What a walk finds: the entries of the blocks matched in turn. -/
def walkBlocks (b : Block) (f : Nat) (d : DirFn) (g : Geometry) (toks : List Nat) : List DWord → Nat → List DirEntry
  | [], _ => []
  | h :: r, i =>
    match findEntry b f d g h i (tokBlock toks i) with
    | none => []
    | some e => e :: walkBlocks b f d g toks r (i + 1)

/-- The pages matched whole, in turn: every block of the page was matched by an entry that names it. DESIGN CHOICE (log 20):
where entries name overlapping pages of different sizes, the page of the entry at each position counts, from position 0 on. -/
def matchedPages (d : DirFn) (es : List DirEntry) : Nat → Nat → List Page
  | 0, _ => []
  | fuel + 1, pos =>
    match (es[pos / 16]?).bind fun e => pageNum d e.page with
    | none => []
    | some p =>
      if p.t0 = pos ∧ (List.range (p.len / 16)).all (fun k => (es[pos / 16 + k]?).any fun e => e.page == p.num)
      then p :: matchedPages d es fuel (pos + p.len) else []

/-- A walk's outcome. -/
structure Walk where
  hits : List DirEntry
  missed : Bool
  pages : List Page
  matched : Nat

/-- The walk of a prompt (R235). -/
def walk (b : Block) (f : Nat) (d : DirFn) (g : Geometry) (toks : List Nat) : Walk :=
  let hs := hashes g.seed toks
  let es := walkBlocks b f d g toks hs 0
  let ps := matchedPages d es es.length 0
  { hits := es, missed := decide (es.length < hs.length), pages := ps
    matched := (ps.map (·.len)).foldl (· + ·) 0 }

/-- The walk's counts (TSL_DIR_HITS, TSL_DIR_MISSES). -/
def Act.countWalk (f : Nat) (w : Walk) : Act :=
  .read fun b => Act.all [.count (.tslDirHits (part b f).engine f) w.hits.length,
    .count (.tslDirMisses (part b f).engine f) w.missed.toNat]

/-- Entries matched by a walk take a new STAMP. -/
def Act.stampEntries (f : Nat) (w : Walk) : Act :=
  .read fun b => .onDir f fun d => { d with
    entries := d.entries.map fun e => if w.hits.contains e then { e with stamp := beat b } else e }

/-- The lowest way of a set that holds no entry. -/
def freeWay (es : List DirEntry) (set : Nat) : Option Nat :=
  (List.range 16).find? fun w => !es.any fun e => e.set == set && e.way == w

/-- The way an insert replaces: the lowest STAMP whose page is droppable. DESIGN CHOICE (log 20): of two with the same STAMP,
the one that stands first in the directory. -/
def victim (d : DirFn) (set : Nat) : Option DirEntry :=
  (d.entries.filter fun e => e.set == set && ((pageNum d e.page).map Page.droppable).getD false).foldl
    (fun (o : Option DirEntry) e => match o with
      | none => some e
      | some v => if e.stamp < v.stamp then some e else o) none

/-- Entries that an engine holds for all its functions: at most 8 Mi (R236). -/
def engineEntries (b : Block) (n : Nat) : Nat :=
  ((owners b).filter fun f => (part b f).engine == n).foldl (fun s f => s + (Machine.dir b f).entries.length) 0

/-- One insert (R236). -/
def Act.insertEntry (f : Nat) (g : Geometry) (h : DWord) (i : Nat) (tok : List Nat) (page : Nat) : Act :=
  .read fun b =>
    let d := Machine.dir b f
    let sets := dirSets b f
    let skip : Act := .count (.tslDirInsSkip (part b f).engine f) 1
    if sets = 0 ∨ (findEntry b f d g h i tok).isSome then skip
    else
      let set := setOf sets h
      let new (w : Nat) : DirEntry :=
        { set := set, way := w, hash := h, seed := g.seed, page := page, pos := 16 * i, stamp := beat b }
      match (freeWay d.entries set).filter fun _ => decide (engineEntries b (part b f).engine < 8388608) with
      | some w => .onDir f fun d => { d with entries := d.entries ++ [new w] }
      | none => match victim d set with
        | some v => .onDir f fun d => { d with entries := (d.entries.filter (· != v)) ++ [new v.way] }
        | none => skip

/-- TSL_DIR_ENTRIES and TSL_DIR_FREE follow the directory. -/
def Act.showDir (f : Nat) : Act :=
  .read fun b =>
    let d := Machine.dir b f
    let n := (part b f).engine
    let used := ((usedFrames d.pages).map (·.2)).foldl (· + ·) 0 / 4096
    Act.all [.setReg (.tslDirEntries n f) d.entries.length,
      .setReg (.tslDirFree n f) (fld b (.tslDirPool n f) 28 0 - used)]

/-! ## Dropping (R230) -/

/-- The droppable page with the lowest STAMP, then the lowest number. -/
def nextDrop (pages : List Page) : Option Page :=
  (pages.filter Page.droppable).foldl (fun (o : Option Page) p => match o with
    | none => some p
    | some q => if p.stamp < q.stamp ∨ (p.stamp = q.stamp ∧ p.num < q.num) then some p else o) none

/-- Pages leave the function's directory with their entries. -/
def Act.dropPages (f : Nat) (ns : List Nat) : Act :=
  .read fun b => Act.all [
    .onDir f (fun d => { d with
      pages := d.pages.filter fun p => !ns.contains p.num
      entries := d.entries.filter fun e => !ns.contains e.page }),
    .count (.tslDirDrops (part b f).engine f) ns.length]

/-! ## ATTACH (R237, R238) -/

/-- Page sizes from t0 to the end, greedily (R238). -/
def pagePlan (pmax : Nat) : Nat → Nat → Nat → List (Nat × Nat)
  | 0, _, _ => []
  | fuel + 1, t0, stop =>
    if stop ≤ t0 then []
    else
      let t := ((List.range 12).map fun i => 2 ^ (11 - i)).find? (fun t => decide (16 ≤ t) && decide (t ≤ pmax) &&
        t0 % t == 0 && decide (t0 + t ≤ stop))
      match t with
      | none => []
      | some t => (t0, t) :: pagePlan pmax fuel (t0 + t) stop

/-- What an allocation has so far: the pages as they stand, the pages dropped, the frames taken. -/
structure Alloc where
  pages : List Page
  dropped : List Nat
  taken : List (Nat × Nat)

/-- One frame, dropping pages while none is free; at most 128 in all (R230). -/
def takeFrame (chunks : List (Nat × Nat)) (n va : Nat) : Nat → Alloc → Option (Nat × Alloc)
  | 0, _ => none
  | fuel + 1, a =>
    match allocFrame chunks (usedFrames a.pages ++ a.taken) n va with
    | some pa => some (pa, { a with taken := a.taken ++ [(pa, n)] })
    | none =>
      if 128 ≤ a.dropped.length then none
      else match nextDrop a.pages with
        | none => none
        | some p => takeFrame chunks n va fuel { a with pages := a.pages.filter (fun q => q.num != p.num), dropped := a.dropped ++ [p.num] }

/-- Both frames of each planned page of slot s. -/
def takePages (chunks : List (Nat × Nat)) (g : Geometry) (s : Nat) :
    List (Nat × Nat) → Alloc → Option (List (Nat × Nat × Nat × Nat) × Alloc)
  | [], a => some ([], a)
  | (t0, t) :: r, a =>
    (takeFrame chunks (t * g.re) (g.dataVA s t0) 200 a).bind fun x =>
      (takeFrame chunks (t * g.rx) (g.sideVA s t0) 200 x.2).bind fun y =>
        (takePages chunks g s r y.2).map fun z => ((t0, t, x.1, y.1) :: z.1, z.2)

/-- The lowest unused page numbers. -/
def pageNumbers (used : List Nat) (n : Nat) : List Nat :=
  ((List.range (used.length + n)).filter fun k => !used.contains k).take n

/-! ## Operations -/

/-- What an operation answers (R238), and what it does. -/
structure DirAnswer where
  status : Nat
  matched : Nat
  work : Nat
  pages : Nat
  dropped : Nat
  act : Act

/-- A refused operation has no side effect. -/
def DirAnswer.fail (status : Nat) : DirAnswer :=
  { status := status, matched := 0, work := 0, pages := 0, dropped := 0, act := .nop }

/-- Fields of a request record (R238). -/
def drOp (r : Bytes) : Nat := leAt r 0 1
def drSeq (r : Bytes) : Nat := leAt r 4 4
def drTokva (r : Bytes) : Nat := leAt r 8 8
def drNtok (r : Bytes) : Nat := leAt r 0x10 4

/-- The token ids a record names, where its array translates. -/
def drTokens (b : Block) (f : Nat) (r : Bytes) : Option (List Nat) :=
  (translate b f false (drTokva r : Nat) (4 * drNtok r)).segs.map fun segs =>
    let bs := segBytes b segs
    (List.range (drNtok r)).map fun i => leAt bs (4 * i) 4

/-- The checks every operation shares (R237), then the operation on the tokens. -/
def slotOp (b : Block) (f : Nat) (r : Bytes) (k : Geometry → List Nat → DirAnswer) : DirAnswer :=
  match geomOf b f with
  | none => .fail 1
  | some g =>
    if g.nseq ≤ drSeq r ∨ g.tmax < drNtok r then .fail 1
    else match drTokens b f r with
      | none => .fail 1
      | some ts => k g ts

/-- LOOKUP: the matched length; nothing changes. -/
def dirLookup (b : Block) (f : Nat) (r : Bytes) : DirAnswer :=
  slotOp b f r fun g ts =>
    let w := walk b f (dir b f) g ts
    { status := 0, matched := w.matched, work := 0, pages := 0, dropped := 0, act := .countWalk f w }

/-- A list of pages with those of numbers ns changed. -/
def changePages (ns : List Nat) (g : Page → Page) (ps : List Page) : List Page :=
  ps.map fun p => if ns.contains p.num then g p else p

/-- ATTACH (R237, R238, R230). -/
def dirAttach (b : Block) (f : Nat) (r : Bytes) : DirAnswer :=
  slotOp b f r fun g ts =>
    let d := dir b f
    let s := drSeq r
    if d.pages.any fun p => p.slots.contains s then .fail 2
    else
      let w := walk b f d g ts
      let stop := ceilDiv (drNtok r) 16 * 16
      let ms := w.pages.map (·.num)
      let held := changePages ms (fun p => { p with slots := p.slots ++ [s], stamp := beat b }) d.pages
      match takePages (poolChunks (part b f)) g s (pagePlan g.pmax (stop / 16 + 1) w.matched stop)
          { pages := held, dropped := [], taken := [] } with
      | none => .fail 3
      | some (fr, a) =>
        let nums := pageNumbers (a.pages.map (·.num)) fr.length
        let new : List Page := (fr.zip nums).map fun x =>
          { num := x.2, st := .opened, t0 := x.1.1, len := x.1.2.1, dataPA := x.1.2.2.1, sidePA := x.1.2.2.2
            dataLen := x.1.2.1 * g.re, sideLen := x.1.2.1 * g.rx, slots := [s], exports := 0, pin := 0, stamp := beat b }
        let old := held.filter fun p => ms.contains p.num
        { status := 0, matched := w.matched, work := stop - w.matched, pages := w.pages.length + new.length
          dropped := a.dropped.length
          act := Act.all [
            .countWalk f w, .stampEntries f w, .dropPages f a.dropped,
            .onDir f (fun d => { d with pages := a.pages ++ new }),
            .onPart f (fun p => { p with
              maps := new.foldl (putPage (tablePlace f p) g s true) (old.foldl (putPage (tablePlace f p) g s false) p.maps) }),
            .each (old ++ new) (.dropPage f s g),
            .each new fun p => .seq (.setMem (p.sidePA + g.x0 + 16) (g.sscale.flatMap fun w => leBytes w.toNat 4))
              (.engineTraffic true [(p.sidePA + g.x0 + 16, 4 * g.sscale.length)])] }

/-- PUBLISH (R237). -/
def dirPublish (b : Block) (f : Nat) (r : Bytes) : DirAnswer :=
  slotOp b f r fun g ts =>
    let d := dir b f
    let s := drSeq r
    let mine := d.pages.filter fun p => p.slots.contains s
    if mine.foldl (fun n p => max n (p.t0 + p.len)) 0 < drNtok r then .fail 2
    else
      let ps := mine.filter fun p => p.st == .opened && decide (p.t0 + p.len ≤ drNtok r)
      let hs := hashes g.seed ts
      { status := 0, matched := 0, work := 0, pages := ps.length, dropped := 0
        act := Act.all [
          .each ps (fun p => .each (List.range p.len) fun k =>
            .seq (.setMem (p.sidePA + k * g.rx + g.x0) (leBytes (natAt ts (p.t0 + k)) 4))
              (.engineTraffic true [(p.sidePA + k * g.rx + g.x0, 4)])),
          .onDir f (fun d => { d with pages := changePages (ps.map (·.num)) (fun p => { p with st := .sealed }) d.pages }),
          .each ps (fun p => Act.all [
            .onPart f (fun q => { q with maps := putPage (tablePlace f q) g s false q.maps p }),
            .dropPage f s g p]),
          .each ps fun p => .each (List.range (p.len / 16)) fun k =>
            let i := p.t0 / 16 + k
            .insertEntry f g ((hs[i]?).getD 0) i (tokBlock ts i) p.num] }

/-- RELEASE (R237). -/
def dirRelease (b : Block) (f : Nat) (r : Bytes) : DirAnswer :=
  slotOp b f r fun g _ =>
    let s := drSeq r
    let mine := (dir b f).pages.filter fun p => p.slots.contains s
    { status := 0, matched := 0, work := 0, pages := mine.length, dropped := 0
      act := Act.all [
        .each mine (fun p => Act.all [
          .onPart f (fun q => { q with maps := takePage g s q.maps p }), .dropPage f s g p]),
        .onDir f fun d => { d with
          pages := (d.pages.filter fun p => !(p.st == .opened && p.slots.contains s)).map fun p =>
            if p.slots.contains s then { p with slots := p.slots.filter (· != s), stamp := beat b } else p }] }

/-- PIN and UNPIN (R237): one more, or one fewer, on each matched page. -/
def dirPin (b : Block) (f : Nat) (r : Bytes) (up : Bool) : DirAnswer :=
  slotOp b f r fun g ts =>
    let w := walk b f (dir b f) g ts
    let move (p : Page) : Page :=
      let n := if up then min 65535 (p.pin + 1) else p.pin - 1
      if n = p.pin then p else { p with pin := n, stamp := beat b }
    let changed := w.pages.filter fun p => move p != p
    { status := 0, matched := w.matched, work := 0, pages := changed.length, dropped := 0
      act := Act.all [.countWalk f w, .stampEntries f w,
        .onDir f fun d => { d with pages := changePages (w.pages.map (·.num)) move d.pages }] }

/-- FLUSH (R237): every droppable page of the function; from the host only. -/
def dirFlush (b : Block) (f : Nat) (r : Bytes) (host : Bool) : DirAnswer :=
  slotOp b f r fun _ _ => if !host then .fail 2
  else
    let ns := ((dir b f).pages.filter Page.droppable).map (·.num)
    { status := 0, matched := 0, work := 0, pages := 0, dropped := ns.length, act := .dropPages f ns }

/-- The record with its response fields (R238). -/
def answered (b : Block) (r : Bytes) (a : DirAnswer) : Bytes :=
  spliceBytes (spliceBytes r 1 (leBytes a.status 1)) 0x14
    (leBytes a.matched 4 ++ leBytes a.work 4 ++ leBytes a.pages 2 ++ leBytes a.dropped 2 ++ leBytes (beat b) 8)

/-! ## The engine (R239, R240) -/

/-- The engine waits on REQ for the next record: no bound (R239). -/
def Act.dirWait (f : Nat) : Act :=
  .read fun b => .opt (geomOf b f) fun g =>
    .when (g.qlen != 0) (.opt (physObj b f g.req) fun o => Act.all [
      .onDir f (fun d => { d with qwait := 1 }), .issue (.wait o { agent := .dir f, n := 1, left := none })])

/-- Virtual address of the queue's next record. -/
def queueVA (b : Block) (f : Nat) (g : Geometry) : Nat := g.qva + (dir b f).qidx % g.qlen * 64

/-- The request that the engine serves next, from the host or from the schedule queue. DESIGN CHOICE (log 20): a record of the
queue whose address does not translate is served as 64 zero bytes, a reserved OP, so that RSP is still signalled. -/
def dirRequest (b : Block) (f : Nat) (host : Bool) : Option Bytes :=
  if host then ((b.dirReqs.find? fun q => q.func == f).map (·.record))
  else match geomOf b f with
    | none => none
    | some g =>
      if g.qlen = 0 ∨ (dir b f).qwait ≠ 2 then none
      else some (((translate b f false (queueVA b f g : Nat) 64).segs.map (segBytes b)).getD (List.replicate 64 0))

/-- The function's engine works, and the share the request runs in is not 0 (R240, 11_integrity.md R330). -/
def dirShare (b : Block) (f : Nat) (host : Bool) : Bool :=
  let r := Reg.tslDirCfg (part b f).engine f
  flag b r 31 && !isFenced b 9 (2 + (part b f).engine) && (if host then fld b r 23 18 != 0 else fld b r 17 12 != 0)

/-- No MOVE in flight was translated under the pages that slot s maps (13_memory.md R381). -/
def slotQuiet (b : Block) (f s : Nat) : Bool :=
  let spans := match geomOf b f with
    | none => []
    | some g => ((dir b f).pages.filter fun p => p.slots.contains s).flatMap fun p =>
        [(g.dataVA s p.t0, p.dataLen), (g.sideVA s p.t0, p.sideLen)]
  (allCoresOf b f).all fun c => (core b c).moves.all fun m => m.pages.all fun x => !meets spans x.1 (2 ^ x.2)

/-- The engine reads n bytes at a virtual address of function f, as far as they translate: its walks and reads wait in their
place in the host path (13_memory.md R371, R381), and an uncorrectable block is a detection (13_memory.md R374). -/
def Act.engineReads (f va n : Nat) : Act :=
  .read fun b =>
    let x := translate b f false (va : Nat) n
    Act.all [.walks f 0x80 x.walks, .opt x.segs fun segs => .seq (.engineTraffic false segs) (.readBad (some f) 2 segs)]

/-- It writes them. -/
def Act.engineWrites (f va n : Nat) : Act :=
  .read fun b =>
    let x := translate b f true (va : Nat) n
    Act.all [.walks f 0x80 x.walks, .opt x.segs (.engineTraffic true)]

/-- The token ids of sealed pages that a walk of a prompt compares: those of each entry that bears a block's hash, up to the
first block that misses (R235). -/
def comparedIds (b : Block) (f : Nat) (g : Geometry) (toks : List Nat) : List (Nat × Nat) :=
  let d := dir b f
  let hs := hashes g.seed toks
  let n := (walkBlocks b f d g toks hs 0).length
  (hs.take (n + 1)).zipIdx.flatMap fun h =>
    (d.entries.filter fun e => e.set == setOf (dirSets b f) h.1 && e.hash == h.1 && e.seed == g.seed && e.pos == 16 * h.2).flatMap
      fun e => match pageNum d e.page with
        | none => []
        | some p => (List.range 16).map fun k => (p.sidePA + (16 * h.2 + k - p.t0) * g.rx + g.x0, 4)

/-- What the engine reads to serve a request: the queue's record, the token ids it names, and the ids it compares with them;
FLUSH and RELEASE name no tokens that it walks. -/
def Act.dirReads (f : Nat) (host : Bool) (r : Bytes) : Act :=
  .read fun b => .opt (geomOf b f) fun g => Act.all [
    .when (!host) (.engineReads f (queueVA b f g) 64),
    .when (decide (drSeq r < g.nseq) && decide (drNtok r ≤ g.tmax)) (Act.all [
      .engineReads f (drTokva r) (4 * drNtok r),
      .when (drOp r == 1 || drOp r == 2 || drOp r == 5 || drOp r == 6) (
        .opt (drTokens b f r) fun ts => .seq (.engineTraffic false (comparedIds b f g ts))
          (.readBad (some f) 2 (comparedIds b f g ts)))])]

/-- The answer goes back: to the mailbox that asked, or into the record with RSP signalled (R239). -/
def Act.dirReply (f : Nat) (host : Bool) (r : Bytes) (a : DirAnswer) : Act :=
  .read fun b =>
    let out := answered b r a
    if host then .opt (b.dirReqs.find? fun q => q.func == f) fun q => Act.all [
      .units (fun u => { u with dirReqs := match u.dirReqs.findIdx? (· == q) with
        | some i => dropAt u.dirReqs i
        | none => u.dirReqs }),
      .respond q.issuer q.mbox a.status 0 out]
    else .opt (geomOf b f) fun g => Act.all [
      .engineWrites f (queueVA b f g) 64,
      .opt (translate b f true (queueVA b f g : Nat) 64).segs (fun segs => .setSegs segs out),
      .onDir f (fun d => { d with qidx := d.qidx + 1, qwait := 0 }),
      .opt (physObj b f g.rsp) (fun o => .issue (.sig o 1 (.dir f) 0)),
      .dirWait f]

/-- The engine serves a request whose OP a test admits. -/
def Act.dirServe (f : Nat) (host : Bool) (op : Nat → Bool) (k : Block → Bytes → DirAnswer) : Act :=
  .read fun b => .opt (dirRequest b f host) fun r =>
    .when (op (drOp r) && dirShare b f host) (
      let a := k b r
      Act.all [.dirReads f host r, a.act, .showDir f, .dirReply f host r a, .freshBlocks])

/-- LOOKUP (R237); a record with a reserved OP is served here, and answered BAD_ARG. -/
def execLookup (f : Nat) (host : Bool) (s : State) : Host.Outcome State Fault Refusal :=
  perform (isVf f) (.dirServe f host (fun op => op == 1 || op == 0 || decide (8 ≤ op)) fun b r =>
    if drOp r = 1 then dirLookup b f r else .fail 1) s

/-- ATTACH (R237). -/
def execAttach (f : Nat) (host : Bool) (s : State) : Host.Outcome State Fault Refusal :=
  perform (isVf f) (.dirServe f host (· == 2) fun b r => dirAttach b f r) s

/-- PUBLISH (R237). -/
def execPublish (f : Nat) (host : Bool) (s : State) : Host.Outcome State Fault Refusal :=
  perform (isVf f) (.dirServe f host (· == 3) fun b r => dirPublish b f r) s

/-- RELEASE (R237): it waits until every MOVE under the removed entries has completed (13_memory.md R381). -/
def execRelease (f : Nat) (host : Bool) (s : State) : Host.Outcome State Fault Refusal :=
  perform (isVf f) (.read fun b => .opt (dirRequest b f host) fun r => .when (slotQuiet b f (drSeq r))
    (.dirServe f host (· == 4) fun b r => dirRelease b f r)) s

/-- PIN (R237). -/
def execPin (f : Nat) (host : Bool) (s : State) : Host.Outcome State Fault Refusal :=
  perform (isVf f) (.dirServe f host (· == 5) fun b r => dirPin b f r true) s

/-- UNPIN (R237). -/
def execUnpin (f : Nat) (host : Bool) (s : State) : Host.Outcome State Fault Refusal :=
  perform (isVf f) (.dirServe f host (· == 6) fun b r => dirPin b f r false) s

/-- FLUSH (R237). -/
def execFlush (f : Nat) (host : Bool) (s : State) : Host.Outcome State Fault Refusal :=
  perform (isVf f) (.dirServe f host (· == 7) fun b r => dirFlush b f r host) s

/-- A reset function, or a destroyed partition: every page is freed and every entry invalid (R232). -/
def Act.clearDir (f : Nat) : Act :=
  Act.all [.onDir f (fun _ => DirFn.reset),
    .units (fun u => { u with dirReqs := u.dirReqs.filter fun q => q.func != f })]

end Sys2Proof.Machine
end

