-- ==== Sys2Proof/Machine/Exports.lean ====
section
/-! DEFINITION. Teasel exports as data in transit (10_links.md R291, R292, R295 to R297, R305, R306): Ethernet frames and
segments, slots, and the verdicts of epochs. -/

namespace Sys2Proof.Machine

/-! ## Descriptors (R298) -/

def exId (x : Export) : Nat := leAt x.desc 0 8
def exTfmt (x : Export) : Nat := leAt x.desc 0x14 1
def exPort (x : Export) : Nat := leAt x.desc 0x15 1
def exHold (x : Export) : Bool := bitOf (leAt x.desc 0x16 1) 0
def exIpv4 (x : Export) : Bool := bitOf (leAt x.desc 0x16 1) 1
def exChannel (x : Export) : Nat := leAt x.desc 0x18 2
def exUdp (x : Export) : Nat := leAt x.desc 0x1A 2
def exSlotSize (x : Export) : Nat := leAt x.desc 0x1C 4
/-- Where an export's segments go: address and port. -/
def exDest (x : Export) : Bytes := (x.desc.drop 0x20).take 22 ++ leBytes (exUdp x) 2 ++ [BitVec.ofNat 8 (exPort x)]

/-- Export with handle h. -/
def exportOf? (b : Block) (h : Nat) : Option Export := smGet b.exports h

/-- An export changes. -/
def Act.onExport (h : Nat) (g : Export → Export) : Act :=
  .units fun u => match smGet u.exports h with
    | some x => { u with exports := smPut u.exports h (g x) }
    | none => u

/-- Every page message has been cut out of the pages. -/
def Export.allRead (x : Export) : Bool := x.nextPage == x.totalPages

/-! ## Frames (R295, R296) -/

/-- A segment: header and payload. -/
def segment (kind seq id epoch ackno : Nat) (payload : Bytes) : Bytes :=
  let s := leBytes kind 1 ++ leBytes 1 1 ++ leBytes payload.length 2 ++ leBytes seq 4 ++ leBytes id 8 ++ leBytes epoch 2 ++
    leBytes 0 2 ++ leBytes ackno 4 ++ leBytes 0 4 ++ leBytes 0 4 ++ payload
  spliceBytes s 0x18 (leBytes (crc32c s).toNat 4)

/-- A frame padded to 60 bytes, with its frame check sequence. -/
def withFcs (f : Bytes) : Bytes :=
  let g := f ++ List.replicate (60 - f.length) 0
  g ++ leBytes (crc32 g).toNat 4

/-- The port's own MAC, IPv6 and IPv4 addresses, in the order they are sent. -/
def ownMac (b : Block) (p : Nat) : Bytes := beBytes (rd b (.lnkEthMac p)) 6
def ownIp6 (b : Block) (p : Nat) : Bytes := (List.range 4).flatMap fun w => beBytes (rd b (.lnkEthIp6 p w)) 4
def ownIp4 (b : Block) (p : Nat) : Bytes := beBytes (rd b (.lnkEthIp4 p)) 4

/-- LNK_ETH_L4: the Teasel port, hop limit, DSCP. -/
def ethUdp (b : Block) (p : Nat) : Nat := fld b (.lnkEthL4 p) 31 16
def ethHops (b : Block) (p : Nat) : Nat := fld b (.lnkEthL4 p) 15 8
def ethDscp (b : Block) (p : Nat) : Nat := fld b (.lnkEthL4 p) 7 2

/-- A checksum that is never sent as 0 (UDP). -/
def udpSum (d : Bytes) : Nat := if inetSum d = 0 then 0xFFFF else inetSum d

/-- A UDP datagram under a pseudo-header. -/
def udpBytes (pseudo : Bytes) (src dst : Nat) (payload : Bytes) : Bytes :=
  let len := 8 + payload.length
  let h (sum : Nat) : Bytes := beBytes src 2 ++ beBytes dst 2 ++ beBytes len 2 ++ beBytes sum 2 ++ payload
  h (udpSum (pseudo ++ h 0))

/-- The frame that carries a segment of an export (R295). -/
def segFrame (b : Block) (x : Export) (seg : Bytes) : Bytes :=
  let p := exPort x
  let len := 8 + seg.length
  let src := 0xC000 + exId x % 0x4000
  let mac := (x.desc.drop 0x30).take 6 ++ ownMac b p
  if exIpv4 x then
    let dst := (x.desc.drop 0x20).take 4
    let h (sum : Nat) : Bytes := [0x45] ++ beBytes (ethDscp b p * 4) 1 ++ beBytes (20 + len) 2 ++ beBytes 0 2 ++
      beBytes 0x4000 2 ++ beBytes (ethHops b p) 1 ++ beBytes 17 1 ++ beBytes sum 2 ++ ownIp4 b p ++ dst
    withFcs (mac ++ beBytes 0x0800 2 ++ h (inetSum (h 0)) ++
      udpBytes (ownIp4 b p ++ dst ++ beBytes 17 2 ++ beBytes len 2) src (exUdp x) seg)
  else
    let dst := (x.desc.drop 0x20).take 16
    let h := beBytes (6 * 2 ^ 28 + ethDscp b p * 4 * 2 ^ 20 + exId x % 2 ^ 20) 4 ++ beBytes len 2 ++ beBytes 17 1 ++
      beBytes (ethHops b p) 1 ++ ownIp6 b p ++ dst
    withFcs (mac ++ beBytes 0x86DD 2 ++ h ++
      udpBytes (ownIp6 b p ++ dst ++ beBytes len 4 ++ beBytes 17 4) src (exUdp x) seg)

/-! ## Cutting the stream (R305) -/

/-- Bytes of an export that wait to be cut. -/
def Export.bufLen (x : Export) : Nat := x.buf.foldl (fun n c => n + c.2.length) 0

/-- The first n bytes of the runs, as runs, and the rest. -/
def takeRuns : Nat → List (Nat × Bytes) → List (Nat × Bytes) × List (Nat × Bytes)
  | _, [] => ([], [])
  | n, c :: r =>
    if n = 0 then ([], c :: r)
    else if c.2.length ≤ n then
      let x := takeRuns (n - c.2.length) r
      (c :: x.1, x.2)
    else ([(c.1, c.2.take n)], (c.1, c.2.drop n) :: r)

/-- A list of distinct numbers with one more. -/
def addNew (l : List Nat) (e : Nat) : List Nat := if l.contains e then l else l ++ [e]

/-- Data read in epoch e for export h belongs to that epoch in its partition, on its port, and, for segments that leave
without HOLD, at its destination (R291, R297, R305). -/
def Act.readEpoch (h e : Nat) : Act :=
  .read fun b => .opt (exportOf? b h) fun x => Act.all [
    .onExport h (fun x => { x with epochs := addNew x.epochs e }),
    .onPart x.func (fun q => { q with sentEpochs := addNew q.sentEpochs e }),
    .onPort (exPort x) fun t =>
      if fld b (.lnkCfg (exPort x)) 31 30 = 2 then
        { t with ethSent := if exHold x || t.ethSent.contains (e, x.func, x.desc) then t.ethSent else t.ethSent ++ [(e, x.func, x.desc)] }
      else { t with epochs := addNew t.epochs e }]

/-- A segment leaves, if its port is up; else it waits for the next timeout. -/
def Act.sendSeg (h seq : Nat) (seg : Bytes) : Act :=
  .read fun b => .opt (exportOf? b h) fun x =>
    let fr := segFrame b x seg
    Act.all [
      .when (fld b (.lnkStatus (exPort x)) 23 20 == 2) (Act.all [
        .emit (.ethFrame (exPort x) fr), .count (.tslBytes (exPort x / 8)) (seg.length - 32)]),
      .onExport h fun x => { x with unacked := x.unacked ++ [(seq, fr)] }]

/-- The bytes of one segment or slot of an export. -/
def cutSize (b : Block) (x : Export) : Nat :=
  if fld b (.lnkCfg (exPort x)) 31 30 = 2 then fld b (.lnkEthSeg (exPort x)) 13 0 else exSlotSize x

/-- The next segment or slot of an export is cut, if its window or its credits and its bytes allow. A segment names the
latest epoch of its bytes (R296); a slot enters the transmit queue run by run, so that every cell has one epoch. -/
def Act.cutOne (h : Nat) : Act :=
  .read fun b => .opt (exportOf? b h) fun x =>
    let p := exPort x
    let eth := fld b (.lnkCfg p) 31 30 == 2
    let size := cutSize b x
    let n := min size x.bufLen
    let room := if eth then decide (x.unacked.length + x.heldSegs.length < 1024) else x.credits != 0
    let y := takeRuns n x.buf
    let es := y.1.foldl (fun l c => addNew l c.1) []
    .when (x.ending.isNone && n != 0 && room && (n == size || x.allRead)) (
      if eth then
        let seg := segment 1 (x.seqno % 2 ^ 32) (exId x) (es.foldl max 0 % 65536) 0 (y.1.flatMap (·.2))
        let hold := exHold x && es.any x.epochs.contains
        Act.all [
          .onExport h (fun x => { x with
            buf := y.2, seqno := x.seqno + 1
            heldSegs := if hold then x.heldSegs ++ [(x.seqno, es, seg)] else x.heldSegs }),
          .when (!hold) (.sendSeg h x.seqno seg)]
      else Act.all [
        .onPort p (fun s => { s with
          txq := s.txq ++ y.1.zipIdx.map fun c =>
            { channel := exChannel x, data := c.1.2, last := c.2 + 1 == y.1.length, epoch := c.1.1, teasel := some h } }),
        .onExport h (fun x => { x with buf := y.2, credits := x.credits - 1 })])

/-- As many as its window or credits allow. -/
def Act.cutUp : Nat → Nat → Act
  | 0, _ => Act.nop
  | n + 1, h => (Act.cutOne h).seq (Act.cutUp n h)

/-- TSL_HOLD_KIB of an engine. -/
def Act.showHold (e : Nat) : Act :=
  .read fun b =>
    let mine := (b.exports.map (·.2)).filter fun x => exPort x / 8 == e
    let bytes := (mine.flatMap fun x => x.heldSegs.map fun s => s.2.2.length - 32).foldl (· + ·) 0
    .setFld (.tslStatus e) 15 0 (ceilDiv bytes 1024)

/-- An export sends what it may: held segments whose epoch has cleared, then what it can cut. -/
def Act.pump (h : Nat) : Act :=
  .read fun b => .opt (exportOf? b h) fun x =>
    let free := x.heldSegs.filter fun s => !s.2.1.any x.epochs.contains
    Act.all [
      .onExport h (fun x => { x with heldSegs := x.heldSegs.filter fun s => s.2.1.any x.epochs.contains }),
      .when x.ending.isNone (.each free fun s => .sendSeg h s.1 s.2.2),
      .cutUp (max 16 (x.bufLen / 1024 + 2)) h,
      .showHold (exPort x / 8)]

/-- n credits for channel ch of port p reach the export of function f that sends on it (R286, R305). -/
def Act.creditExports (f p ch n : Nat) : Act :=
  .read fun b => .each (b.exports.filter fun x => x.2.func == f && exPort x.2 == p && exChannel x.2 == ch) fun x =>
    Act.all [.onExport x.1 (fun x => { x with credits := x.credits + n }), .pump x.1]

/-! ## Epoch verdicts (R324, 10_links.md R292) -/

/-- The partition fails an epoch (R324). -/
def failsEpoch (p : Partition) (e : Nat) : Bool :=
  p.taints.any fun t => decide (t.1 ≤ 16 * e + 15) && decide (16 * e ≤ t.2)

/-- A POISON is sent: its record (11_integrity.md R333). -/
def Act.logPoison (p f e : Nat) : Act :=
  .read fun b => .log { partRecord b f with detector := 0x31, syndrome := p + e * 65536 }

/-- The verdict of an epoch on one port that carried its data (10_links.md R292 to R294): a notice to the peer (a clear one
for the frame that starts at beat 16e + 32), or, in profile J, the held cells released or dropped. -/
def Act.portVerdict (p e : Nat) (failed : Bool) : Act :=
  .read fun b => Act.all [
    .onPort p (fun s => { s with
      epochs := s.epochs.filter (· != e)
      txq := if failed && portProfile b p == 2 then s.txq.filter fun x => x.epoch != e else s.txq }),
    .when (fld b (.lnkCfg p) 31 30 == 1 && portProfile b p != 2) (
      if failed then Act.all [.ctlMsg p 8 0 (e % 2 ^ 32) (rd b .srlSerial), .logPoison p (Machine.port b p).func e]
      else .ctlMsgAt p 7 0 (e % 2 ^ 32) 0 (16 * e + 31))]

/-- The verdict of an epoch for a partition: its checkpoints wait no longer, or are discarded (R327). -/
def Act.partVerdict (f e : Nat) (failed : Bool) : Act :=
  Act.all [
    .onPart f (fun p => { p with
      sentEpochs := p.sentEpochs.filter (· != e)
      ckpts := if failed then p.ckpts.filter fun k => !k.pendingEpochs.contains (2 * e)
        else p.ckpts.map fun k => { k with pendingEpochs := k.pendingEpochs.filter fun x => x != 2 * e } }),
    .when failed (.count .chkEpochsFailed 1)]

/-- What a notice to a destination needs of the export that sent the data: its descriptor. -/
def Export.ofDesc (f : Nat) (desc : Bytes) : Export :=
  { func := f, desc := desc, geom := none, pages := [], nextPage := 0, totalPages := 0, buf := [], unacked := [], heldSegs := []
    accNo := 0, convPend := [], readBeat := 0, seqno := 0, ackno := 0, lastAck := 0, timeouts := 0, credits := 0, epochs := []
    ending := none }

/-- Without the later of two exports with one destination. -/
def oneDest : List Export → List Bytes → List Export
  | [], _ => []
  | x :: r, seen => if seen.contains (exDest x) then oneDest r seen else x :: oneDest r (exDest x :: seen)

/-- EPOCH_CLEAR and POISON segments of an epoch, one to each Ethernet destination that receives its data, of exports that
have ended too; each POISON has its record (R297, 11_integrity.md R333). -/
def Act.segVerdicts (e : Nat) : Act :=
  .read fun b => .each (List.range 16) fun p =>
    let mine := (Machine.port b p).ethSent.filter fun x => x.1 == e
    .when (!mine.isEmpty) (Act.all [
      .each (oneDest (mine.map fun x => Export.ofDesc x.2.1 x.2.2) []) (fun x =>
        let failed := failsEpoch (part b x.func) e
        Act.all [
          .when (fld b (.lnkStatus p) 23 20 == 2)
            (.emit (.ethFrame p (segFrame b x (segment (if failed then 4 else 3) 0 (exId x) (e % 65536) 0 [])))),
          .when failed (.logPoison p x.func e)]),
      .onPort p fun t => { t with ethSent := t.ethSent.filter fun x => x.1 != e }])

/-- The verdict of an epoch for an export: held segments go out, or the export ends POISONED and the rest is not sent
(R297, R306). -/
def Act.exportVerdict (h e : Nat) (failed : Bool) : Act :=
  .read fun b => .opt (exportOf? b h) fun x => Act.all [
    .onExport h (fun x => { x with
      epochs := x.epochs.filter (· != e)
      ending := if failed && x.ending.isNone then some 2 else x.ending
      buf := if failed then [] else x.buf
      heldSegs := if failed then [] else x.heldSegs }),
    .when failed (.onPort (exPort x) fun s => { s with txq := s.txq.filter fun i => i.teasel != some h }),
    .pump h]

/-- EPOCH_VERDICT: at beat 16e + 32 epoch e is cleared or poisoned for every partition, port and export that carried
its data (10_links.md R292). -/
def execEpochVerdict (e : Nat) (s : State) : Host.Outcome State Fault Refusal :=
  perform true (.whenB (fun b => decide (16 * e + 32 ≤ beat b)) (.read fun b => Act.all [
    .segVerdicts e,
    .each ((List.range 16).filter fun p => (port b p).epochs.contains e) (fun p =>
      .portVerdict p e (failsEpoch (part b (port b p).func) e)),
    .each ((owners b).filter fun f => (part b f).sentEpochs.contains e) (fun f =>
      .partVerdict f e (failsEpoch (part b f) e)),
    .each (b.exports.filter fun x => x.2.epochs.contains e) fun x =>
      .exportVerdict x.1 e (failsEpoch (part b x.2.func) e)])) s

end Sys2Proof.Machine
end

