-- ==== Sys2Proof/Machine/Links.lean ====
section
/-! DEFINITION. Bindweed ports (10_links.md R271 to R294): frames and cells, replay, lanes, channels, control messages,
beat markers and the beat lock (09_schedules.md R264, R265). -/

namespace Sys2Proof.Machine

/-! ## Ports -/

def portMode (b : Block) (p : Nat) : Nat := fld b (.lnkCfg p) 31 30
def portState (b : Block) (p : Nat) : Nat := fld b (.lnkStatus p) 23 20
def portWidth (b : Block) (p : Nat) : Nat := fld b (.lnkStatus p) 19 16
def portLd (b : Block) (p : Nat) : Nat := fld b (.lnkStatus p) 15 8
def Act.setPortState (p st : Nat) : Act := .setFld (.lnkStatus p) 23 20 st

def lnkOff : Nat := 0
def lnkTraining : Nat := 1
def lnkUp : Nat := 2
def lnkReplaying : Nat := 3
def lnkRetraining : Nat := 4
def lnkDown : Nat := 5

/-- A Bindweed port that carries frames. -/
def carries (b : Block) (p : Nat) : Bool :=
  portMode b p == 1 && (portState b p == lnkUp || portState b p == lnkReplaying)

/-- The edge die of a port (01_module.md R24). -/
def edgeOf (p : Nat) : Nat := p / 8

/-- SRL_DOM_STATE. -/
def domState (b : Block) : Nat := fld b .srlDomStatus 31 30

/-- The lock's state changes: a module event (12_host.md R364). -/
def Act.setDomState (st : Nat) : Act :=
  .read fun b => .when (domState b != st) (Act.all [.setFld .srlDomStatus 31 30 st, .event 0 3])

/-- The port delivers by the beat: the module is locked, its domain record gives the port a latency (09_schedules.md
R264), and the latency measured does not exceed the 63 beats that can be locked (R289). -/
def portLocked (b : Block) (p : Nat) : Bool :=
  domState b == 2 && decide (portLd b p ≤ 63) && (match b.lock.domain with
    | none => false
    | some d => natAt d.ldmax p != 0 && natAt d.ldmax p != 0xFF)

/-- Cells per frame (R275). -/
def cellsPerFrame (profile width : Nat) : Nat := width * (if profile = 0 then 40 else if profile = 1 then 20 else 10)

/-- The lane that carries cell i of a frame: the (i mod w)-th of the lanes in use (R275). -/
def cellLane (b : Block) (p i : Nat) : Nat :=
  (((List.range 4).filter fun l => flag b (.lnkStatus p) (28 + l))[i % max 1 (portWidth b p)]?).getD 0

/-- The channel that marks further control positions in a plan (R290). -/
def ctlChannel : Nat := 0xFFF

/-- The plan of a port in the image of its partition. -/
def portPlan (b : Block) (p : Nat) : Option PortPlan :=
  (part b (port b p).func).image.bind fun im => im.plan.find? fun x => x.port == p

/-! ## Cells (R276, R277) -/

/-- A cell: header, payload padded to 384 bytes, CRC. -/
def cellBytes (typ flags channel epoch frame : Nat) (payload : Bytes) : Bytes :=
  let len := payload.length
  let c := leBytes typ 1 ++ leBytes flags 1 ++ leBytes channel 2 ++ leBytes len 2 ++ leBytes epoch 2 ++ leBytes frame 4 ++
    leBytes 0 4 ++ payload ++ List.replicate (384 - len) 0
  spliceBytes c 12 (leBytes (crc32c c).toNat 4)

/-- The cell with REPLAY set. -/
def asReplay (c : Bytes) : Bytes :=
  let d := spliceBytes (spliceBytes c 1 (leBytes (leAt c 1 1 ||| 2) 1)) 12 (leBytes 0 4)
  spliceBytes d 12 (leBytes (crc32c d).toNat 4)

/-- A cell whose CRC holds. -/
def cellOk (c : Bytes) : Bool :=
  c.length == 400 && (crc32c (spliceBytes c 12 (leBytes 0 4))).toNat == leAt c 12 4

def cellType (c : Bytes) : Nat := leAt c 0 1
def cellLast (c : Bytes) : Bool := leAt c 1 1 % 2 == 1
def cellReplay (c : Bytes) : Bool := leAt c 1 1 / 2 % 2 == 1
def cellChannel (c : Bytes) : Nat := leAt c 2 2 % 4096
def cellLen (c : Bytes) : Nat := min (leAt c 4 2) 384
def cellEpoch (c : Bytes) : Nat := leAt c 6 2
def cellFrame (c : Bytes) : Nat := leAt c 8 4
def cellPayload (c : Bytes) : Bytes := (c.drop 16).take (cellLen c)

/-- The 16 bytes of a message. -/
def msgBytes (m : CtlMsg) : Bytes := leBytes m.mtype 1 ++ leBytes 0 1 ++ leBytes m.id 2 ++ leBytes m.arg0 4 ++ leBytes m.arg1 8

/-- The messages of a control cell, empty ones left out; each may be applied from beat q. -/
def cellMsgs (q : Nat) (c : Bytes) : List CtlMsg :=
  ((List.range (cellLen c / 16)).map fun i =>
    let o := 16 + 16 * i
    { mtype := leAt c o 1, id := leAt c (o + 2) 2, arg0 := leAt c (o + 4) 4, arg1 := leAt c (o + 8) 8, beat := q : CtlMsg }
  ).filter fun m => m.mtype != 0

/-- R277: by MTYPE, then in the order issued (by the beat of issue), then by ascending ID. -/
def CtlMsg.before (m x : CtlMsg) : Bool :=
  decide (m.mtype < x.mtype) || (m.mtype == x.mtype &&
    (decide (m.beat < x.beat) || (m.beat == x.beat && decide (m.id < x.id))))

/-- A message in its place, behind its equals. -/
def insertMsg (m : CtlMsg) : List CtlMsg → List CtlMsg
  | [] => [m]
  | x :: r => if m.before x then m :: x :: r else x :: insertMsg m r

/-- Messages in the order of R277. -/
def orderMsgs (l : List CtlMsg) : List CtlMsg := l.foldl (fun a m => insertMsg m a) []

/-! ## Sending a frame (R275, R278, R279, R284, R305) -/

/-- What the frame in the making has taken so far. -/
structure Sending where
  cells : List Bytes
  txq : List TxItem
  msgs : List CtlMsg
  /-- data cells sent, their Teasel bytes -/
  data : Nat
  teasel : Nat

/-- Up to n bytes of one slot on a channel (of an export t, or of none), all of epoch e: the bytes, whether the last of
them ends the slot, and the queue left. -/
def takeBytes (ch : Nat) (t : Option Nat) (e : Nat) : Nat → List TxItem → Bytes × Bool × List TxItem
  | _, [] => ([], false, [])
  | n, i :: r =>
    if i.channel ≠ ch ∨ i.teasel ≠ t then
      let x := takeBytes ch t e n r
      (x.1, x.2.1, i :: x.2.2)
    else if i.epoch ≠ e ∨ n = 0 then ([], false, i :: r)
    else if i.data.length ≤ n then
      if i.last then (i.data, true, r)
      else
        let x := takeBytes ch t e (n - i.data.length) r
        (i.data ++ x.1, x.2.1, x.2.2)
    else (i.data.take n, false, { i with data := i.data.drop n } :: r)

/-- The next data cell of a queue entry's channel, at most `most` payload bytes. -/
def cutCell (frame profile most : Nat) (i : TxItem) (s : Sending) : Sending :=
  let x := takeBytes i.channel i.teasel i.epoch (min 384 most) s.txq
  if x.1.isEmpty then s
  else { s with
    cells := s.cells ++ [cellBytes 2 x.2.1.toNat i.channel (if profile = 2 then 0 else i.epoch % 65536) frame x.1]
    txq := x.2.2, data := s.data + 1, teasel := s.teasel + (if i.teasel.isSome then x.1.length else 0) }

/-- A queue entry may leave: in profile J only once its epoch has cleared (R293). -/
def mayLeave (profile : Nat) (held : List Nat) (i : TxItem) : Bool := profile != 2 || !held.contains i.epoch

/-- The next cell of channel ch, if it has data that may leave. -/
def chanCell (frame profile ch : Nat) (held : List Nat) (s : Sending) : Option Sending :=
  match s.txq.find? fun i => i.channel == ch && i.teasel.isNone with
  | none => none
  | some i => if mayLeave profile held i then some (cutCell frame profile 384 i s) else none

/-- The next Teasel cell within a budget of bytes for the frame (R305). -/
def teaselCell (frame profile budget : Nat) (held : List Nat) (s : Sending) : Option Sending :=
  match s.txq.find? fun i => i.teasel.isSome with
  | none => none
  | some i =>
    if mayLeave profile held i && decide (s.teasel + 16 ≤ budget)
    then some (cutCell frame profile ((budget - s.teasel) / 16 * 16) i s) else none

/-- An ECHO_REQ names the core cycle it leaves in, however long it has waited (R277). -/
def CtlMsg.stamped (cycle : Nat) (m : CtlMsg) : CtlMsg := if m.mtype = 9 then { m with arg1 := cycle % 2 ^ 64 } else m

/-- A control cell with the next 24 messages, the standing ones among them; what does not fit waits (R277). `cycle` is the
core cycle that its frame begins in. -/
def ctlCell (frame cycle : Nat) (standing : List CtlMsg) (s : Sending) : Sending :=
  let all := orderMsgs (standing ++ s.msgs)
  { s with
    cells := s.cells ++ [cellBytes 1 0 0 0 frame ((all.take 24).flatMap fun m => msgBytes (m.stamped cycle))]
    msgs := all.drop 24 }

/-- An idle cell. -/
def idleCell (frame : Nat) (s : Sending) : Sending := { s with cells := s.cells ++ [cellBytes 0 0 0 0 frame []] }

/-- The channel of plan position i: none, or the record's. -/
def planAt (pl : Option PortPlan) (i : Nat) : Option Nat :=
  pl.bind fun x => (x.tx.find? fun r => r.pos.getLsbD i).map (·.channel)

/-- Everything FRAME_START needs of the port. -/
structure FrameCtx where
  frame : Nat
  cycle : Nat
  profile : Nat
  plan : Option PortPlan
  held : List Nat
  budget : Nat
  ack : CtlMsg

/-- Position i of an unstretched frame (R278). -/
def sendPosition (k : FrameCtx) (s : Sending) (i : Nat) : Sending :=
  let teaselOrIdle := (teaselCell k.frame k.profile k.budget k.held s).getD (idleCell k.frame s)
  match planAt k.plan i with
  | some ch =>
    if ch = ctlChannel then ctlCell k.frame k.cycle [k.ack] s
    else (chanCell k.frame k.profile ch k.held s).getD (idleCell k.frame s)
  | none => teaselOrIdle

/-- A stretched plan (R281): from a plan position on, idle ones left out, while the frame has room; the cells left and
the position reached. -/
def sendStretched (k : FrameCtx) (last : Nat) : Nat → Nat → Nat → Sending → Sending × Nat × Nat
  | 0, i, room, s => (s, i, room)
  | fuel + 1, i, room, s =>
    if room = 0 ∨ last ≤ i then (s, i, room)
    else
      match planAt k.plan i with
      | none => sendStretched k last fuel (i + 1) room s
      | some ch =>
        if ch = ctlChannel then
          if s.msgs.isEmpty then sendStretched k last fuel (i + 1) room s
          else sendStretched k last fuel (i + 1) (room - 1) (ctlCell k.frame k.cycle [k.ack] s)
        else match chanCell k.frame k.profile ch k.held s with
          | none => sendStretched k last fuel (i + 1) room s
          | some t => sendStretched k last fuel (i + 1) (room - 1) t

/-- The rest of a frame: Teasel cells, then idle ones. -/
def sendRest (k : FrameCtx) : Nat → Sending → Sending
  | 0, s => s
  | n + 1, s => sendRest k n ((teaselCell k.frame k.profile k.budget k.held s).getD (idleCell k.frame s))

/-- Idle cells only. -/
def sendIdle (k : FrameCtx) : Nat → Sending → Sending
  | 0, s => s
  | n + 1, s => sendIdle k n (idleCell k.frame s)

/-- The cells of a frame after its control cell and its replayed cells, in `room` positions; and the plan position
reached. -/
def sendData (k : FrameCtx) (width planPos room : Nat) (stretch full : Bool) (s : Sending) : Sending × Nat :=
  let last := cellsPerFrame k.profile 4
  if full then (sendIdle k room s, planPos)
  else if width = 4 ∧ !stretch then (((List.range (last - 1)).map (· + 1)).foldl (sendPosition k) s, 1)
  else
    let x := sendStretched k last last planPos room s
    (sendRest k x.2.2 x.1, if last ≤ x.2.1 then 1 else x.2.1)

/-- Teasel bytes function f has left on an edge die in the frame (R305). -/
def teaselBudget (b : Block) (p frame : Nat) : Nat :=
  let f := (port b p).func
  let used := (((List.range 16).filter fun q => edgeOf q == edgeOf p && (port b q).func == f &&
    (port b q).txFrame == frame + 1 && q != p).map fun q => (port b q).tslBytes).foldl (· + ·) 0
  4 * fld b (.tslRate (edgeOf p) f) 11 0 * 64 - used

/-- The port sends an ECHO_REQ in its next frame: one of 16 after a bring-up or retrain, once the replay is over, since a
replayed request would measure the replay too (R289; log 45). -/
def sendsEcho (t : PortState) : Bool := t.echoLeft != 0 && t.replayQ.isEmpty

/-- Messages that stand in every control cell 0 of a port (R279, R288, R289). -/
def standingMsgs (b : Block) (p q : Nat) (ack : CtlMsg) : List CtlMsg :=
  let s := port b p
  let plain (t i x y : Nat) : CtlMsg := { mtype := t, id := i, arg0 := x, arg1 := y, beat := q }
  (if portLocked b p then [plain 1 (fld b .srlDomStatus 24 16) (rd b .srlDomId % 2 ^ 32) q] else []) ++
  (if s.msgs.any fun m => m.mtype == 3 && decide (m.beat < q) then [] else [ack]) ++
  (if sendsEcho s then [plain 9 (s.echoSeq % 65536) 0 0] else [])

/-- A frame of a port that retrains: it carries the LANES messages alone (R281). -/
def Act.lanesFrame (p q : Nat) : Act :=
  .read fun b =>
    let ms := (Machine.port b p).msgs.filter fun m => m.mtype == 11 && decide (m.beat < q)
    .when (!ms.isEmpty) (Act.all [
      .emit (.cell p (cellLane b p 0) (cellBytes 1 0 0 0 (q / 4 % 2 ^ 32) ((ms.take 24).flatMap msgBytes))),
      .onPort p fun t => { t with msgs := t.msgs.filter (fun m => !(m.mtype == 11 && decide (m.beat < q))), txFrame := q / 4 + 1 }])

/-- FRAME_START: a frame begins in each beat whose count is a multiple of 4 (R273, R275) and is sent once: its control
cell 0, the cells to replay, planned cells, Teasel cells and idle cells. Control cells are kept for replay though 40
frames are open, since nothing else would bring their messages again (log 45). -/
def execFrameStart (p : Nat) (s : State) : Host.Outcome State Fault Refusal :=
  perform (isPort p) (.read fun b =>
    let t := port b p
    let full := beat b / 4
    let q := beat b
    Act.seq
      (.when (portMode b p == 1 && portState b p == lnkRetraining && q % 4 == 0 && decide (t.txFrame ≤ full)) (.lanesFrame p q)) <|
    .when (carries b p && q % 4 == 0 && decide (t.txFrame ≤ full)) (
      let frame := full % 2 ^ 32
      let profile := portProfile b p
      let n := cellsPerFrame profile (portWidth b p)
      let ack : CtlMsg := { mtype := 2, id := 0, arg0 := 0, arg1 := t.ackFrame, beat := q }
      let k : FrameCtx := { frame := frame, cycle := q * 256, profile := profile, plan := portPlan b p, held := t.epochs
                            budget := teaselBudget b p full, ack := ack }
      let start : Sending := { cells := [], txq := t.txq, msgs := t.msgs.filter fun m => decide (m.beat < q), data := 0, teasel := 0 }
      let s0 := ctlCell frame (q * 256) (standingMsgs b p q ack) start
      let replays := t.replayQ.take (n - 1)
      let left := t.replayQ.drop (n - 1)
      let open' := decide (t.replayBuf.length < 40)
      let own := if !t.replayQ.isEmpty then s0.cells.map asReplay else []
      let replays' := replays ++ own.take (n - 1 - replays.length)
      let left' := left ++ own.drop (n - 1 - replays.length)
      let stretch := !t.replayQ.isEmpty || t.planPos != 1
      let x := sendData k (portWidth b p) t.planPos (n - 1 - replays'.length) stretch (!open')
        { s0 with cells := s0.cells ++ replays' }
      let fresh := x.1.cells.filter fun c => cellType c != 0 && !cellReplay c
      Act.all [
        .each x.1.cells.zipIdx (fun c => .emit (.cell p (cellLane b p c.2) c.1)),
        .onPort p (fun t => { t with
          txq := x.1.txq
          msgs := x.1.msgs ++ t.msgs.filter fun m => decide (q ≤ m.beat)
          replayQ := left', planPos := x.2, txFrame := full + 1, tslBytes := x.1.teasel
          replayBuf := t.replayBuf ++ [(frame, fresh)]
          echoLeft := t.echoLeft - (sendsEcho t).toNat, echoSeq := t.echoSeq + (sendsEcho t).toNat }),
        .count (.lnkTxCells p) x.1.data,
        .count (.lnkReplays p) replays'.length,
        .count (.tslBytes (edgeOf p)) x.1.teasel,
        .when (portState b p == lnkReplaying && left'.isEmpty) (.setPortState p lnkUp)])) s

/-! ## Receiving cells (R279, R285) -/

/-- The receive binding of a channel (R290). -/
def rxRec (b : Block) (p ch : Nat) : Option RxRec := (rxRecs b (port b p).func p).find? fun r => r.channel == ch

/-- The full count of a frame whose low 32 bits a cell carries: the latest not after the local count. -/
def fullFrame (b : Block) (f : Nat) : Nat :=
  let now := beat b / 4
  let g := now / 2 ^ 32 * 2 ^ 32 + f
  if now < g then g - 2 ^ 32 else g

/-- The beat from which a cell, or a message in it, is delivered (R264, R287): on a locked port Ld beats after the one
that carries it, and not before it arrives; else on arrival. `sub` = the beat of its frame, 0 for a message. -/
def dueBeat (b : Block) (p frame sub : Nat) : Nat :=
  if portLocked b p then max (beat b) (4 * fullFrame b frame + sub + portLd b p) else beat b

/-- The beat of the frame in which its i-th cell is carried (R275). -/
def cellBeat (b : Block) (p i : Nat) : Nat :=
  let w := max 1 (portWidth b p)
  i / w * 4 / max 1 (cellsPerFrame (portProfile b p) w / w)

/-- The data came after its delivery beat (R264). -/
def isLate (b : Block) (p frame sub : Nat) : Bool :=
  portLocked b p && decide (4 * fullFrame b frame + sub + portLd b p < beat b)

/-- Half the beats after which a 16-bit epoch number comes again (R291). -/
def epochSpan : Nat := 2 ^ 19

/-- A notice of epoch e stands at a beat: it names the epoch of that number whose cells arrive now, and not the one 65,536
epochs earlier (R291; log 46). -/
def noticed (l : List (Nat × Nat)) (now e : Nat) : Bool :=
  match smGet l e with
  | some at' => decide (now < at' + epochSpan)
  | none => false

/-- The epochs of a slot after one more cell, in epoch e at a beat: nothing in profile J, nothing for an epoch that has
cleared, and an entry that no EPOCH_CLEAR removes for a poisoned one (R293, R294). -/
def addEpoch (s : PortState) (profile now e : Nat) (l : List Nat) : List Nat :=
  let x := if noticed s.poisoned now e then e + 65536 else e
  if profile = 2 ∨ l.contains x ∨ noticed s.cleared now e then l else l ++ [x]

/-- A received epoch in the partition's lists. -/
def rxKey (p e : Nat) : Nat := 16 * e + p

/-- A data cell is taken in (R285): the first of a slot WAITs on the ring's FREE object; LAST fixes the beat of
publication. -/
def Act.takeData (p sub : Nat) (c : Bytes) : Act :=
  .read fun b => .opt (rxRec b p (cellChannel c)) fun r =>
    let f := (Machine.port b p).func
    .opt (coreOfLogical b f r.lcore) fun core =>
      let ch := cellChannel c
      let opened := ((Machine.port b p).rx.any fun x => x.channel == ch && !x.complete)
      let e := cellEpoch c
      let profile := portProfile b p
      let now := beat b
      Act.all [
        .when (!opened) (Act.all [
          .onPort p (fun s => { s with rx := s.rx ++ [{ channel := ch, core := core, ring := r.ring, func := f, got := []
                                                        epochs := [], wait := 1, complete := false, dueBeat := 0 }] }),
          .issueWait (.bind p ch) f (ringFree b core r.ring) 1]),
        .onPort p (fun s => { s with rx := s.rx.map fun x =>
          if x.channel = ch ∧ !x.complete then { x with
            got := x.got ++ cellPayload c
            epochs := addEpoch s profile now e x.epochs
            complete := cellLast c
            dueBeat := dueBeat b p (cellFrame c) sub } else x }),
        .when (cellLast c && isLate b p (cellFrame c) sub) (.count .srlDomLate 1)]

/-- An accepted cell. -/
def Act.takeCell (p sub : Nat) (c : Bytes) : Act :=
  .read fun b =>
    if cellType c = 1 then .seq
      (.onPort p fun s => { s with inbox := s.inbox ++ cellMsgs (dueBeat b p (cellFrame c) 0) c })
      (.when (isLate b p (cellFrame c) 0) (.count .srlDomLate (cellMsgs 0 c).length))
    else if cellType c = 2 then Act.all [.count (.lnkRxCells p) 1, .takeData p sub c]
    else .nop

/-- Frame count a is behind frame count f, both mod 2^32. -/
def frameBefore (a f : Nat) : Bool := decide (0 < (f + 2 ^ 32 - a % 2 ^ 32) % 2 ^ 32) && decide ((f + 2 ^ 32 - a % 2 ^ 32) % 2 ^ 32 < 2 ^ 31)

/-- The frame before f. -/
def prevFrame (f : Nat) : Nat := (f + 2 ^ 32 - 1) % 2 ^ 32

/-- A NAK for a frame goes out, once while it waits to be sent. -/
def Act.nakFrame (p f : Nat) : Act :=
  .read fun b => .when (!(Machine.port b p).msgs.any fun m => m.mtype == 3 && m.arg1 == f) (Act.all [
    .ctlMsg p 3 0 0 f,
    .onPort p fun s => { s with nakSent := smPut s.nakSent f (smGetD s.nakSent f 0 + 1) }])

/-- A good REPLAY cell of frame f comes again (R279): the cells of f accepted so far stand in front of it in the replay.
`skip` counts the replayed cells of the frame that were passed over. -/
def PortState.again (t : PortState) (f skip : Nat) : Bool :=
  frameBefore f t.rxFrame || (t.rxFrame == f && decide (skip < t.rxCount))

/-- A good cell is passed over, counted as discarded (R279); a replay that begins again is counted anew. -/
def Act.passCell (p f : Nat) : Act :=
  Act.all [.count (.lnkRxBad p) 1,
    .onPort p fun s => { s with rxSkip := if s.rxFrame = f then s.rxSkip + 1 else 0 }]

/-- A good cell at a position of its frame is accepted. A data cell that comes again was sent in the beat it first came in,
or, where it never came, by the frame's last beat (R264; log 46). -/
def Act.acceptCell (p pos n : Nat) (c : Bytes) : Act :=
  .read fun b =>
    let t := Machine.port b p
    let f := cellFrame c
    let idle := decide (cellType c ≠ 1) && decide (cellType c ≠ 2)
    let count := (if t.rxFrame = f then t.rxCount else 0) + (!idle).toNat
    let sub := if cellReplay c then ((t.rxSeen.find? fun x => x.1 == c).map (·.2)).getD 3 else cellBeat b p pos
    Act.all [
      .onPort p (fun s => { s with
        badFrame := none, rxSkip := if cellReplay c then count else 0, rxCount := count, rxFrame := f
        ackFrame := if pos + 1 = n ∧ !cellReplay c then f
          else if frameBefore s.ackFrame (prevFrame f) then prevFrame f else s.ackFrame }),
      .when (!idle) (.takeCell p sub c)]

/-- A good cell that comes in a replay, or may: accepted once. -/
def Act.acceptOnce (p pos n skip : Nat) (c : Bytes) : Act :=
  .read fun b =>
    if cellReplay c && (Machine.port b p).again (cellFrame c) skip then .passCell p (cellFrame c) else .acceptCell p pos n c

/-- A good cell after a bad one: nothing is accepted until the replay begins, with the control cell of frame g, which the NAK
named (R279; log 46). -/
def Act.afterBad (p pos n g : Nat) (c : Bytes) : Act :=
  .read fun b =>
    if cellReplay c && cellType c == 1 && cellFrame c == g then Act.all [
      .onPort p (fun t => { t with badFrame := none, rxReplay := true, rxAhead := none }), .acceptOnce p pos n 0 c]
    else Act.all [
      .count (.lnkRxBad p) 1,
      .when (cellType c == 2 && cellLast c && !cellReplay c) (
        .onPort p fun t => { t with rxSeen := t.rxSeen ++ [(asReplay c, cellBeat b p pos)] })]

/-- A good cell while cells are replayed, or may be: a frame's control cell 0 is kept until the next cell shows whether it
was sent ahead of replayed cells, among which it comes again, or in its order; the first new cell ends the replay (R279,
R281; log 46). -/
def Act.inReplay (p pos n : Nat) (c : Bytes) : Act :=
  .read fun b =>
    let t := Machine.port b p
    if pos = 0 ∧ !cellReplay c ∧ cellType c = 1 then .onPort p fun t => { t with rxAhead := some c }
    else if cellReplay c then Act.all [
      .when t.rxAhead.isSome (.count (.lnkRxBad p) 1),
      .onPort p (fun t => { t with rxAhead := none }), .acceptOnce p pos n t.rxSkip c]
    else Act.all [
      .onPort p (fun t => { t with rxReplay := false, rxAhead := none, rxSeen := [] }),
      .opt t.rxAhead (.acceptCell p 0 n), .acceptCell p pos n c]

/-- CELL_RECEIVE: a cell is accepted in order and once, or discarded, and a bad one NAKed (R279). A port that retrains takes
LANES alone (R281). -/
def execCellReceive (p : Nat) (cell : Bytes) (uncorrectable : Bool) (s : State) : Host.Outcome State Fault Refusal :=
  perform (isPort p) (.read fun b =>
    let t := port b p
    if portMode b p == 1 && portState b p == lnkRetraining then
      .when (!uncorrectable && cellOk cell && cellType cell == 1) (.onPort p fun s => { s with
        inbox := s.inbox ++ (cellMsgs (beat b) cell).filter fun m => m.mtype == 11 })
    else .when (carries b p && cell.length == 400) (
    let n := cellsPerFrame (portProfile b p) (portWidth b p)
    let pos := if n ≤ t.rxPos then 0 else t.rxPos
    let bad := t.badFrame.getD ((t.ackFrame + 1) % 2 ^ 32)
    .seq (.onPort p fun s => { s with rxPos := pos + 1 }) (
    if uncorrectable || !cellOk cell then Act.all [
      .count (.lnkRxBad p) 1, .when uncorrectable (.count (.lnkFecUncorr p) 1),
      .onPort p (fun s => { s with badFrame := some bad, rxSkip := 0, rxAhead := none }),
      .nakFrame p bad]
    else match t.badFrame with
      | some g => .afterBad p pos n g cell
      | none => if t.rxReplay then .inReplay p pos n cell else .acceptOnce p pos n t.rxSkip cell))) s

/-- SLOT_PUBLISH: at its delivery boundary the channel's oldest slot goes to slot TAIL mod S of its ring and is
published (R285), unless the port is down, which delivers nothing (R281); its CREDIT waits for its HEAD and its epochs
(R286, R293). A payload beyond the slot size is
discarded, an address fault of the partition. -/
def execSlotPublish (p channel : Nat) (s : State) : Host.Outcome State Fault Refusal :=
  perform (isPort p) (.read fun b => .opt ((port b p).rx.find? fun x => x.channel == channel) fun x =>
    .when (portState b p != lnkDown && x.complete && x.wait == 2 && decide (x.dueBeat ≤ beat b)) (
      let size := ringSlotSize b x.core x.ring
      let now := beat b
      let es := x.epochs
      Act.all [
        .onPort p (fun s => { s with
          rx := match s.rx.findIdx? fun y => y.channel == channel with
            | some i => dropAt s.rx i
            | none => s.rx
          held := s.held ++ [{ channel := channel, epochs := es, freed := false }] }),
        .onPart x.func (fun q => { q with
          recvEpochs := q.recvEpochs ++ (es.map (rxKey p)).filter fun e => !q.recvEpochs.contains e
          recvAt := (es.map (rxKey p)).foldl (fun l e => if (smGet l e).isSome then l else smPut l e now) q.recvAt }),
        .setScr x.core (slotAt b x.core x.ring (ringTail b x.core x.ring)) (x.got.take size),
        .publish (.bind p channel) 0 x.core x.func x.ring,
        .when (decide (size < x.got.length)) (.addrFault (.bind p channel) channel)])) s

/-! ## Control messages at their receiver -/

/-- The first message of a type that may be applied now; a port that is down delivers none (R281). -/
def nextMsg (b : Block) (p mtype : Nat) : Option CtlMsg :=
  if portState b p = lnkDown then none else (port b p).inbox.find? fun m => m.mtype == mtype && decide (m.beat ≤ beat b)

/-- The message leaves the inbox. -/
def Act.dropMsg (p : Nat) (m : CtlMsg) : Act :=
  .onPort p fun s => { s with inbox := match s.inbox.findIdx? (· == m) with
    | some i => dropAt s.inbox i
    | none => s.inbox }

/-- A message of a type is taken and acted on. -/
def Act.onMsg (p mtype : Nat) (k : CtlMsg → Act) : Act :=
  .read fun b => .opt (nextMsg b p mtype) fun m => Act.all [.dropMsg p m, k m]

/-- Some partition is RUNNING or PAUSED. -/
def anyActive (b : Block) : Bool := (owners b).any fun f => (part b f).st == .running || (part b f).st == .paused

/-- A master that lost the lock takes it again, when no partition is RUNNING or PAUSED (09_schedules.md R265). -/
def Act.relockMaster : Act :=
  .whenB (fun b => domState b == 3 && fld b .srlDomStatus 15 8 == 0xFF && !anyActive b) (.setDomState 2)

/-- The lock is lost (09_schedules.md R265). -/
def Act.loseLock : Act :=
  Act.all [
    .setDomState 3, .count .srlDomLosses 1, .lock (fun l => { l with badMarkers := 0 }),
    .read fun b => .logEvent 0x33 (fld b .srlDomStatus 15 8) (fld b .srlDomStatus 7 0) 0]

/-- The beat count jumps (R288): slots, frames and messages that the old count numbered are numbered by the new one; no
partition is active then (09_schedules.md R263, R265; log 47). -/
def Act.jumpBeat (now : Nat) : Act :=
  .seq (.setReg .srlBeat now) (.units fun u => { u with
    lpds := u.lpds.map fun x => (x.1, { x.2 with nextSlot := 0, scrubFrom := x.2.scrubFrom.map fun _ => now })
    ports := u.ports.map fun x => (x.1, { x.2 with
      txFrame := 0, lastProgress := now, downSince := now
      msgs := x.2.msgs.map fun m => { m with beat := now }, inbox := x.2.inbox.map fun m => { m with beat := now }
      rx := x.2.rx.map fun r => { r with dueBeat := now } }) })

/-- MARKER: a marker from the UPPORT of the module's domain acquires or tracks the lock (R288, 09_schedules.md R264,
R265). `phErr` is the phase error in 0.125 ns, `beatJump` the beats that the sender's frame is old. -/
def execMarker (p : Nat) (phErr : BitVec 8) (beatJump : Nat) (s : State) : Host.Outcome State Fault Refusal :=
  perform (isPort p) (.onMsg p 1 fun m => .read fun b =>
    .when (p == fld b .srlDomStatus 15 8 && m.arg0 == rd b .srlDomId % 2 ^ 32 && rd b .srlDomId != 0) (
      let now := (m.arg1 + beatJump) % 2 ^ 64
      let acquired : Act := Act.all [.when (now != beat b) (.jumpBeat now), .setDomState 2, .lock fun l => { l with badMarkers := 0 }]
      Act.all [
        .lock (fun l => { l with sinceMarker := 0 }),
        .setFld .srlDomStatus 7 0 phErr.toNat,
        if domState b = 1 then (if now ≠ beat b ∧ anyActive b then .setDomState 3 else acquired)
        else if domState b = 3 then .when (!anyActive b) acquired
        else if domState b = 2 then
          if 80 < (signedOf phErr.toNat 8).natAbs then
            if 3 ≤ b.lock.badMarkers then .loseLock else .lock fun l => { l with badMarkers := l.badMarkers + 1 }
          else .lock fun l => { l with badMarkers := 0 }
        else .nop])) s

/-- MARKER_TIMEOUT: 256 beats without a marker lose the lock (09_schedules.md R265); the master takes no marker. -/
def execMarkerTimeout (s : State) : Host.Outcome State Fault Refusal :=
  perform true (.whenB (fun b => domState b == 2 && fld b .srlDomStatus 15 8 != 0xFF && decide (256 ≤ b.lock.sinceMarker))
    .loseLock) s

/-- ACK: frames up to the one it names leave the replay buffer (R279). -/
def execAck (p : Nat) (s : State) : Host.Outcome State Fault Refusal :=
  perform (isPort p) (.onMsg p 2 fun m => .read fun b =>
    let f := m.arg1 % 2 ^ 32
    let open' (x : Nat) : Bool := frameBefore f x
    .onPort p fun t => { t with
      replayBuf := t.replayBuf.filter fun x => open' x.1
      nakCounts := t.nakCounts.filter fun x => open' x.1
      lastProgress := if t.replayBuf.all fun x => open' x.1 then t.lastProgress else beat b }) s

/-- NAK: every unacknowledged cell from the frame it names on is to be sent again (R279). -/
def execNak (p : Nat) (s : State) : Host.Outcome State Fault Refusal :=
  perform (isPort p) (.onMsg p 3 fun m => Act.all [
    .onPort p (fun t => { t with
      replayQ := ((t.replayBuf.filter fun x => !frameBefore x.1 (m.arg1 % 2 ^ 32)).flatMap (·.2)).map asReplay
      nakCounts := smPut t.nakCounts (m.arg1 % 2 ^ 32) (smGetD t.nakCounts (m.arg1 % 2 ^ 32) 0 + 1) }),
    .whenB (fun b => portState b p == lnkUp && !(port b p).replayQ.isEmpty) (.setPortState p lnkReplaying)]) s

/-- ARRIVE: one participant at the home; a second from one port in a generation is a schedule overrun
(09_schedules.md R266). -/
def execArrive (p : Nat) (s : State) : Host.Outcome State Fault Refusal :=
  perform (isPort p) (.onMsg p 4 fun m => .read fun b => .opt (physObj b (port b p).func m.id) fun o =>
    if objType b o ≠ 2 then .addrFault (.port p) m.id
    else if (obj b o).ports.contains p then .overrun (.port p) o
    else Act.all [.onObj o (fun x => { x with ports := x.ports ++ [p] }), .addArrivals o 1]) s

/-- RELEASE: the proxies of that home on this port free their agents and invert their generation (09_schedules.md
R266). -/
def execReleaseMessage (p : Nat) (s : State) : Host.Outcome State Fault Refusal :=
  perform (isPort p) (.onMsg p 5 fun m => .read fun b =>
    let f := (port b p).func
    .each ((objsOf b f).filter fun o => (obj b o).home == some (p, m.id) && (obj b o).sent) fun o =>
      .completeBarrier f o) s

/-- CREDIT: the SEND object of the channel is signalled by the count (R286); an export's channel gains the credits
(R305). -/
def execCredit (p : Nat) (s : State) : Host.Outcome State Fault Refusal :=
  perform (isPort p) (.onMsg p 6 fun m => .read fun b =>
    let f := (port b p).func
    match (portPlan b p).bind fun x => x.tx.find? fun r => r.channel == m.id && r.channel != ctlChannel with
    | some r => .opt (physObj b f r.send) fun o => .issue (.sig o m.arg0 (.port p) 0)
    | none => .creditExports f p m.id m.arg0) s

/-- EPOCH_CLEAR received: the epoch's slots may be credited, and checkpoints wait for it no longer (R293,
11_integrity.md R327). -/
def execEpochClear (p : Nat) (s : State) : Host.Outcome State Fault Refusal :=
  perform (isPort p) (.onMsg p 7 fun m => .read fun b =>
    let e := m.arg0 % 65536
    let now := beat b
    Act.all [
      .onPort p (fun t => { t with
        cleared := smPut t.cleared e now, poisoned := smDel t.poisoned e
        rx := t.rx.map fun x => { x with epochs := x.epochs.filter (· != e) }
        held := t.held.map fun x => { x with epochs := x.epochs.filter (· != e) } }),
      .onPart (port b p).func (fun q => { q with
        recvEpochs := q.recvEpochs.filter (· != rxKey p e)
        recvAt := smDel q.recvAt (rxKey p e)
        ckpts := q.ckpts.map fun k => { k with pendingEpochs := k.pendingEpochs.filter (· != 2 * rxKey p e + 1) } }),
      .issueCredits p]) s

/-- POISON received: the CREDITs of the epoch's slots are withheld for good, a later epoch of the same number
notwithstanding; the poison is logged, checkpoints that hold its data are discarded, and the partition's rollback is due
(R294, 11_integrity.md R326). -/
def execPoison (p : Nat) (s : State) : Host.Outcome State Fault Refusal :=
  perform (isPort p) (.onMsg p 8 fun m => .read fun b =>
    let e := m.arg0 % 65536
    let now := beat b
    let f := (port b p).func
    Act.all [
      .onPort p (fun t => { t with
        poisoned := smPut t.poisoned e now, cleared := smDel t.cleared e
        rx := t.rx.map fun x => { x with epochs := x.epochs.map fun y => if y = e then e + 65536 else y }
        held := t.held.map fun x => { x with epochs := x.epochs.map fun y => if y = e then e + 65536 else y } }),
      .log { partRecord b f with detector := 0x30, syndrome := p + m.arg0 * 65536 },
      .when ((part b f).image.isSome) (Act.all [
        .quench f,
        .onPart f fun q => { q with
          ckpts := q.ckpts.filter fun k => !k.pendingEpochs.contains (2 * rxKey p e + 1)
          poisonedBy := some (match q.poisonedBy with
            | none => rxKey p e
            | some d => if smGetD q.recvAt (rxKey p e) (2 ^ 64) < smGetD q.recvAt d (2 ^ 64) then rxKey p e else d) }])]) s

/-- ECHO_REQ: answered in the next control cell with the turnaround (R289). -/
def execEchoReq (p turnaround : Nat) (s : State) : Host.Outcome State Fault Refusal :=
  perform (isPort p) (.onMsg p 9 fun m => .ctlMsg p 10 m.id (turnaround % 2 ^ 32) m.arg1) s

/-- ECHO_RSP: after 16 answers the delay and the delivery latency follow (R289). `now` is the core-cycle count. -/
def execEchoRsp (p now : Nat) (s : State) : Host.Outcome State Fault Refusal :=
  perform (isPort p) (.onMsg p 10 fun m => .read fun b =>
    let rs := (port b p).echoes ++ [now - m.arg1 - m.arg0]
    if rs.length < 16 then .onPort p fun t => { t with echoes := rs }
    else
      let d := ceilDiv (rs.foldl max 0) 2
      Act.all [
        .onPort p (fun t => { t with echoes := [] }),
        .setReg (.lnkDelay p) d,
        .setFld (.lnkStatus p) 15 8 (min 255 (1 + ceilDiv (d + 640) 256))]) s

/-! ## Lanes (R280 to R282) -/

/-- The port says which lanes it has (R277, R281). -/
def Act.sayLanes (p : Nat) : Act :=
  .read fun b => .ctlMsg p 11 0 ((Machine.port b p).lanesOk.toNat + fld b (.lnkStatus p) 27 24 * 16) 0

/-- A Bindweed port retrains and says which lanes it has: at once, or when they have been tested again (R280, R281). -/
def Act.retrain (p : Nat) : Act :=
  .read fun b => Act.all [
    .setPortState p lnkRetraining,
    .onPort p (fun t => { t with downSince := beat b }),
    .when (!(Machine.port b p).retest) (.sayLanes p)]

/-- LANES: the peer's healthy and fenced lanes (R277). On a port that is up they say that the other end retrains, and both
ends do (R281). -/
def execLanes (p : Nat) (s : State) : Host.Outcome State Fault Refusal :=
  perform (isPort p) (.onMsg p 11 fun m => Act.all [
    .onPort p (fun t => { t with peerLanes := some (m.arg0 % 16, m.arg0 / 16 % 16) }),
    .whenB (fun b => carries b p) (.retrain p)]) s

/-- The lanes taken from a set at a width of `widest` or less (R281, R282): all four, {0, 1}, {2, 3}, or the lowest one. -/
def lanesTaken (widest ok : Nat) : Nat :=
  if ok % 16 = 15 ∧ 4 ≤ widest then 15
  else if ok % 4 = 3 ∧ 2 ≤ widest then 3
  else if ok / 4 % 4 = 3 ∧ 2 ≤ widest then 12
  else if bitOf ok 0 then 1 else if bitOf ok 1 then 2 else if bitOf ok 2 then 4 else if bitOf ok 3 then 8 else 0

/-- The lanes both ends can use. -/
def commonLanes (b : Block) (p : Nat) : Nat :=
  let t := port b p
  let mine := t.lanesOk.toNat &&& (15 - fld b (.lnkStatus p) 27 24)
  match t.peerLanes with
  | none => mine
  | some (h, f) => mine &&& h &&& (15 - f)

/-- The port runs on a set of lanes: its width and lanes, the echo exchange again in Bindweed mode; both ends replay first
(R281), and no retrain makes the port wider again (R282). -/
def Act.portUp (p lanes : Nat) : Act :=
  .read fun b => Act.all [
    .setFld (.lnkStatus p) 31 28 lanes,
    .setFld (.lnkStatus p) 19 16 (popCount lanes 4),
    .setPortState p (if (Machine.port b p).replayBuf.isEmpty then lnkUp else lnkReplaying),
    .onPort p fun t => { t with
      echoes := [], echoLeft := if portMode b p = 1 then 16 else 0, badFrame := none, rxPos := 0, rxSkip := 0
      rxReplay := true, rxAhead := none, rxSeen := [], nakCounts := [], nakSent := [], widest := popCount lanes 4
      replayQ := (t.replayBuf.flatMap (·.2)).map asReplay, lastProgress := beat b }]

/-- The port is down. -/
def Act.portDown (p : Nat) : Act :=
  .read fun b => Act.all [
    .setPortState p lnkDown, .setFld (.lnkStatus p) 31 28 0, .setFld (.lnkStatus p) 19 16 0,
    .onPort p fun t => { t with downSince := beat b }]

/-- A port in Ethernet mode runs as the widest PHY its lanes allow: its own rate, or with LNK_ETH_FALLBACK a narrower
(LNK_CFG); else it is down. -/
def Act.ethUp (p ok : Nat) : Act :=
  .read fun b =>
    let rate := fld b (.lnkCfg p) 27 26
    let want := if rate = 0 then 15 else if rate = 1 then (if ok % 4 = 3 then 3 else 12)
      else if bitOf ok 0 then 1 else if bitOf ok 1 then 2 else if bitOf ok 2 then 4 else 8
    let widest := (Machine.port b p).widest
    if ok &&& want = want ∧ popCount want 4 ≤ widest then .portUp p want
    else if flag b (.lnkCfg p) 25 && lanesTaken widest ok != 0 then .portUp p (lanesTaken widest ok)
    else .portDown p

/-- LANE_FAILURE: a lane of a port fails (R280; reason 1 lock, 2 codewords, 3 acknowledgement): logged, and both ends
retrain; in Ethernet mode the port restarts on what is left. -/
def execLaneFailure (p lane reason : Nat) (s : State) : Host.Outcome State Fault Refusal :=
  perform (isPort p && decide (lane < 4)) (.read fun b =>
    let t := port b p
    let due := reason == 1 || reason == 2 || (reason == 3 && (((t.nakCounts ++ t.nakSent).any fun x => decide (3 ≤ x.2)) ||
      (!t.replayBuf.isEmpty && decide (t.lastProgress + 256 ≤ beat b))))
    .when ((portState b p == lnkUp || portState b p == lnkReplaying) && due && flag b (.lnkStatus p) (28 + lane)) (Act.all [
      .onPort p (fun t => { t with
        lanesOk := if reason = 3 then t.lanesOk else t.lanesOk &&& ~~~(BitVec.ofNat 4 (2 ^ lane))
        peerLanes := if portMode b p = 1 then none else t.peerLanes, retest := reason == 3 }),
      .detection (partRecord b t.func)
        { code := 0x0D, uclass := 8, uid := p * 4 + lane, unit := 0, syndrome := BitVec.ofNat 128 reason } none (beat b),
      if portMode b p = 1 then .retrain p else .read fun b => .ethUp p (commonLanes b p)])) s

/-- A port whose lane has been fenced runs narrower: it retrains (11_integrity.md R330). -/
def Act.laneFenced (lane : Nat) : Act :=
  .read fun b =>
    let p := lane / 4
    .when ((portState b p == lnkUp || portState b p == lnkReplaying) && flag b (.lnkStatus p) (28 + lane % 4)) (
      if portMode b p = 1 then Act.all [.onPort p (fun t => { t with peerLanes := none }), .retrain p]
      else .ethUp p (commonLanes b p))

/-- A retrain resumes within this many beats, or its port is down (R281). -/
def retrainLimit : Nat := 4096

/-- RETRAIN_COMPLETE: where every lane is tested again (R280), `good` of them pass, and the port says so; once LANES have
been exchanged it resumes on its common lanes, no wider than it was, and replays; past 4,096 beats, or without a usable lane,
it is down (R281, R282; log 46). -/
def execRetrainComplete (p : Nat) (ok : Bool) (s : State) (good : BitVec 4 := 15) : Host.Outcome State Fault Refusal :=
  perform (isPort p) (.read fun b =>
    let t := port b p
    let up := ok && decide (beat b ≤ t.downSince + retrainLimit)
    .when (portState b p == lnkRetraining) (
      let lanes := lanesTaken t.widest (commonLanes b p)
      if !up then .portDown p
      else if t.retest then .seq (.onPort p fun t => { t with lanesOk := good, retest := false }) (.sayLanes p)
      else .when t.peerLanes.isSome (
        if lanes = 0 then .portDown p
        else Act.all [
          .when (decide (popCount lanes 4 < portWidth b p)) (.count (.lnkDownshifts p) 1),
          .portUp p lanes]))) s

/-- The 156.25 MHz reference of an edge die is lost (PWR_IN_REF156_n). -/
def refLost (b : Block) (n : Nat) : Bool := flag b .pwrInStatus (3 + n)

/-- PORT_BRING_UP: Sorrel brings a port up (R282, 14_module_hw.md R394): at full width on the lanes that train while no
partition that uses it is RUNNING or PAUSED, else, when it is down, on the lanes it still has and no wider than before. -/
def execPortBringUp (p : Nat) (trainedLanes : BitVec 4) (s : State) : Host.Outcome State Fault Refusal :=
  perform (isPort p) (.read fun b =>
    let t := port b p
    let q := part b t.func
    let busy := q.st == .running || q.st == .paused
    let st := portState b p
    .when (isVf t.func && (portMode b p == 1 || portMode b p == 2) && !refLost b (edgeOf p) &&
        (!busy || st == lnkDown || st == lnkTraining || st == lnkOff)) (Act.all [
      .each ((List.range 4).filter fun i => !trainedLanes.getLsbD i && t.laneFails.getLsbD i) (fun i => .fence 8 (p * 4 + i) 4),
      .onPort p (fun t => { t with
        laneFails := ~~~trainedLanes
        lanesOk := if busy then t.lanesOk &&& trainedLanes else trainedLanes
        peerLanes := if busy then t.peerLanes else none, retest := false, widest := if busy then t.widest else 4 }),
      .read fun b =>
        let ok := commonLanes b p
        let lanes := lanesTaken (Machine.port b p).widest ok
        if portMode b p = 2 then .ethUp p ok
        else if lanes = 0 then .portDown p else .portUp p lanes])) s

end Sys2Proof.Machine
end

