-- ==== Sys2Proof/Machine/Teasel.lean ====
section
/-! DEFINITION. Teasel (10_links.md R295 to R306): page messages and their conversions, acknowledgements and timeouts,
received Ethernet frames, and the end of an export. -/

namespace Sys2Proof.Machine

/-! ## Conversion (R300 to R304) -/

/-- Tokens of a target page of format 1 or 2. -/
def targetPage (tfmt : Nat) : Nat := if tfmt = 1 then 256 else 64

/-- The source page of an export that holds token t. -/
def sourcePage (d : DirFn) (x : Export) (t : Nat) : Option Page :=
  (x.pages.filterMap (pageNum d)).find? fun p => decide (p.t0 ≤ t) && decide (t < p.t0 + p.len)

/-- A source token: the code of each element of a unit, and its block exponents. -/
structure UnitRow where
  codes : List Nat
  exps : Bytes

/-- The elements of unit (l, k, h) at a token of a page (08_attention.md R221, R222). -/
def unitRow (b : Block) (g : Geometry) (p : Page) (t u : Nat) : UnitRow :=
  let wf4 := g.efmt % 16 == 7
  let n := if wf4 then g.d / 2 else g.d
  let bs := lpdBytes b (p.dataPA + (t - p.t0) * g.re + u * n) n
  { codes := if wf4 then bs.flatMap (fun x => [x.toNat % 16, x.toNat / 16]) else bs.map (·.toNat)
    exps := lpdBytes b (p.sidePA + (t - p.t0) * g.rx + u * g.d / 16) (g.d / 16) }

/-- The rows of a unit at each token from t0 on, absent ones as none. -/
def unitRows (b : Block) (d : DirFn) (x : Export) (g : Geometry) (t0 ntok tpage u : Nat) : List (Option UnitRow) :=
  (List.range tpage).map fun i =>
    if ntok ≤ i then none else (sourcePage d x (t0 + i)).map fun p => unitRow b g p (t0 + i) u

/-- The WF8a code of a WF4 code (R303). -/
def wf4ToWf8 (c : Nat) : Nat :=
  natAt [0x00, 0x38, 0x40, 0x44, 0x48, 0x4C, 0x50, 0x54] (c % 8) + c / 8 % 2 * 0x80

/-- The stream scale word of unit u. -/
def unitScale (g : Geometry) (u : Nat) : Word := (g.sscale[u / g.h]?).getD 0

/-- A unit in format 1: elements, block exponents, trailer (R303). -/
def unit1 (g : Geometry) (rows : List (Option UnitRow)) (u : Nat) : Bytes :=
  let wf4 := g.efmt % 16 == 7
  (rows.flatMap fun r => match r with
    | none => List.replicate g.d 0
    | some r => r.codes.map fun c => BitVec.ofNat 8 (if wf4 then wf4ToWf8 c else c)) ++
  (rows.flatMap fun r => match r with
    | none => List.replicate (g.d / 16) 0
    | some r => r.exps) ++
  leBytes (unitScale g u).toNat 4 ++ List.replicate 12 0

/-- The decoded values of a row. -/
def rowVals (g : Geometry) (r : UnitRow) : List Val :=
  (List.range r.codes.length).map fun d => decodeElem (g.efmt % 16) (natAt r.codes d) ((r.exps[d / 16]?).getD 0).toNat

/-- The scale exponent j of a unit in format 2 (R304). -/
def unitShift (g : Geometry) (vals : List Val) (u : Nat) : Int :=
  let a := vals.foldl (fun (m : Q) v => match v with
    | .fin q => if m.lt q.abs then q.abs else m
    | _ => m) Q.zero
  let j : Int := if a.isZero then 0 else fitExp a (Q.ofInt 224)
  let s : Int := ((unitScale g u).toNat / 2 ^ 23 % 256 : Nat) - 127
  max (-126 - s) (min (127 - s) j)

/-- A unit in format 2 (R304) and what its conversion counted: saturated, flushed, NaN. -/
def unit2 (g : Geometry) (rows : List (Option UnitRow)) (u : Nat) : Bytes × Nat × Nat × Nat :=
  let vals := rows.map fun r => r.map (rowVals g)
  let j := unitShift g ((vals.filterMap id).flatMap id) u
  let cs := vals.map fun v => v.map fun l => l.map fun x => convert .profJ 3 true x (Q.pow2 j)
  let all := (cs.filterMap id).flatMap id
  let word := ((((unitScale g u).toNat / 2 ^ 23 % 256 : Nat) : Int) + j).toNat * 2 ^ 23
  ((cs.flatMap fun v => match v with
    | none => List.replicate g.d 0
    | some l => l.map fun c => BitVec.ofNat 8 c.code) ++ leBytes word 4 ++ List.replicate 12 0,
   (all.filter fun c => c.sat).length, (all.filter fun c => c.flush).length, (all.filter fun c => c.nan).length)

/-- Token ids of a target page, absent ones as 0. -/
def tokenIds (b : Block) (d : DirFn) (x : Export) (g : Geometry) (t0 ntok tpage : Nat) : Bytes :=
  (List.range tpage).flatMap fun i =>
    leBytes (if ntok ≤ i then 0 else ((sourcePage d x (t0 + i)).map fun p => tokenAt b g p (t0 + i)).getD 0) 4

/-- What a page message holds: its first token, page size, tokens present, body, counts. -/
structure PageMsg where
  t0 : Nat
  tpage : Nat
  ntok : Nat
  body : Bytes
  sat : Nat
  flush : Nat
  nan : Nat

/-- The next page message of an export. -/
def pageMsg (b : Block) (x : Export) (g : Geometry) : PageMsg :=
  let d := dir b x.func
  let k := x.nextPage
  if exTfmt x = 0 then
    match (x.pages[k]?).bind (pageNum d) with
    | none => { t0 := 0, tpage := 0, ntok := 0, body := [], sat := 0, flush := 0, nan := 0 }
    | some p => { t0 := p.t0, tpage := p.len, ntok := p.len
                  body := lpdBytes b p.dataPA p.dataLen ++ lpdBytes b p.sidePA p.sideLen, sat := 0, flush := 0, nan := 0 }
  else
    let tpage := targetPage (exTfmt x)
    let t0 := leAt x.desc 0x0C 4 + k * tpage
    let ntok := min tpage (leAt x.desc 0x10 4 - t0)
    let units := (List.range (2 * g.l * g.h)).map fun u => (u, unitRows b d x g t0 ntok tpage u)
    let ids := tokenIds b d x g t0 ntok tpage
    if exTfmt x = 1 then { t0 := t0, tpage := tpage, ntok := ntok, body := units.flatMap (fun y => unit1 g y.2 y.1) ++ ids
                           sat := 0, flush := 0, nan := 0 }
    else
      let us := units.map fun y => unit2 g y.2 y.1
      { t0 := t0, tpage := tpage, ntok := ntok, body := us.flatMap (·.1) ++ ids
        sat := (us.map (·.2.1)).foldl (· + ·) 0, flush := (us.map (·.2.2.1)).foldl (· + ·) 0
        nan := (us.map (·.2.2.2)).foldl (· + ·) 0 }

/-- The source pages that the next page message of an export reads. -/
def pagesRead (b : Block) (x : Export) : List Page :=
  let d := dir b x.func
  let k := x.nextPage
  if exTfmt x = 0 then ((x.pages[k]?).bind (pageNum d)).toList
  else
    let tpage := targetPage (exTfmt x)
    let t0 := leAt x.desc 0x0C 4 + k * tpage
    (x.pages.filterMap (pageNum d)).filter fun p => decide (p.t0 < t0 + tpage) && decide (t0 < p.t0 + p.len)

/-- A page's frames are in the module: their controllers are not fenced (13_memory.md R376). -/
def Page.present (b : Block) (p : Page) : Bool := !isFenced b 7 (ctlOf p.dataPA) && !isFenced b 7 (ctlOf p.sidePA)

/-- The slot whose addresses Teasel reads a page by: the export's, or another that maps it; none where every slot has
released it, so that its frames alone are left (log 48). -/
def pageSlot (x : Export) (p : Page) : Option Nat :=
  if p.slots.contains (leAt x.desc 8 4) then some (leAt x.desc 8 4) else p.slots.head?

/-- Teasel's walks for a page, through the function's translation (R301, 13_memory.md R381). -/
def pageWalks (b : Block) (x : Export) (g : Geometry) (p : Page) : List (Nat × Nat) :=
  match pageSlot x p with
  | none => []
  | some s => (translate b x.func false (g.dataVA s p.t0 : Nat) p.dataLen).walks ++
      (translate b x.func false (g.sideVA s p.t0 : Nat) p.sideLen).walks

/-- Teasel reads the pages of a message: its walks and reads wait in the engines' place in the host path, and an uncorrectable
block is a detection (R301, 13_memory.md R371, R374). -/
def Act.readPages (x : Export) (g : Geometry) : Act :=
  .read fun b =>
    let ps := pagesRead b x
    let segs := ps.flatMap fun p => [(p.dataPA, p.dataLen), (p.sidePA, p.sideLen)]
    Act.all [.walks x.func 0x80 (ps.flatMap (pageWalks b x g)), .engineTraffic false segs, .readBad (some x.func) 2 segs]

/-- The 64-byte header of a page message (R301). -/
def pageHeader (b : Block) (x : Export) (g : Geometry) (m : PageMsg) : Bytes :=
  let efmt := if exTfmt x = 0 then g.efmt else if exTfmt x = 1 then 0x13 else 0x03
  let h := leBytes 0x54534C01 4 ++ leBytes (exTfmt x) 1 ++ leBytes 3 1 ++ leBytes efmt 1 ++
    leBytes (if x.nextPage + 1 = x.totalPages then 1 else 0) 1 ++ leBytes (exId x) 8 ++ leBytes g.seed.toNat 8 ++
    leBytes (rd b .srlSerial) 8 ++ leBytes m.t0 4 ++ leBytes m.tpage 2 ++ leBytes m.ntok 2 ++ leBytes g.l 1 ++ leBytes g.h 1 ++
    leBytes g.d 2 ++ leBytes m.body.length 4 ++ leBytes x.nextPage 4 ++ leBytes (epochOf (beat b) % 65536) 2 ++
    leBytes 0 6 ++ leBytes 0 4
  spliceBytes h 0x3C (leBytes (crc32c h).toNat 4)

/-- The export can take its next page: it has one, its frames are in the module, and less than a segment or slot waits to be
cut. An export whose next page is lost goes no further (log 48). -/
def Export.canRead (b : Block) (x : Export) : Bool :=
  x.ending.isNone && !x.allRead && x.geom.isSome && decide (x.bufLen < cutSize b x) && !isFenced b 9 (exPort x / 8) &&
    (pagesRead b x).all fun p => p.present b

/-- Whose page message is next among a function's exports on a port: one page message at a time, in the order in which they
were accepted (R301). -/
def nextTurn (b : Block) (f p : Nat) : Option Nat :=
  let ns := (b.exports.filter fun x => x.2.func == f && exPort x.2 == p && x.2.canRead b).map fun x => x.2.accNo
  let least (l : List Nat) : Option Nat := l.foldl (fun m n => some (match m with
    | none => n
    | some k => min k n)) none
  match least (ns.filter fun n => decide ((port b p).tslTurn < n)) with
  | some n => some n
  | none => least ns

/-- The records held of a page message's detections are written with a disposition. -/
def Act.releaseConv (l : List (Bytes × Bool)) (disp : Bool → Nat) : Act :=
  .each l fun x => .logBody (spliceBytes x.1 0x4D (leBytes (disp x.2) 1))

/-- A detection of a page message's conversion (11_integrity.md R310, R319): the message does not leave and is read and
converted again, twice at most; the third detection is uncontained, from the beat of the message's first read. -/
def Act.convDetection (h : Nat) (x : Export) (d : Det) : Act :=
  .read fun b =>
    let first := if x.convPend.isEmpty then beat b else x.readBeat
    let perm := permanentNow b 9 d.uid 0x0E && !isFenced b 9 d.uid
    let syn := x.nextPage % 2 ^ 32 + x.convPend.length * 2 ^ 32
    if 2 ≤ x.convPend.length then Act.all [
      .releaseConv x.convPend (fun _ => 9),
      .count .chkUncontained x.convPend.length,
      .onExport h (fun x => { x with convPend := [] }),
      .detection { partRecord b x.func with attempt := 2 } { d with syndrome := BitVec.ofNat 128 syn } (some x.func) first]
    else Act.all [
      .detect 9 d.uid 0x0E,
      .read fun b =>
        let t := { partRecord b x.func with uclass := 9, unit := d.uid, attempt := x.convPend.length, detector := 0x0E
                                            hist := histTotal b 9 d.uid, syndrome := syn }
        .onExport h fun x => { x with convPend := x.convPend ++ [(t.body b, perm)], readBeat := first }]

/-- TEASEL_PAGE_MESSAGE: the next target page of an export, in its turn, is read, converted and put into its stream; its
bytes belong to the epoch of this beat (R301 to R305). A read that meets an uncorrectable block is a detection too
(13_memory.md R374). -/
def execTeaselPageMessage (h : Nat) (d : Option Det) (s : State) : Host.Outcome State Fault Refusal :=
  perform (decide (h < 128)) (.read fun b => .opt (exportOf? b h) fun x => .opt x.geom fun g =>
    .when (x.canRead b && nextTurn b x.func (exPort x) == some x.accNo) (
      let p := exPort x
      let e := p / 8
      match d.bind fun y => if y.code == 0x0E && y.uclass == 9 && y.uid == e then some y else none with
      | some y => Act.all [.readEpoch h (epochOf (beat b)), .readPages x g, .convDetection h x y]
      | none =>
        let m := pageMsg b x g
        Act.all [
          .readEpoch h (epochOf (beat b)),
          .when (!x.convPend.isEmpty) (Act.all [
            .releaseConv x.convPend (fun perm => if perm then 4 else 1),
            .onExport h (fun x => { x with convPend := [] }),
            .when (x.convPend.any fun y => y.2) (.fence 9 e 4)]),
          .onExport h (fun x => { x with
            buf := x.buf ++ [(epochOf (beat b), pageHeader b x g m ++ m.body)], nextPage := x.nextPage + 1 }),
          .onPort p (fun t => { t with tslTurn := x.accNo }),
          .count (.tslPages e) 1,
          .count (.tslCnvSat e) m.sat, .count (.tslCnvFlush e) m.flush, .count (.tslCnvNan e) m.nan,
          .readPages x g,
          .pump h])) s

/-! ## Received frames (R295, R297) -/

/-- The frame check sequence holds, and the length is in range. -/
def frameOk (fr : Bytes) : Bool :=
  decide (18 ≤ fr.length) && decide (fr.length ≤ 9216) &&
    (crc32 (fr.take (fr.length - 4))).toNat == leAt fr (fr.length - 4) 4

/-- The reply to an ARP request for the port's own address. -/
def arpReply (b : Block) (p : Nat) (fr : Bytes) : Option Bytes :=
  if fr.length < 46 ∨ beNat ((fr.drop 14).take 8) ≠ 0x0001080006040001 ∨ (fr.drop 38).take 4 ≠ ownIp4 b p then none
  else some (withFcs ((fr.drop 22).take 6 ++ ownMac b p ++ beBytes 0x0806 2 ++ beBytes 0x0001080006040002 8 ++
    ownMac b p ++ ownIp4 b p ++ (fr.drop 22).take 10))

/-- A checksum over a pseudo-header holds. -/
def sumOk (d : Bytes) : Bool := inetSum d == 0

/-- The reply to a Neighbor Solicitation for the port's own address; one without a source is answered to all nodes. -/
def ndReply (b : Block) (p : Nat) (fr : Bytes) : Option Bytes :=
  let len := beNat ((fr.drop 18).take 2)
  let src := (fr.drop 22).take 16
  let dst := (fr.drop 38).take 16
  let icmp := (fr.drop 54).take len
  if len < 24 ∨ fr.length < 58 + len ∨ beNat ((fr.drop 20).take 2) ≠ 0x3AFF ∨ beNat (icmp.take 2) ≠ 0x8700 ∨
      (icmp.drop 8).take 16 ≠ ownIp6 b p ∨ !sumOk (src ++ dst ++ beBytes len 4 ++ beBytes 58 4 ++ icmp) then none
  else
    let anon := beNat src == 0
    let dst := if anon then beBytes 0xFF020000000000000000000000000001 16 else src
    let mac := if anon then beBytes 0x333300000001 6 else (fr.drop 6).take 6
    let body (sum : Nat) : Bytes := beBytes 0x8800 2 ++ beBytes sum 2 ++ beBytes (if anon then 0x20000000 else 0x60000000) 4 ++
      ownIp6 b p ++ [2, 1] ++ ownMac b p
    some (withFcs (mac ++ ownMac b p ++ beBytes 0x86DD 2 ++ beBytes 0x60000000 4 ++ beBytes 32 2 ++ [58, 255] ++
      ownIp6 b p ++ dst ++ body (inetSum (ownIp6 b p ++ dst ++ beBytes 32 4 ++ beBytes 58 4 ++ body 0))))

/-- The UDP payload that a frame brings to the Teasel port, if it is one the module receives (R295). -/
def udpPayload (b : Block) (p : Nat) (fr : Bytes) : Option Bytes :=
  let typ := beNat ((fr.drop 12).take 2)
  let take (off : Nat) (pseudo : Bytes) (room : Nat) : Option Bytes :=
    let u := fr.drop off
    let len := beNat ((u.drop 4).take 2)
    let d := u.take len
    if 8 ≤ len ∧ len ≤ room ∧ beNat ((u.drop 2).take 2) = ethUdp b p ∧ beNat ((u.drop 6).take 2) ≠ 0 ∧
        sumOk (pseudo ++ beBytes len 2 ++ d) then some (d.drop 8) else none
  if (fr.take 6) ≠ ownMac b p then none
  else if typ = 0x0800 then
    let h := (fr.drop 14).take 20
    let total := beNat ((h.drop 2).take 2)
    if beNat (h.take 1) = 0x45 ∧ sumOk h ∧ beNat ((h.drop 6).take 2) % 0x4000 = 0 ∧ beNat ((h.drop 9).take 1) = 17 ∧
        (h.drop 16).take 4 = ownIp4 b p ∧ 28 ≤ total ∧ total + 18 ≤ fr.length
    then take 34 ((h.drop 12).take 8 ++ beBytes 17 2) (total - 20) else none
  else if typ = 0x86DD then
    let len := beNat ((fr.drop 18).take 2)
    if beNat ((fr.drop 14).take 1) / 16 = 6 ∧ beNat ((fr.drop 20).take 1) = 17 ∧ (fr.drop 38).take 16 = ownIp6 b p ∧
        len + 58 ≤ fr.length
    then take 54 ((fr.drop 22).take 32 ++ beBytes 17 2) len else none
  else none

/-- A segment whose header and CRC hold (R296). -/
def segOk (s : Bytes) : Bool :=
  decide (32 ≤ s.length) && leAt s 1 1 == 1 && leAt s 2 2 + 32 == s.length &&
    (crc32c (spliceBytes s 0x18 (leBytes 0 4))).toNat == leAt s 0x18 4

/-- ETHERNET_FRAME_RECEIVE: an ARP request or Neighbor Solicitation for the port is answered, an ACK segment is taken,
other segments are discarded, and everything else is discarded and counted (R295, R297). -/
def execEthernetFrameReceive (p : Nat) (frame : Bytes) (s : State) : Host.Outcome State Fault Refusal :=
  perform (isPort p) (.read fun b => .when (portMode b p == 2 && portState b p == lnkUp) (
    let drop : Act := .count (.lnkEthDiscard p) 1
    let typ := beNat ((frame.drop 12).take 2)
    if !frameOk frame then drop
    else match (if typ = 0x0806 then arpReply b p frame else if typ = 0x86DD then ndReply b p frame else none) with
      | some r => .emit (.ethFrame p r)
      | none => match udpPayload b p frame with
        | none => drop
        | some seg => .when (segOk seg && leAt seg 0 1 == 2) (.onPort p fun t => { t with ethIn := t.ethIn ++ [seg] }))) s

/-- TEASEL_ACK_SEGMENT: the oldest ACK taken advances its export's window (R297). -/
def execTeaselAckSegment (p : Nat) (s : State) : Host.Outcome State Fault Refusal :=
  perform (isPort p) (.read fun b => .opt (port b p).ethIn.head? fun seg => Act.all [
    .onPort p (fun t => { t with ethIn := t.ethIn.drop 1 }),
    .each (b.exports.filter fun x => exPort x.2 == p && exId x.2 == leAt seg 8 8) fun x =>
      let n := leAt seg 0x14 4
      .when (decide (x.2.ackno < n) && decide (n ≤ x.2.seqno)) (Act.all [
        .onExport x.1 (fun y => { y with
          ackno := n, unacked := y.unacked.filter fun u => decide (n ≤ u.1), lastAck := beat b, timeouts := 0 }),
        .pump x.1])]) s

/-- TEASEL_RETRANSMIT_TIMEOUT: no ACK for LNK_ETH_RTO beats; every segment from ACKNO on goes out again, and the 16th
time in a row the export fails (R297, R306). -/
def execTeaselRetransmitTimeout (h : Nat) (s : State) : Host.Outcome State Fault Refusal :=
  perform (decide (h < 128)) (.read fun b => .opt (exportOf? b h) fun x =>
    let p := exPort x
    .when (portMode b p == 2 && x.ending.isNone && !x.unacked.isEmpty &&
        decide (x.lastAck + fld b (.lnkEthRto p) 15 0 ≤ beat b)) (
      if 15 ≤ x.timeouts then .onExport h fun x => { x with timeouts := 16, ending := some 1 }
      else Act.all [
        .when (portState b p == lnkUp) (.each x.unacked (fun u => .emit (.ethFrame p u.2))),
        .count (.tslRetx (p / 8)) x.unacked.length,
        .onExport h fun x => { x with timeouts := x.timeouts + 1, lastAck := beat b }])) s

/-! ## The end of an export (R306, 12_host.md R360) -/

/-- Nothing of the export is on its way any more. -/
def Export.quiet (b : Block) (h : Nat) (x : Export) : Bool :=
  let t := port b (exPort x)
  x.allRead && x.buf.isEmpty && x.unacked.isEmpty && x.heldSegs.isEmpty && x.epochs.isEmpty &&
    (portMode b (exPort x) == 2 ||
      ((t.txq.all fun i => i.teasel != some h) &&
        t.replayBuf.all fun y => y.2.all fun c => !(cellType c == 2 && cellChannel c == exChannel x)))

/-- The status an export ends with now, if it ends. -/
def endStatus (b : Block) (h : Nat) (x : Export) : Option Nat :=
  match x.ending with
  | some st => some st
  | none =>
    let p := exPort x
    if portState b p = lnkDown ∧ (port b p).downSince + 4096 ≤ beat b then some 1
    else if x.quiet b h then some 0 else none

/-- An export ends: the records held of a conversion that will not be tried again are written as uncontained (11_integrity.md
R333, R424), its page references return, its table entry is written, then its MBX_EXP_DONE bit and its event. -/
def Act.endExport (h st : Nat) : Act :=
  .read fun b => .opt (exportOf? b h) fun x =>
    let f := x.func
    let p := exPort x
    Act.all [
      .releaseConv x.convPend (fun _ => 9),
      .count .chkUncontained x.convPend.length,
      .onDir f (fun d => { d with
        pages := changePages x.pages (fun q => { q with exports := q.exports - 1, stamp := beat b }) d.pages }),
      .onPort p (fun s => { s with txq := s.txq.filter fun i => i.teasel != some h }),
      .units (fun u => { u with exports := smDel u.exports h }),
      .setFld (.tslStatus (h / 64)) 23 16 (fld b (.tslStatus (h / 64)) 23 16 - 1),
      .showHold (h / 64),
      .when (st == 2) (.count (.tslPoisoned (h / 64)) 1),
      .setReg (.expTable f (4 * h)) (exId x % 2 ^ 32),
      .setReg (.expTable f (4 * h + 1)) (exId x / 2 ^ 32),
      .setReg (.expTable f (4 * h + 2)) st,
      .setReg (.expTable f (4 * h + 3)) x.nextPage,
      .setFld (.mbxExpDone f (h / 32)) (h % 32) (h % 32) 1,
      .event f 1,
      .when (st != 0) (.log { partRecord b f with detector := 0x25, syndrome := p + st * 65536 })]

/-- EXPORT_END: an export whose end has come, ends (R306). -/
def execExportEnd (h : Nat) (s : State) : Host.Outcome State Fault Refusal :=
  perform (decide (h < 128)) (.read fun b => .opt (exportOf? b h) fun x => .opt (endStatus b h x) fun st => .endExport h st) s

/-- Every export of a function ends ABORTED (R306, 12_host.md R357, R367). -/
def Act.abortExports (f : Nat) : Act :=
  .read fun b => .each (b.exports.filter fun x => x.2.func == f) fun x => .endExport x.1 3

/-! ## KV_EXPORT (R298 to R300) -/

/-- The SEALED pages mapped in slot s that hold [t0, t1), ascending; none where a token has none. -/
def sealedRun (d : DirFn) (s : Nat) : Nat → Nat → Nat → Option (List Page)
  | 0, t0, t1 => if t1 ≤ t0 then some [] else none
  | fuel + 1, t0, t1 =>
    if t1 ≤ t0 then some []
    else match d.pages.find? fun p => p.st == .sealed && p.slots.contains s && decide (p.t0 ≤ t0) && decide (t0 < p.t0 + p.len) with
      | none => none
      | some p => (sealedRun d s fuel (p.t0 + p.len) t1).map (p :: ·)

/-- T0 and T1 keep the alignment of the target format (R300); format 0 asks for the bounds of source pages. -/
def exportAligned (d : DirFn) (s tfmt t0 t1 : Nat) : Bool :=
  if tfmt = 1 then t0 % 256 == 0 && t1 % 16 == 0
  else if tfmt = 2 then t0 % 64 == 0 && t1 % 16 == 0
  else d.pages.all fun p => !p.slots.contains s ||
    !((decide (p.t0 < t0) && decide (t0 < p.t0 + p.len)) || (decide (p.t0 < t1) && decide (t1 < p.t0 + p.len)))

/-- The image transmits on a channel of a port. -/
def planSends (b : Block) (p ch : Nat) : Bool :=
  ((portPlan b p).map fun x => x.tx.any fun r => r.channel == ch).getD false

/-- What KV_EXPORT answers (R299): a status, or the pages of the export. A Bindweed CHANNEL above 4,095 is none (R276, log 48);
a page whose frames have left the module is mapped nowhere (13_memory.md R376). -/
def checkExport (b : Block) (f : Nat) (d : Bytes) : Except Nat (List Page) :=
  let tfmt := leAt d 0x14 1
  let p := leAt d 0x15 1
  let t0 := leAt d 0x0C 4
  let t1 := leAt d 0x10 4
  let s := leAt d 8 4
  let dn := dir b f
  let dims := match geomOf b f with
    | none => true
    | some g => if tfmt = 2 then g.d == 64 || g.d == 128 else g.d == 64 || g.d == 128 || g.d == 256
  let bindweed := portMode b p == 1
  let size := leAt d 0x1C 4
  if 2 < tfmt ∨ t1 ≤ t0 ∨ !exportAligned dn s tfmt t0 t1 ∨ !dims ∨ 16 ≤ p ∨ !(part b f).ports.getLsbD p ∨
      portState b p = lnkOff ∨
      (bindweed && (decide (4096 ≤ leAt d 0x18 2) || planSends b p (leAt d 0x18 2) || decide (leAt d 0x17 1 < 3) || decide (16 < leAt d 0x17 1) ||
        decide (size < 256) || decide (65536 < size) || size % 256 != 0)) then .error 1
  else match (geomOf b f).bind fun _ => sealedRun dn s (t1 - t0 + 1) t0 t1 with
    | none => .error 2
    | some ps => if ps.any (fun p => !p.present b) then .error 2 else if 64 ≤ (b.exports.filter fun x => x.1 / 64 == p / 8).length then .error 3 else .ok ps

/-- The lowest free slot of an engine's 64. -/
def freeHandle (b : Block) (e : Nat) : Nat :=
  ((List.range 64).find? fun k => (exportOf? b (e * 64 + k)).isNone).getD 0 + e * 64

/-- An export is accepted: it takes its pages' references (R306). -/
def Act.startExport (f h : Nat) (d : Bytes) (ps : List Page) : Act :=
  .read fun b =>
    let t0 := leAt d 0x0C 4
    let t1 := leAt d 0x10 4
    let total := if leAt d 0x14 1 = 0 then ps.length else ceilDiv (t1 - t0) (targetPage (leAt d 0x14 1))
    let x : Export :=
      { func := f, desc := d, geom := geomOf b f, pages := ps.map (·.num), nextPage := 0, totalPages := total, buf := [], unacked := []
        heldSegs := [], convPend := [], readBeat := 0
        accNo := b.exports.foldl (fun n y => max n y.2.accNo) ((List.range 16).foldl (fun n p => max n (port b p).tslTurn) 0) + 1
        seqno := 0, ackno := 0, lastAck := beat b, timeouts := 0, credits := leAt d 0x17 1
        epochs := [], ending := none }
    Act.all [
      .units (fun u => { u with exports := smPut u.exports h x }),
      .onDir f (fun k => { k with
        pages := changePages (ps.map (·.num)) (fun p => { p with exports := p.exports + 1, stamp := beat b }) k.pages }),
      .setFld (.tslStatus (h / 64)) 23 16 (fld b (.tslStatus (h / 64)) 23 16 + 1)]

end Sys2Proof.Machine
end

