-- ==== Sys2Proof/Machine/Commands.lean ====
section
/-! DEFINITION. The frame of every mailbox command (12_host.md R348 to R350, R361, R363) and the module commands that
report and fence: GET_INFO, GET_STATE, READ_LOG, FENCE_UNIT, UNFENCE_UNIT, RUN_SELFTEST, SET_POWER_STATE. -/

namespace Sys2Proof.Machine

/-! ## The order of checks (R350) -/

/-- What a command's checks of R350 steps 1 to 4 need: its code, the TARGETs it takes, the payloads it takes (length,
reserved bytes, encodings), whether it is function 0's alone, and the module and partition states that admit it. -/
structure Cmd where
  code : Nat
  target : Nat → Bool
  payload : Bytes → Bool
  func0 : Bool
  mods : List Nat
  states : List PState
  /-- DETAIL of step 1, where the command's table gives one -/
  badAt : Bytes → Nat := fun _ => 0

/-- All bytes of [lo, hi) are 0. -/
def zeros (p : Bytes) (lo hi : Nat) : Bool := ((p.drop lo).take (hi - lo)).all (· == 0)

/-- Partition states, all of them. -/
def anyPState : List PState := [.empty, .ready, .loaded, .running, .paused, .faulted]

/-- TARGET of a module command. -/
def moduleTarget (t : Nat) : Bool := t == 0

/-- TARGET of a partition command. -/
def partTarget (t : Nat) : Bool := isVf t

/-- The first status of R350 steps 1 to 4 that applies. -/
def Cmd.refusal (c : Cmd) (b : Block) (f : Nat) (r : Bytes) : Option Nat :=
  let t := reqTarget r
  if !(zeros r 3 4 && c.target t && reqLen r == (reqPayload r).length && c.payload (reqPayload r)) then some stBadArg
  else if f ≠ 0 ∧ (c.func0 || (t != 0 && t != f)) then some stDenied
  else if !c.mods.contains (modState b) then some stConflict
  else if t ≠ 0 ∧ !c.states.contains (part b t).st then some stConflict
  else none

/-- Long commands (R351). -/
def longCode (c : Nat) : Bool :=
  [0x10, 0x11, 0x20, 0x21, 0x31, 0x34, 0x53, 0x70, 0x80, 0x81, 0x82, 0x83].contains c

/-- GET_INFO, GET_STATE and READ_LOG (R352). -/
def reportCode (c : Nat) : Bool := c == 0x01 || c == 0x02 || c == 0x50

/-- A mailbox with a command outstanding. -/
structure Outstanding where
  f : Nat
  m : Nat
  l : Latched

/-- The code of an outstanding command, and the partition it acts on. -/
def Outstanding.code (x : Outstanding) : Nat := reqCode x.l.bytes
def Outstanding.target (x : Outstanding) : Nat := reqTarget x.l.bytes

/-- Every mailbox with a command outstanding. -/
def outstanding (b : Block) : List Outstanding :=
  b.funcs.flatMap fun g => g.2.latched.map fun y => { f := g.1, m := y.1, l := y.2 }

/-- A command on a partition waits for every command accepted before it there (R352), for a function-level reset of that
function (R367), and for a rollback or re-placement that is due (R362). STOP overtakes a PAUSE that is executing; reports
never wait. -/
def Outstanding.held (b : Block) (x : Outstanding) : Bool :=
  let t := x.target
  let p := part b t
  let earlier (y : Outstanding) : Bool :=
    decide (y.l.order < x.l.order) && y.target == t && !reportCode y.code &&
      !(x.code == 0x33 && y.code == 0x31 && y.l.begun)
  t != 0 && !reportCode x.code &&
    (flag b (.mbxFunc t) 25 || p.taint.isSome || p.poisonedBy.isSome || p.replace && p.st != .running ||
      (outstanding b).any earlier)

/-- The oldest long command of a function that has none executing: the one its next turn takes (R351). -/
def nextLong (b : Block) (f : Nat) : Option Outstanding :=
  let ls := (outstanding b).filter fun y => y.f == f && longCode y.code
  if ls.any fun y => y.l.begun then none
  else ls.foldl (fun (o : Option Outstanding) y => match o with
    | none => some y
    | some z => if y.l.order < z.l.order then some y else o) none

/-- Places from the function after the latest turn's to function f, around all seventeen. -/
def turnsTo (b : Block) (f : Nat) : Nat := (f + 16 - b.service.turn % 17) % 17

/-- Function f's turn has come: no function between has a long command that may begin. -/
def longTurn (b : Block) (f : Nat) : Bool :=
  (List.range 17).all fun g => !decide (turnsTo b g < turnsTo b f) || (nextLong b g).all fun y => y.held b

/-- The command of mailbox m of f may not execute now (R351, R352): it is held, or a short command taken before it has
not begun, or another long command of its function executes or comes first, or another function's turn is. -/
def waits (b : Block) (f m code : Nat) : Bool :=
  match smGet (func b f).latched m with
  | none => false
  | some l =>
    let x : Outstanding := { f := f, m := m, l := l }
    x.held b || !l.begun && (
      if longCode code then !((nextLong b f).any fun y => y.m == m) || !longTurn b f
      else (outstanding b).any fun y =>
        !longCode y.code && !y.l.begun && decide (y.l.order < l.order) && !y.held b)

/-- The execution of a command begins; a long one's function has had its turn (R351). -/
def Act.begin (f m : Nat) : Act :=
  .read fun b => .opt (smGet (Machine.func b f).latched m) fun l => .when (!l.begun) (Act.all [
    .onFunc f (fun s => { s with latched := smPut s.latched m { l with begun := true } }),
    .when (longCode (reqCode l.bytes)) (.units fun u => { u with service := { u.service with turn := f } })])

/-- Mailbox m of f executes its latched request when its code is the command's: the first refusal, or the command
itself on the payload and the target. -/
def Act.command (f m : Nat) (c : Cmd) (k : Bytes → Nat → Act) : Act :=
  .read fun b => .opt (request b f m) fun r =>
    .when (reqCode r == c.code && !waits b f m c.code) (Act.all [
      .begin f m,
      match c.refusal b f r with
      | some st => .respond f m st (if st = stBadArg then c.badAt (reqPayload r) else 0) []
      | none => k (reqPayload r) (reqTarget r)])

/-- A response with OK. -/
def Act.ok (f m : Nat) (payload : Bytes) : Act := .respond f m stOk 0 payload

/-- Codes of R353, R356 to R358. -/
def knownCodes : List Nat :=
  [0x0001, 0x0002, 0x0010, 0x0011, 0x0020, 0x0021, 0x0030, 0x0031, 0x0032, 0x0033, 0x0034, 0x0040, 0x0050, 0x0051,
   0x0052, 0x0053, 0x0060, 0x0061, 0x0070, 0x0080, 0x0081, 0x0082, 0x0083, 0x0090]

/-! ## Firmware slots as GET_INFO shows them -/

/-- Slot 0 or 1. -/
def fwSlot (b : Block) (n : Nat) : FwSlot := if n = 0 then b.power.slotA else b.power.slotB

/-- A byte of a programmed slot; erased flash reads 0xFF (log 2). -/
def FwSlot.byte (s : FwSlot) (o : Nat) : Byte := smGetD s.cells o 0xFF

/-- n bytes of a slot from offset o. -/
def FwSlot.bytes (s : FwSlot) (o n : Nat) : Bytes := (List.range n).map fun i => s.byte (o + i)

/-- The VERSION field of a slot (15_power_boot.md R408). -/
def FwSlot.shown (s : FwSlot) : Nat := if s.factory then s.version.toNat else leNat (s.bytes 8 8)

/-! ## GET_INFO (R354) -/

/-- Plots, ports, slot units, GiB and watts that no partition holds. -/
def freePlots (b : Block) : Nat := ((List.range 64).filter fun p => (ownerOfPlot b p).isNone).foldl (fun n p => n + 2 ^ p) 0
def freePorts (b : Block) : Nat :=
  ((List.range 16).filter fun p => !(owners b).any fun f => (part b f).ports.getLsbD p).foldl (fun n p => n + 2 ^ p) 0
def usedSlots (b : Block) : Nat := ((owners b).map fun f => (part b f).lslots).foldl (· + ·) 0
def usedPower (b : Block) : Nat := ((owners b).map fun f => (part b f).power).foldl (· + ·) 0

/-- Chunks a controller offers: 71 GiB beside the reserve, while it is ready or in self-refresh (R344). -/
def offered (b : Block) (k : Nat) : Nat := if lpdState b k = lpdReady ∨ lpdState b k = lpdSelfRefresh then 71 else 0

/-- Chunks of a controller that partitions hold. -/
def heldChunks (b : Block) (k : Nat) : List Nat :=
  (owners b).flatMap fun f => ((part b f).chunks.filter fun x => x.1 == k).map (·.2)

/-- Unallocated capacity in GiB. -/
def freeGib (b : Block) : Nat :=
  ((List.range 16).map fun k => offered b k - (heldChunks b k).length).foldl (· + ·) 0

/-- The payload of GET_INFO from a fenced-unit index on. -/
def infoPayload (b : Block) (index : Nat) : Bytes :=
  let fenced := b.campion.hist.filter fun h => h.fenced
  let recs := (fenced.drop index).take 496
  let minimal := modState b == modMinimal
  leBytes (rd b .srlId) 4 ++ leBytes (modState b) 1 ++
  leBytes (if minimal then 0xFF else fld b .pwrBoot 16 16) 1 ++
  leBytes (if minimal then fld b .pwrBootRsn 31 16 else 0) 2 ++
  leBytes (rd b .srlSerial) 8 ++ leBytes b.power.slotA.shown 8 ++ leBytes b.power.slotB.shown 8 ++
  leBytes (freePlots b) 8 ++ leBytes (freePorts b) 2 ++ leBytes (60 - usedSlots b) 1 ++ leBytes b.vfs 1 ++
  leBytes (freeGib b) 2 ++ leBytes (rd b .pwrFix) 2 ++ leBytes (rd b .pwrLimit) 2 ++
  leBytes (rd b .pwrLimit - rd b .pwrFix - usedPower b) 2 ++ leBytes (rd b .srlDomStatus) 4 ++
  leBytes (rd b .srlDomId) 8 ++ leBytes (rd b .srlFencedPlots) 8 ++ leBytes fenced.length 4 ++ leBytes recs.length 4 ++
  recs.flatMap fun h => leBytes h.uclass 2 ++ leBytes 0 2 ++ leBytes h.unit 4

/-- The module states that admit the reports of R363. -/
def reportStates : List Nat := [modMinimal, modOperational, modDormant]

def cmdGetInfo : Cmd :=
  { code := 1, target := moduleTarget, payload := fun p => p.length == 4, func0 := false, mods := reportStates
    states := anyPState }

/-- GET_INFO (R354); a request with a reserved CODE is taken here, and answered BAD_ARG (R350). -/
def execGetInfo (f m : Nat) (s : State) : Host.Outcome State Fault Refusal :=
  perform (isFunc f && isMbox m) (.read fun b => .opt (request b f m) fun r =>
    if !knownCodes.contains (reqCode r) then .when (!waits b f m (reqCode r)) (.respond f m stBadArg 0 [])
    else .command f m cmdGetInfo fun p _ => .read fun b => .ok f m (infoPayload b (leAt p 0 4))) s

/-! ## GET_STATE (R355) -/

/-- The payload of GET_STATE for the partition of function t. -/
def statePayload (b : Block) (t : Nat) : Bytes :=
  let p := part b t
  let none' := p.st == .empty
  let mine (q : Nat) : Bool := !none' && p.ports.getLsbD q
  let up := ((List.range 16).filter fun q => mine q && portState b q == lnkUp).foldl (fun n q => n + 2 ^ q) 0
  leBytes p.st.code 1 ++ leBytes ((p.fault.map (·.cause)).getD 0) 1 ++
  leBytes (if p.image.isSome then p.variant else 0xFF) 1 ++ [0] ++
  leBytes ((p.fault.map (·.lcore)).getD 0) 4 ++ leBytes ((p.fault.map (·.pc)).getD 0) 2 ++ leBytes p.cancelled 2 ++
  leBytes (((latestCkpt p fun _ => true).map (·.gen)).getD 0xFFFFFFFF) 4 ++ leBytes p.startBeat 8 ++
  leBytes p.beatsRun 8 ++ leBytes ((p.image.map (·.imageId.toNat)).getD 0) 8 ++ leBytes up 2 ++
  leBytes (b.exports.filter fun x => x.2.func == t).length 1 ++ [0] ++
  (List.range 16).flatMap fun q => leBytes (if mine q then portWidth b q else 0) 1

def cmdGetState : Cmd :=
  { code := 2, target := isFunc, payload := fun p => p.isEmpty, func0 := false, mods := reportStates
    states := anyPState }

/-- GET_STATE (R355, R353): of the target, or of the issuing function. -/
def execGetState (f m : Nat) (s : State) : Host.Outcome State Fault Refusal :=
  perform (isFunc f && isMbox m) (.command f m cmdGetState fun _ t => .read fun b =>
    .ok f m (statePayload b (if t = 0 then f else t))) s

/-! ## READ_LOG (R353) -/

/-- Every record in ascending SEQNO order. -/
def allRecords (b : Block) : List Bytes := b.campion.log ++ b.campion.buffer

/-- The payload of READ_LOG for function f. -/
def logPayload (b : Block) (f start most : Nat) : Bytes :=
  let rs := ((allRecords b).filter fun r => decide (start ≤ recSeq r) && (f == 0 || recFunc r % 32 == f)).take most
  let next := if rs.length = most then ((rs.getLast?.map recSeq).getD 0 + 1) % 2 ^ 32
    else max start ((rd b .chkLogSeq + 1) % 2 ^ 32)
  leBytes rs.length 4 ++ leBytes next 4 ++ List.replicate 24 0 ++ rs.flatMap id

def cmdReadLog : Cmd :=
  { code := 0x50, target := moduleTarget, func0 := false, mods := reportStates, states := anyPState
    payload := fun p => p.length == 6 && decide (1 ≤ leAt p 4 2) && decide (leAt p 4 2 ≤ 31) }

/-- READ_LOG (R353). -/
def execReadLog (f m : Nat) (s : State) : Host.Outcome State Fault Refusal :=
  perform (isFunc f && isMbox m) (.command f m cmdReadLog fun p _ => .read fun b =>
    .ok f m (logPayload b f (leAt p 0 4) (leAt p 4 2))) s

/-! ## FENCE_UNIT, UNFENCE_UNIT, RUN_SELFTEST (11_integrity.md R332) -/

/-- The partitions that own a unit (12_host.md R344, R361): by its core or plot, by their chunks on a controller, by their
port's lane, by their Teasel and directory engines. -/
def unitOwners (b : Block) (cls unit : Nat) : List Nat :=
  match cls with
  | 6 => (ownerOfPlot b unit).toList
  | 7 => (owners b).filter fun f => (part b f).chunks.any fun x => x.1 == unit
  | 8 => (owners b).filter fun f => (part b f).ports.getLsbD (unit / 4)
  | 9 => (owners b).filter fun f => (part b f).engine == unit % 2
  | _ => ((coreOfUnit cls unit).bind (ownerOfCore b)).toList

/-- The record of a fencing command on a unit: its owner's, if it has one (R333). -/
def unitRecord (b : Block) (cls unit : Nat) : Tansy :=
  { partRecord b ((unitOwners b cls unit).head?.getD 0x1F) with
    uclass := cls, unit := unit, hist := histTotal b cls unit }

def cmdFenceUnit : Cmd :=
  { code := 0x51, target := moduleTarget, func0 := true, mods := [modOperational], states := anyPState
    payload := fun p => p.length == 8 && zeros p 2 4 }

def cmdUnfenceUnit : Cmd := { cmdFenceUnit with code := 0x52 }

/-- FENCE_UNIT: as if permanent, disposition 0x0A (R332). -/
def execFenceUnit (f m : Nat) (s : State) : Host.Outcome State Fault Refusal :=
  perform (isFunc f && isMbox m) (.command f m cmdFenceUnit fun p _ => .read fun b =>
    let c := leAt p 0 2
    let u := leAt p 4 4
    if !unitExists c u then .respond f m stBadArg 0 []
    else Act.all [
      .when (!isFenced b c u) (Act.all [
        .log { unitRecord b c u with detector := 0x34, disp := 0x0A },
        .fence c u 0x0A,
        .when (c == 8) (.laneFenced u)]),
      .ok f m []]) s

/-- A unit's fenced flag and session window are cleared, its total kept (R332). -/
def Act.unfence (c u : Nat) : Act :=
  Act.all [
    .campion (fun k => { k with hist := k.hist.map fun h =>
      if h.uclass = c ∧ h.unit = u then
        { h with fenced := false, kat := false, disp := 0, beatA := noBeat, beatB := noBeat, ueA := noBeat, ueB := noBeat }
      else h }),
    .showFence c u]

/-- A partition's loaded variant avoids the unit only because of its fence: without it another would be chosen. -/
def avoidsOnly (b : Block) (c u : Nat) : Bool :=
  let free := (Act.unfence c u).run b
  (owners b).any fun f => match (part b f).image with
    | none => false
    | some im => validVariant free f im != some (part b f).variant && validVariant b f im == some (part b f).variant

/-- UNFENCE_UNIT (R332). -/
def execUnfenceUnit (f m : Nat) (s : State) : Host.Outcome State Fault Refusal :=
  perform (isFunc f && isMbox m) (.command f m cmdUnfenceUnit fun p _ => .read fun b =>
    let c := leAt p 0 2
    let u := leAt p 4 4
    if !unitExists c u then .respond f m stBadArg 0 []
    else if isFenced b c u && avoidsOnly b c u then .respond f m stConflict 2 []
    else Act.all [
      .when (isFenced b c u) (Act.all [
        .log { unitRecord b c u with detector := 0x35, disp := 0x0B },
        .unfence c u]),
      .ok f m []]) s

/-- A SET_POWER_STATE is in progress for another mailbox (R350). -/
def powerBusy (b : Block) (f m : Nat) : Bool :=
  (b.power.dormantReq.any fun x => x != (f, m)) || (b.power.wake.any fun x => x.2 != (f, m))

def cmdRunSelftest : Cmd :=
  { code := 0x53, target := moduleTarget, func0 := true, mods := [modOperational], states := anyPState
    payload := fun p => decide (4 ≤ p.length) && decide (1 ≤ leAt p 2 2) && decide (leAt p 2 2 ≤ 1016) &&
      p.length == 4 + 4 * leAt p 2 2 }

/-- RUN_SELFTEST: all 256 vectors on each named array or core; `failed` lists the units that fail, each a known-answer
test failure (R332, R353). -/
def execRunSelftest (f m : Nat) (fails : List KatOut) (s : State) : Host.Outcome State Fault Refusal :=
  perform (isFunc f && isMbox m) (.command f m cmdRunSelftest fun p _ => .read fun b =>
    let c := leAt p 0 2
    let us := (List.range (leAt p 2 2)).map fun i => leAt p (4 + 4 * i) 4
    let busy (u : Nat) : Bool := (unitOwners b c u).any fun g => (part b g).st != .ready
    let tested := c == 1 || c == 2
    if us.any fun u => !unitExists c u then .respond f m stBadArg 0 []
    else if powerBusy b f m then .respond f m stBusy 0 []
    else if us.any busy then .respond f m stConflict 0 []
    else Act.all [
      .when tested (.each us fun u => .selftest c u fails),
      .ok f m (leBytes us.length 2 ++ us.flatMap fun u =>
        leBytes (if !tested then 2 else if selftestFails b c u fails then 1 else 0) 1)]) s

/-! ## SET_POWER_STATE (15_power_boot.md R415, R417) -/

def cmdSetPower : Cmd :=
  { code := 0x70, target := moduleTarget, func0 := true, mods := [modOperational, modDormant], states := anyPState
    payload := fun p => p.length == 1 && decide (leAt p 0 1 ≤ 1) }

/-- Another mailbox holds a long command, an export is in flight, or a directory operation is pending (R415). -/
def keepsAwake (b : Block) (f m : Nat) : Bool :=
  !b.exports.isEmpty || !b.dirReqs.isEmpty || (b.dirs.any fun d => d.2.qwait == 2) ||
    b.funcs.any fun g => g.2.latched.any fun r => (g.1 != f || r.1 != m) && r.2.begun && longCode (reqCode r.2.bytes)

/-- SET_POWER_STATE with STATE 1, and every ill-formed one: DORMANT begins in the same cycle (R415). -/
def execSetPowerStateDormant (f m : Nat) (s : State) : Host.Outcome State Fault Refusal :=
  perform (isFunc f && isMbox m) (.read fun b => .opt (request b f m) fun r =>
    .when (leAt (reqPayload r) 0 1 != 0 || (cmdSetPower.refusal b f r).isSome) (
      .command f m cmdSetPower fun _ _ => .read fun b =>
        if b.power.dormantReq = some (f, m) then .nop
        else if powerBusy b f m then .respond f m stBusy 0 []
        else if modState b = modDormant then .ok f m []
        else if (owners b).any fun g => (part b g).st == .running then .respond f m stConflict 0 []
        else if keepsAwake b f m then .respond f m stConflict 2 []
        else Act.all [.setModState modDormant, .power fun p => { p with dormantReq := some (f, m) }])) s

/-- Cores of plot p in plot-local row-major order, and the one at row 10, column 10. -/
def plotCores (p : Nat) : List Nat := physCores [p] (List.range 400)
def plotKeeper (p : Nat) : Nat := ((coreOfRel [p] 210).getD 0)

/-- A core is fenced as a whole. -/
def coreFenced (b : Block) (c : Nat) : Bool := flag b (.coreStatus c) 1

/-- The core of its own plot that keeps the state of a plot's synchronisation unit in DORMANT (R415). -/
def ownKeeper (b : Block) (p : Nat) : Option Nat :=
  (plotKeeper p :: plotCores p).find? fun c => !coreFenced b c

/-- The keepers of the units without an unfenced core in their plot: the first unfenced core of the die that keeps no other
unit's state. -/
def dieKeepers (b : Block) : List Nat → List (Nat × Nat) → List (Nat × Nat)
  | [], ks => ks
  | p :: r, ks =>
    match ((List.range 3200).map (p / 8 * 3200 + ·)).find? fun c => !coreFenced b c && !ks.any fun k => k.2 == c with
    | some c => dieKeepers b r (ks ++ [(p, c)])
    | none => dieKeepers b r ks

/-- Plot and core of every unit that writes its state on the way to DORMANT; a unit fenced in class SYNC holds none (R415). -/
def syncKeepers (b : Block) : List (Nat × Nat) :=
  let ps := (List.range Config.numPlots).filter fun p => !isFenced b 6 p
  dieKeepers b (ps.filter fun p => (ownKeeper b p).isNone) (ps.filterMap fun p => (ownKeeper b p).map fun c => (p, c))

/-- DORMANT_ENTRY_COMPLETE: ports off, lock lost, the units' state in control storage, controllers drained and in self-refresh, then the response (R415,
13_memory.md R386). -/
def execDormantEntryComplete (f m : Nat) (s : State) : Host.Outcome State Fault Refusal :=
  perform (isFunc f && isMbox m) (.whenB (fun b => b.power.dormantReq == some (f, m)) (.read fun b => Act.all [
    .each ((List.range 16).filter fun p => portMode b p != 0) (fun p => Act.all [
      .setPortState p lnkOff, .setFld (.lnkStatus p) 31 28 0, .setFld (.lnkStatus p) 19 16 0]),
    .when (domState b == 1 || domState b == 2) .loseLock,
    .each ((List.range 16).filter fun k => lpdState b k == lpdReady) (fun k => Act.all [
      .each (lpd b k).queue (fun q => Act.all [
        .count (if q.write then .lpdWrBytes k else .lpdRdBytes k) q.left, .when (!q.write) (.readDone k q none)]),
      .onLpd k (fun x => { x with queue := [] }),
      .setLpdState k lpdSelfRefresh]),
    .each (b.hostqs.flatMap fun x => x.2.reqs) (fun q =>
      .count (if q.write then .lpdWrBytes (ctlOf q.addr) else .lpdRdBytes (ctlOf q.addr)) 64),
    .units (fun u => { u with hostqs := [] }),
    .power (fun p => { p with dormantReq := none, keepers := syncKeepers b }),
    .ok f m []])) s

/-- SET_POWER_STATE with STATE 0: a wake begins at the first beat boundary after acceptance (R417). -/
def execSetPowerStateOperational (f m : Nat) (s : State) : Host.Outcome State Fault Refusal :=
  perform (isFunc f && isMbox m) (.read fun b => .opt (request b f m) fun r =>
    .when (leAt (reqPayload r) 0 1 == 0 && (cmdSetPower.refusal b f r).isNone) (
      .command f m cmdSetPower fun _ _ => .read fun b =>
        if b.power.wake.any fun x => x.2 == (f, m) then .nop
        else if powerBusy b f m then .respond f m stBusy 0 []
        else if modState b = modOperational then .ok f m []
        else Act.all [.power (fun p => { p with wake := some (beat b + 1, f, m) }), .setFld .pwrModstate 3 3 1])) s

/-- The beat of a wake from W at which the controllers have left self-refresh: the first multiple of 3 in its window (R417,
13_memory.md R386, log 59). -/
def refreshEnd (w : Nat) : Nat := (w + 3752) / 3 * 3

/-- In a wake, the controllers leave self-refresh at that beat. -/
def Act.leaveRefresh : Act :=
  .read fun b => .when (b.power.wake.any fun x => beat b == refreshEnd x.1)
    (.each ((List.range 16).filter fun k => lpdState b k == lpdSelfRefresh) fun k => .setLpdState k lpdReady)

/-- Restored state that fails its ECC check: a detection of ECC_SCR_UE on a bank or core (R417). -/
def Act.wakeDetection (d : Det) : Act :=
  .read fun b => .when (d.code == 0x08 && (d.uclass == 2 || d.uclass == 3) && unitExists d.uclass d.uid) (
    let f := (coreOfUnit d.uclass d.uid).bind (ownerOfCore b)
    .detection (partRecord b (f.getD 0x1F)) d f (beat b))

/-- WAKE_COMPLETE: OPERATIONAL at the boundary of beat W + 12,500, exactly; then what failed the ECC read is acted on
(R417). -/
def execWakeComplete (s : State) (bad : List Det := []) : Host.Outcome State Fault Refusal :=
  perform true (.read fun b => .opt b.power.wake fun (w, f, m) =>
    .when (decide (beat b = w + 12500)) (Act.all [
      .power (fun p => { p with wake := none, keepers := [] }),
      .setFld .pwrModstate 3 3 0,
      .setModState modOperational,
      .each bad .wakeDetection,
      .ok f m []])) s

end Sys2Proof.Machine
end

