-- ==== Sys2Proof/Machine/Control.lean ====
section
/-! DEFINITION. The control entries of the step table: WAIT, SIGNAL, BARRIER, STREAM, LOOP, PARAM, END
(05_step_tables.md R143-R147). An entry that the sequencer is not ready to execute is an event the state does not
admit: nothing changes (log 3). -/

namespace Sys2Proof.Machine

/-- OBJ and AMOUNT of R143. -/
def ctlObj (e : BitVec 512) : Nat := ef e 78 64
def ctlAmount (e : BitVec 512) : Nat := ef e 95 80

/-- The sequencer is held in its entry until it is released. -/
def Act.holdSeq (c : Nat) : Act :=
  Act.all [.read (fun b => .onCore c fun s => { s with seqWaiting := true, entryBeat := beat b }),
    .setSeqState c seqWaits]

/-- WAIT: WAIT AMOUNT on OBJ is issued and the sequencer waits (R143, 06_streams.md R158). -/
def execWait (c : Nat) (s : State) : Host.Outcome State Fault Refusal :=
  perform (isCore c) (.read fun b => .opt (readyOp b c opWait) fun (f, e) =>
    if (liveObj b f (ctlObj e)).isNone then .seqFault c 3 0x21 (ctlObj e * 65536)
    else Act.all [.holdSeq c, .issueWait (.seq c) f (ctlObj e) (ctlAmount e)]) s

/-- SIGNAL: SIGNAL AMOUNT on OBJ is issued and the entry completes (R143, 06_streams.md R158). -/
def execSignal (c : Nat) (s : State) : Host.Outcome State Fault Refusal :=
  perform (isCore c) (.read fun b => .opt (readyOp b c opSignal) fun (f, e) =>
    if (liveObj b f (ctlObj e)).isNone then .seqFault c 3 0x21 (ctlObj e * 65536)
    else Act.all [.signal (.seq c) c f (ctlObj e) (ctlAmount e), .finishControl c f e]) s

/-- BARRIER: an arrival at OBJ is issued and the sequencer waits for the release (R143, 06_streams.md R160). -/
def execBarrier (c : Nat) (s : State) : Host.Outcome State Fault Refusal :=
  perform (isCore c) (.read fun b => .opt (readyOp b c opBarrier) fun (f, e) =>
    if (liveObj b f (ctlObj e)).isNone then .seqFault c 3 0x21 (ctlObj e * 65536)
    else Act.all [.holdSeq c, .issueArrival (.seq c) f (ctlObj e)]) s

/-- The lowest-numbered free context of a core's stream engine (06_streams.md R176). -/
def freeCtxOf (b : Block) (c : Nat) : Option Nat := (List.range 4).find? fun x => !ctxActive b c x

/-- A context starts program PROG with four arguments; every other register is 0 (06_streams.md R176). -/
def Act.startProgram (c x prog : Nat) (args : List Word) : Act :=
  Act.all [
    .onCtx c x (fun _ => { CtxState.reset with args := args }),
    .setReg (.strCtx c x) (2 ^ 31 + prog * 2 ^ 24),
    .setFld (.strStatus c) x x 1,
    .setFld (.strStatus c) (4 + x) (4 + x) 0]

/-- STREAM: PROG starts in the lowest free context, and the entry completes; with none free it is a schedule overrun
(R143, 06_streams.md R167, R176). -/
def execStream (c : Nat) (s : State) : Host.Outcome State Fault Refusal :=
  perform (isCore c) (.read fun b => .opt (readyOp b c opStream) fun (f, e) =>
    match freeCtxOf b c with
    | none => .seqFault c 2 0x20 0
    | some x => Act.all [
        .startProgram c x (ef e 69 64) ((List.range 4).map fun i => BitVec.ofNat 32 (ef e (127 + 32 * i) (96 + 32 * i))),
        .finishControl c f e]) s

/-- The runtime count of a LOOP (R144, R148). -/
def loopCount (b : Block) (c : Nat) (e : BitVec 512) : Nat :=
  if bitOf e.toNat 93 then shapeWord b c e 0 else ef e 79 64

/-- LOOP: the entry is an invocation of its own (R146). A runtime count above COUNT is a shape overrun (R151), a count
of 0 a zero extent (R152); the loop then opens with index 0, or, with no repetition to run, execution goes on behind
its range (R144, R145). -/
def execLoop (c : Nat) (s : State) : Host.Outcome State Fault Refusal :=
  perform (isCore c) (.read fun b => .opt (readyOp b c opLoop) fun (f, e) =>
    let i := seqEntry b c
    let n := loopCount b c e
    let keep := bitOf e.toNat 92
    let len := ef e 91 80
    if ef e 79 64 < n then Act.all [
      .record c e (creBytes i opLoop 2 0 (rd b (.seqInvoc c) % 2 ^ 32) 0 Counters.zero),
      .seqFault c 1 0x23 0]
    else Act.all [
      .finish c f e (if n = 0 then 1 else 0) 0 0 Counters.zero,
      if (if keep then ef e 79 64 else n) = 0 then .goTo c (i + len + 1)
      else .read fun b =>
        let depth := (Machine.core b c).loops.length
        Act.all [
          .onCore c (fun s => { s with loops := { entry := i, len := len, count := ef e 79 64, keep := keep } :: s.loops }),
          .setLoops c [(depth, n * 65536)],
          .goTo c (i + 1)]]) s

/-- The index that PARAM's LVL names (R147). -/
def paramIdx (b : Block) (c : Nat) (e : BitVec 512) : Nat :=
  if ef e 69 67 = 0 then 0 else fld b (.seqLoop c (ef e 69 67 - 1)) 15 0

/-- The word PARAM copies (R147). -/
def paramWord (b : Block) (c : Nat) (e : BitVec 512) : Nat :=
  if ef e 65 64 = 0 then ef e 103 72 else scrWord b c (ef e 90 72 * 4 + paramIdx b c e * ef e 119 104)

/-- PARAM: one word goes to a shape-set word or a scratch word (R147). -/
def execParam (c : Nat) (s : State) : Host.Outcome State Fault Refusal :=
  perform (isCore c) (.read fun b => .opt (readyOp b c opParam) fun (f, e) => Act.all [
    if bitOf e.toNat 66 then .setScr c (ef e 145 127 * 4) (leBytes (paramWord b c e) 4)
    else .setReg (.seqRs c (ef e 126 123) (ef e 122 120)) (paramWord b c e),
    .finishControl c f e]) s

/-- END: the sequencer stops with SEQ_ST_STATE 4 at END's index, and the run may be over (R143, 12_host.md R359). -/
def execSeqEnd (c : Nat) (s : State) : Host.Outcome State Fault Refusal :=
  perform (isCore c) (.read fun b => .opt (readyOp b c opEnd) fun (f, e) => Act.all [
    .finish c f e 0 0 0 Counters.zero,
    .onCore c (fun s => { s with ended := true }),
    .setSeqState c seqStopped,
    .checkRunEnd f]) s

end Sys2Proof.Machine
end

