-- ==== Sys2Proof/Machine/Firmware.lean ====
section
/-! DEFINITION. Firmware images, their verification, and the update commands (15_power_boot.md R408 to R411, R414,
12_host.md R353). -/

namespace Sys2Proof.Machine

/-! ## Verification (R408, R409) -/

/-- The size of a slot, and of a header. -/
def slotSize : Nat := 0x2000000
def headerSize : Nat := 0x1000

/-- Why an image is not valid. -/
inductive FwFault where
  | header
  | key
  | bodyHash
  | signature
  | rollback
deriving DecidableEq, Repr

/-- The header's fixed fields and ranges hold (R408). -/
def fwHeaderOk (h : Bytes) : Bool :=
  leAt h 0 4 == 0x57465731 && leAt h 4 2 == 1 && decide (leAt h 6 1 ≤ 3) && zeros h 7 8 && decide (leAt h 0x10 4 ≤ 128) &&
    leAt h 0x14 4 % headerSize == 0 && decide (leAt h 0x14 4 ≤ slotSize - headerSize) &&
    decide (leAt h 0x18 4 ≤ 0x800000) && decide (leAt h 0x18 4 ≤ leAt h 0x14 4) && zeros h 0x264 0x400 && zeros h 0x600 0x1000

/-- ASCII of a hexadecimal digit. -/
def hexDigit (n : Nat) : Byte := BitVec.ofNat 8 (if n < 10 then 48 + n else 55 + n)

/-- SRL_SERIAL written as 16 hexadecimal digits (R419, 14_module_hw.md R402). -/
def serialText (b : Block) : Bytes := (List.range 16).map fun i => hexDigit (rd b .srlSerial / 16 ^ (15 - i) % 16)

/-- Key hash k as bytes (SEC_KEYHASH). -/
def keyHash (b : Block) (k : Nat) : Bytes := (List.range 8).flatMap fun w => leBytes (rd b (.secKeyhash k w)) 8

/-- The anti-rollback counter (R411). -/
def arbCount (b : Block) : Nat := fld b .secArb 7 0

/-- The first rule of R409 that the bytes of a slot break. -/
def verifyBytes (b : Block) (get : Nat → Nat → Bytes) : Option FwFault :=
  let h := get 0 headerSize
  if !fwHeaderOk h then some .header
  else
    let k := leAt h 6 1
    let n := (h.drop 0x60).take 512
    let e := (h.drop 0x260).take 4
    if sha512 (n ++ e) != keyHash b k || flag b .secStatus (4 + k) then some .key
    else if sha512 (get headerSize (leAt h 0x14 4)) != (h.drop 0x20).take 64 then some .bodyHash
    else if !pssVerify (beNat n) (beNat e) (h.take 0x400) ((h.drop 0x400).take 512) then some .signature
    else if leAt h 0x10 4 < arbCount b then some .rollback
    else none

/-- The first rule a slot breaks; of an image placed at manufacture only its SVN is in question (log 12). -/
def verifySlot (b : Block) (s : FwSlot) : Option FwFault :=
  if s.factory then (if s.svn < arbCount b then some .rollback else none) else verifyBytes b s.bytes

/-- Why a slot does not boot: an image that is not committed is not valid (R414). -/
def bootable (b : Block) (s : FwSlot) : Option FwFault := if s.committed then verifySlot b s else some .header

/-- The address in Sorrel's SRAM at which an image is entered (R406, R408); of an image placed at manufacture it is open
(log 12). -/
def entryOf (b : Block) (s : FwSlot) : Nat :=
  if s.factory then (Config.freeWord b.freeCtr).toNat % 2 ^ 23 else leNat (s.bytes 0x1C 4)

/-- A byte of Sorrel's SRAM where stage 4 put the image's body (R406): open beyond its LOADLEN bytes, and all of it for an
image placed at manufacture (log 9, log 12). -/
def sorrelByte (b : Block) (o : Nat) : Option Byte :=
  b.power.entered.bind fun x =>
    let s := fwSlot b x.1
    if !s.factory && decide (o < leNat (s.bytes 0x18 4)) then some (s.byte (headerSize + o)) else none

/-- The security version of a slot. -/
def slotSvn (s : FwSlot) : Nat := if s.factory then s.svn else leNat (s.bytes 0x10 4)

/-! ## Sessions (R414) -/

/-- A slot changes. -/
def Act.onSlot (n : Nat) (g : FwSlot → FwSlot) : Act :=
  .power fun p => if n = 0 then { p with slotA := g p.slotA } else { p with slotB := g p.slotB }

/-- The header sector of a slot is erased: the slot is not valid. -/
def Act.eraseHeader (n : Nat) : Act :=
  .onSlot n fun s => { s with factory := false, committed := false, cells := s.cells.filter fun c => decide (headerSize ≤ c.1) }

/-- Bytes are programmed at an offset. -/
def programCells (l : List (Nat × Byte)) (o : Nat) : Bytes → List (Nat × Byte)
  | [] => l
  | x :: r => programCells (smSet l o x 0xFF) (o + 1) r

/-- The module states of the update commands (12_host.md R363). -/
def updateStates : List Nat := [modMinimal, modOperational]

/-- The slot FW_OPEN's operand names: 0xFF is the one that is not active, in MINIMAL the one that is not preferred. -/
def openSlot (b : Block) (n : Nat) : Nat :=
  if n ≤ 1 then n else if modState b = modMinimal then 1 - fld b .pwrBoot 17 17 else 1 - fld b .pwrBoot 16 16

def cmdFwOpen : Cmd :=
  { code := 0x80, target := moduleTarget, func0 := true, mods := updateStates, states := anyPState
    payload := fun p => p.length == 1 && (decide (leAt p 0 1 ≤ 1) || leAt p 0 1 == 0xFF) }

/-- FW_OPEN (R414). -/
def execFwOpen (f m : Nat) (s : State) : Host.Outcome State Fault Refusal :=
  perform (isFunc f && isMbox m) (.command f m cmdFwOpen fun p _ => .read fun b =>
    let n := openSlot b (leAt p 0 1)
    if b.power.session.any fun x => (x.f, x.m) != (f, m) then .respond f m stBusy 0 []
    else if modState b ≠ modMinimal ∧ n = fld b .pwrBoot 16 16 then .respond f m stConflict 6 []
    else Act.all [
      .eraseHeader n,
      .power (fun p => { p with session := some { f := f, m := m, slot := n } }),
      .ok f m (leBytes n 1)]) s

/-- The slot of the session that mailbox m of f holds. -/
def ownSession (b : Block) (f m : Nat) : Option Nat :=
  b.power.session.bind fun x => if x.f = f ∧ x.m = m then some x.slot else none

def cmdFwWrite : Cmd :=
  { code := 0x81, target := moduleTarget, func0 := true, mods := updateStates, states := anyPState
    payload := fun p => p.length == 16 && decide (1 ≤ leAt p 4 4) && decide (leAt p 4 4 ≤ slotSize) }

/-- FW_WRITE: `dma` holds the bytes read from the host bus address (R414). -/
def execFwWrite (f m : Nat) (dma : Bytes) (s : State) : Host.Outcome State Fault Refusal :=
  perform (isFunc f && isMbox m) (.command f m cmdFwWrite fun p _ => .read fun b =>
    let o := leAt p 0 4
    let n := leAt p 4 4
    match ownSession b f m with
    | none => .respond f m stConflict 0 []
    | some k =>
      if slotSize < o + n then .respond f m stBadArg 0 []
      else if !(func b f).bme then .respond f m stDenied 0 []
      else .when (dma.length == n) (Act.all [
        .onSlot k (fun s => { s with cells := programCells s.cells o dma }), .ok f m []])) s

def cmdFwCommit : Cmd :=
  { code := 0x82, target := moduleTarget, func0 := true, mods := updateStates, states := anyPState
    payload := fun p => p.isEmpty }

/-- Status and DETAIL of a commit that fails (R414). -/
def commitStatus (b : Block) : FwFault → Nat × Nat
  | .header => (stIntegrity, 1)
  | .key => (stIntegrity, 2)
  | .bodyHash => (stIntegrity, 3)
  | .signature => (stIntegrity, 4)
  | .rollback => (stDenied, arbCount b)

/-- FW_COMMIT: the slot that passes R409 becomes preferred and c becomes 0 (R414). -/
def execFwCommit (f m : Nat) (s : State) : Host.Outcome State Fault Refusal :=
  perform (isFunc f && isMbox m) (.command f m cmdFwCommit fun _ _ => .read fun b =>
    match ownSession b f m with
    | none => .respond f m stConflict 0 []
    | some k =>
      match verifySlot b (fwSlot b k) with
      | some x => .respond f m (commitStatus b x).1 (commitStatus b x).2 []
      | none => Act.all [
          .setFld .pwrBoot 17 17 k, .setFld .pwrBoot 11 10 0,
          .onSlot k (fun s => { s with committed := true }),
          .power (fun p => { p with session := none }),
          .ok f m []]) s

def cmdFwAbort : Cmd := { cmdFwCommit with code := 0x83 }

/-- FW_ABORT: the session closes and the slot stays not valid (R414). -/
def execFwAbort (f m : Nat) (s : State) : Host.Outcome State Fault Refusal :=
  perform (isFunc f && isMbox m) (.command f m cmdFwAbort fun _ _ => .read fun b =>
    match ownSession b f m with
    | none => .respond f m stConflict 0 []
    | some k => Act.all [.eraseHeader k, .power (fun p => { p with session := none }), .ok f m []]) s

end Sys2Proof.Machine
end

