-- ==== Sys2Proof/Machine/Regions.lean ====
section
/-! DEFINITION. The scratch an entry can touch under its planned maxima, region by region, byte by byte
(05_step_tables.md R128-R133, R140, R141, 07_image_ops.md R187-R190, R195, R198, R201, R204, 08_attention.md R210). -/

namespace Sys2Proof.Machine

/-- Runs of `len` bytes: one for each choice of an index below each dimension's count, its stride in bytes times the
index above the base. -/
structure Region where
  base : Nat
  dims : List (Nat × Nat)
  len : Nat

/-- The region holds no byte. -/
def Region.isEmpty (r : Region) : Bool := r.len == 0 || r.dims.any fun d => d.1 == 0

/-- First bytes of the runs; a stride of 0 repeats one run. -/
def Region.starts (r : Region) : List Nat :=
  r.dims.foldl (fun l d => l.flatMap fun a => (List.range (if d.2 = 0 then 1 else d.1)).map fun i => a + i * d.2) [r.base]

/-- The byte behind the last one. -/
def Region.limit (r : Region) : Nat := (r.dims.foldl (fun n d => n + (d.1 - 1) * d.2) r.base) + r.len

/-- The region lies within scratch (01_module.md R20). -/
def Region.fits (r : Region) : Bool := r.isEmpty || decide (r.limit ≤ 0x140000)

/-- Two runs share a byte. -/
def runsMeet (x n y k : Nat) : Bool := decide (x < y + k) && decide (y < x + n)

/-- Two regions share a byte that both occupy. -/
def Region.meets (r s : Region) : Bool :=
  !r.isEmpty && !s.isEmpty && decide (r.base < s.limit) && decide (s.base < r.limit) &&
    r.starts.any fun x => s.starts.any fun y => runsMeet x r.len y s.len

/-- Some run meets a later one of the list. -/
def startsMeet (n : Nat) : List Nat → Bool
  | [] => false
  | x :: r => r.any (fun y => runsMeet x n y n) || startsMeet n r

/-- Two runs of an output overlap: two rows or two batch iterations (R128). -/
def Region.selfMeets (r : Region) : Bool :=
  !r.isEmpty && (r.dims.any (fun d => decide (1 < d.1) && d.2 == 0) || startsMeet r.len r.starts)

/-- A run of bytes at an optional base. -/
def Region.at? (a : Option Nat) (len : Nat) : List Region :=
  match a with
  | none => []
  | some a => [{ base := a, dims := [], len := len }]

/-- A tensor of rows: granule field, dimensions (count and stride in granules), elements per row; with BLK its exponent
tensor beside it, strides divided by the bytes per block (R132). -/
def tensor (a : Nat) (dims : List (Nat × Nat)) (n : Nat) (d : Desc) (x : Option Nat) : List Region :=
  { base := a * 16, dims := dims.map (fun k => (k.1, k.2 * 16))
    len := ceilDiv (roundUp n (unitElems d.fmt) * fmtBits d.fmt) 8 } ::
    (match x with
     | some x => if d.blk then
         [{ base := x, dims := dims.map (fun k => (k.1, k.2 * 16 / blockBytes d.fmt)), len := ceilDiv n 16 }] else []
     | none => [])

/-- The descriptors of A or X, B or Y, C or Z. -/
def descA (e : BitVec 512) : Desc := Desc.ofByte (ef e 122 115)
def descB (e : BitVec 512) : Desc := Desc.ofByte (ef e 130 123)
def descC (e : BitVec 512) : Desc := Desc.ofByte (ef e 138 131)

/-- Exponent bases of A, B, C (R129), and of X, Y, Z (R140). -/
def xaddrA (e : BitVec 512) : Option Nat := wordAddr (if isVec e then ef e 400 382 else ef e 157 139)
def xaddrB (e : BitVec 512) : Option Nat := wordAddr (if isVec e then ef e 419 401 else ef e 176 158)
def xaddrC (e : BitVec 512) : Option Nat := wordAddr (if isVec e then ef e 438 420 else ef e 195 177)

/-- Output rows go to a ring (R129). -/
def routed (e : BitVec 512) : Bool := hasCommon e && bitOf e.toNat 314

/-! ## Outputs -/

/-- Rows that an index may name: YIMM, an INT32, none where it is negative (R141, R142). -/
def indexRows (e : BitVec 512) : Nat := (signedOf (ef e 307 276) 32).toNat

/-- Z has the element tensor of its rows: how many, and how many elements each (R141). NORM STATS writes no Z; REDUCE
writes one element per row, or one row; DIGEST 8 bytes; SCATTER rows up to YIMM. -/
def vecOutShape (e : BitVec 512) : Nat × Nat :=
  let rows := ef e 156 145
  let cols := 32 * ef e 167 157
  let op := opcodeOf e
  if op = opNorm ∧ subopOf e = 0 then (0, 0)
  else if op = opReduce then (if bitOf e.toNat 380 then (1, cols) else (rows, 1))
  else if op = opGather ∧ subopOf e = 1 then (indexRows e, cols)
  else (rows, cols)

/-- The element tensor of the output, then its exponent tensor. -/
def outTensor (e : BitVec 512) : List Region :=
  if routed e then []
  else if isMat e then
    tensor (ef e 114 98) [(ef e 415 404, ef e 511 496), (ef e 403 392, ef e 463 448), (32 * ef e 322 315, ef e 389 374)]
      (32 * ef e 330 323) (descC e) (xaddrC e)
  else if isCv e then
    tensor (ef e 114 98) [(ef e 479 472, ef e 511 496)]
      (convNc e * (ef e 326 319 * ef e 337 327 * ef e 348 338)) (descC e) (xaddrC e)
  else if opcodeOf e = opResize then
    tensor (ef e 114 98) [] (ef e 376 365 * (16 * ef e 348 340) * (ef e 356 349 * ef e 364 357)) (descC e) (xaddrC e)
  else if opcodeOf e = opDigest then [{ base := ef e 114 98 * 16, dims := [], len := 8 }]
  else if isVec e then
    tensor (ef e 114 98) [(ef e 227 216, ef e 275 260), ((vecOutShape e).1, ef e 215 200)] (vecOutShape e).2
      (descC e) (xaddrC e)
  else []

/-- The slot words: scale-out and amax-out are written, amax-in is read (R129, 02_formats.md R63). -/
def slotWord (e : BitVec 512) (w : Nat) : List Region :=
  if bitOf e.toNat 30 then Region.at? ((srecOf e).map (· + 4 * w)) 4 else []

/-- The output regions of R128. -/
def outRegions (e : BitVec 512) : List Region := outTensor e ++ slotWord e 0 ++ slotWord e 1

/-! ## Inputs -/

/-- Operations that read Y (R141). -/
def readsY (e : BitVec 512) : Bool :=
  let s := subopOf e
  (opcodeOf e == opElemwise && (decide (s ≤ 5) || (decide (8 ≤ s) && decide (s ≤ 0x0D)) || s == 0x11)) ||
    (opcodeOf e == opNorm && s == 3)

/-- Operations that read AUX (R141, 08_attention.md R210). -/
def readsAux (e : BitVec 512) : Bool :=
  opcodeOf e == opNorm || opcodeOf e == opGather || (opcodeOf e == opElemwise && (subopOf e == 3 || subopOf e == 9))

/-- Channels that CONV or POOL reads: each of POOL's output channels, rounded up to 32, pools its own input channel
(07_image_ops.md R198). -/
def inputChans (e : BitVec 512) : Nat := if opcodeOf e = opPool then convNc e else 16 * ef e 387 379

/-- The element tensor of X, or A, and its exponents. -/
def inputA (e : BitVec 512) : List Region :=
  if isMat e then
    let kin := bitOf e.toNat 390
    let m := 32 * ef e 322 315
    let k := 16 * ef e 341 331
    tensor (ef e 80 64)
      [(ef e 415 404, ef e 479 464), (ef e 403 392, ef e 431 416), (if kin then m else k, ef e 357 342)]
      (if kin then k else m) (descA e) (xaddrA e)
  else if isCv e then
    tensor (ef e 80 64) [(ef e 479 472, ef e 495 480)]
      (inputChans e * (ef e 356 349 * ef e 367 357 * ef e 378 368)) (descA e) (xaddrA e)
  else if opcodeOf e = opResize then
    tensor (ef e 80 64) [(ef e 404 393, ef e 392 377)] (16 * ef e 348 340 * (ef e 328 318 * ef e 339 329)) (descA e)
      (xaddrA e)
  else if isVec e then
    let rows := if opcodeOf e = opGather ∧ subopOf e = 0 then indexRows e else ef e 156 145
    tensor (ef e 80 64) [(ef e 227 216, ef e 243 228), (rows, ef e 183 168)] (32 * ef e 167 157) (descA e) (xaddrA e)
  else []

/-- Channels of a stored weight at one tap (07_image_ops.md R189). -/
def weightWidth (e : BitVec 512) : Nat :=
  match groupC e with
  | none => 16 * ef e 387 379
  | some cg => max cg 16

/-- The element tensor of Y, or B, or the box list, and exponents. -/
def inputB (e : BitVec 512) : List Region :=
  if isMat e then
    let kin := bitOf e.toNat 391
    let n := 32 * ef e 330 323
    let k := 16 * ef e 341 331
    tensor (ef e 97 81)
      [(ef e 415 404, ef e 495 480), (ef e 403 392, ef e 447 432), (if kin then n else k, ef e 373 358)]
      (if kin then k else n) (descB e) (xaddrB e)
  else if opcodeOf e = opConv then
    tensor (ef e 97 81) [] (convNc e * (taps e).length * weightWidth e) (descB e) (xaddrB e)
  else if opcodeOf e = opResize then [{ base := ef e 97 81 * 16, dims := [], len := 32 * ef e 376 365 }]
  else if isVec e && readsY e && (granule (ef e 97 81)).isSome then
    let d : Desc := if opcodeOf e = opElemwise ∧ subopOf e = 0x0D then { fmt := 0, blk := false, sat := false } else descB e
    tensor (ef e 97 81) [(ef e 227 216, ef e 259 244), (ef e 156 145, ef e 199 184)] (32 * ef e 167 157) d (xaddrB e)
  else []

/-- The auxiliary tensor of a vector entry (R141, 08_attention.md R210). -/
def inputAux (e : BitVec 512) : List Region :=
  let a := ef e 379 363
  let rows := ef e 156 145
  let cols := 32 * ef e 167 157
  let bat := ef e 227 216
  if !(isVec e && readsAux e) then []
  else if opcodeOf e = opNorm then [{ base := a * 16, dims := [], len := bat * rows * 16 }]
  else if opcodeOf e = opGather then [{ base := a * 16, dims := [], len := rows * 4 }]
  else if subopOf e = 9 then [{ base := a * 16, dims := [], len := bat * rows * cols * 4 }]
  else tensor a [(bat, ef e 275 260), (rows, ef e 215 200)] cols { descC e with blk := false } none

/-- Bias and preload (R129, R133, 07_image_ops.md R184). -/
def inputBias (e : BitVec 512) : List Region :=
  if !onArrays e then [] else
    let (mm, nm, _) := preExt e
    let bats := if isMat e then ef e 403 392 else ef e 479 472
    let all := if isMat e then ef e 403 392 * ef e 415 404 else bats
    Region.at? (granule (ef e 267 251))
      (nm * (if bitOf e.toNat 268 then 2 else 4) * (if bitOf e.toNat 269 then bats else 1)) ++
    (if hasPreload e then
       Region.at? (some (ef e 286 270 * 16)) (all * mm * nm * (if ef e 288 287 = 2 then 8 else 4)) else [])

/-- Every region an entry reads or writes beside its outputs: operands, scale words, amax-in, extension, record. -/
def inRegions (e : BitVec 512) : List Region :=
  inputA e ++ inputB e ++ inputAux e ++ inputBias e ++
  (if isWork e then
     Region.at? (wordAddr (if isVec e then ef e 326 308 else ef e 214 196)) 4 ++
     Region.at? (wordAddr (if isVec e then ef e 345 327 else ef e 233 215)) 4 ++ slotWord e 2 else []) ++
  (if hasCommon e then Region.at? (granule (ef e 313 297)) 32 else []) ++
  (if ef e 63 48 = 0xFFFF then [] else Region.at? (some (ef e 63 48 * 32)) 32)

/-! ## The test (R128) -/

/-- Z is X exactly: the vector unit reads a row before it writes it. -/
def aliasesX (e : BitVec 512) : Bool :=
  isVec e && ef e 114 98 == ef e 80 64 && ef e 215 200 == ef e 183 168 && ef e 275 260 == ef e 243 228

/-- Pairs of an output and an input that may not meet: under the alias exception Z's elements are not held against X's,
nor, at one address, Z's exponents against X's (log 34). -/
def mayAlias (e : BitVec 512) (o i : Nat) : Bool :=
  aliasesX e && ((o == 0 && i == 0) || (o == 1 && i == 1 && (outTensor e).length == 2 && (inputA e).length == 2 &&
    xaddrC e == xaddrA e))

/-- Some output meets an input. -/
def outMeetsIn (e : BitVec 512) : Bool :=
  let os := outRegions e
  let is := inRegions e
  (List.range os.length).any fun o => (List.range is.length).any fun i =>
    match os[o]?, is[i]? with
    | some x, some y => !mayAlias e o i && x.meets y
    | _, _ => false

/-- Two outputs meet. -/
def outsMeet : List Region → Bool
  | [] => false
  | x :: r => r.any x.meets || outsMeet r

/-- The entry passes R128. -/
def regionsOk (e : BitVec 512) : Bool :=
  (outRegions e ++ inRegions e).all Region.fits && !outMeetsIn e && !outsMeet (outRegions e) &&
    (outTensor e).all fun r => !r.selfMeets

end Sys2Proof.Machine
end

