-- ==== Sys2Proof/Machine/Images.lean ====
section
/-! DEFINITION. Schedule images as bytes (09_schedules.md R245-R252, R259): the header, the section table, every section's
layout, and what an image holds. Step 2 of R253 is what these readers refuse. -/

namespace Sys2Proof.Machine

/-! ## Refusals -/

/-- Why an image is refused: the failing step of R253, the status, and the byte offset of the failing element (12_host.md
R358, log 33). -/
structure Rej where
  step : Nat
  status : Nat
  off : Nat
deriving DecidableEq, Repr

/-- A layout failure at an offset: step 2. -/
def layoutRej (off : Nat) : Rej := { step := 2, status := stBadArg, off := off }

/-- An encoding failure at an offset: step 3. -/
def rulesRej (off : Nat) : Rej := { step := 3, status := stBadArg, off := off }

/-- A condition that has to hold. -/
def need (c : Bool) (r : Rej) : Except Rej Unit := if c then .ok () else .error r

/-- Two checks in turn. -/
def andThen {α : Type} (x : Except Rej Unit) (y : Except Rej α) : Except Rej α :=
  match x with
  | .error r => .error r
  | .ok _ => y

/-- A check of every element of a list, the first failure deciding. -/
def eachOk {α : Type} (l : List α) (k : α → Except Rej Unit) : Except Rej Unit :=
  match l with
  | [] => .ok ()
  | x :: r => andThen (k x) (eachOk r k)

/-- Every element of a list read, the first failure deciding. -/
def mapOk {α β : Type} (l : List α) (k : α → Except Rej β) : Except Rej (List β) :=
  match l with
  | [] => .ok []
  | x :: r =>
    match k x, mapOk r k with
    | .error e, _ => .error e
    | .ok _, .error e => .error e
    | .ok y, .ok ys => .ok (y :: ys)

/-! ## Header and section table (R245, R246) -/

/-- Section types (R246). -/
def secStep : Nat := 1
def secDuration : Nat := 2
def secProgram : Nat := 3
def secRing : Nat := 4
def secSlot : Nat := 5
def secShape : Nat := 6
def secScratch : Nat := 7
def secObject : Nat := 8
def secParts : Nat := 9
def secPlace : Nat := 10
def secFlow : Nat := 11
def secEnergy : Nat := 12
def secCache : Nat := 13
def secDomain : Nat := 14
def secLinkPlan : Nat := 15

/-- An entry of the section table and where it stands. -/
structure Sec where
  typ : Nat
  var : Nat
  off : Nat
  len : Nat
  at_ : Nat
deriving DecidableEq

/-- PLACE and FLOW are per variant. -/
def perVariant (t : Nat) : Bool := t == secPlace || t == secFlow

/-- The header's fields lie in their ranges (R245). -/
def headerOk (img : Bytes) : Except Rej Unit :=
  andThen (need (leAt img 0 4 == 0x57534931) (layoutRej 0)) <|
  andThen (need (leAt img 4 2 == 1) (layoutRej 4)) <|
  andThen (need (leAt img 6 1 == 3) (layoutRej 6)) <|
  andThen (need (decide (1 ≤ leAt img 7 1) && decide (leAt img 7 1 ≤ 16)) (layoutRej 7)) <|
  andThen (need (leAt img 0x10 8 == img.length) (layoutRej 0x10)) <|
  andThen (need (decide (1 ≤ leAt img 0x20 4) && decide (leAt img 0x20 4 ≤ 25600)) (layoutRej 0x20)) <|
  andThen (need (decide (1 ≤ leAt img 0x24 1) && decide (leAt img 0x24 1 ≤ 64)) (layoutRej 0x24)) <|
  andThen (need (zeros img 0x25 0x26) (layoutRej 0x25)) <|
  andThen (need (decide (1 ≤ leAt img 0x26 2) && decide (leAt img 0x26 2 ≤ 256)) (layoutRej 0x26)) <|
  need (zeros img 0x2C 0x40) (layoutRej 0x2C)

/-- Entry i of the section table. -/
def secAt (img : Bytes) (i : Nat) : Sec :=
  let a := 0x40 + 16 * i
  { typ := leAt img a 2, var := leAt img (a + 2) 1, off := leAt img (a + 4) 4, len := leAt img (a + 8) 4, at_ := a }

/-- Two sections share a byte, or are the same type for the same variant. -/
def secsClash (s t : Sec) : Bool :=
  runsMeet s.off s.len t.off t.len && s.len != 0 && t.len != 0 || s.typ == t.typ && s.var == t.var

/-- One entry of the table against the header and the entries before it. -/
def secOk (img : Bytes) (nvar nsect : Nat) (before : List Sec) (s : Sec) : Except Rej Unit :=
  andThen (need (decide (1 ≤ s.typ) && decide (s.typ ≤ 15) && zeros img (s.at_ + 3) (s.at_ + 4) &&
    zeros img (s.at_ + 12) (s.at_ + 16)) (layoutRej s.at_)) <|
  andThen (need (if perVariant s.typ then decide (s.var < nvar) else s.var == 0) (layoutRej (s.at_ + 2))) <|
  andThen (need (s.off % 64 == 0 && decide (0x40 + 16 * nsect ≤ s.off) && decide (s.off + s.len ≤ img.length))
    (layoutRej (s.at_ + 4))) <|
  need (!before.any (secsClash s)) (layoutRej s.at_)

/-- The entries in turn. -/
def secsOk (img : Bytes) (nvar nsect : Nat) (before : List Sec) : List Sec → Except Rej Unit
  | [] => .ok ()
  | s :: r => andThen (secOk img nvar nsect before s) (secsOk img nvar nsect (s :: before) r)

/-- The section of a type and variant. -/
def secOf (ss : List Sec) (t v : Nat) : Option Sec := ss.find? fun s => s.typ == t && s.var == v

/-- Required sections stand, and per-variant types stand for every variant (R246). -/
def secsComplete (ss : List Sec) (nvar : Nat) : Bool :=
  [secStep, secDuration, secEnergy].all (fun t => (secOf ss t 0).isSome) &&
  (List.range nvar).all (fun v => (secOf ss secPlace v).isSome) &&
  ((List.range nvar).all (fun v => (secOf ss secFlow v).isSome) || !ss.any fun s => s.typ == secFlow)

/-- The section table, read and checked. -/
def readTable (img : Bytes) : Except Rej (List Sec) :=
  let ss := (List.range (leAt img 0x26 2)).map (secAt img)
  andThen (need (decide (0x40 + 16 * ss.length ≤ img.length)) (layoutRej 0x26)) <|
  andThen (secsOk img (leAt img 7 1) ss.length [] ss) <|
  andThen (need (secsComplete ss (leAt img 7 1)) (layoutRej 0x40)) (.ok ss)

/-! ## Per-core sections (R247) -/

/-- Where a logical core's data stand in a section, from the start of the image, and their count. -/
structure Span where
  off : Nat
  count : Nat

/-- A logical core without data. -/
def Span.none : Span := { off := 0, count := 0 }

/-- Descriptor l of a per-core section whose elements have `size` bytes. -/
def readSpan (img : Bytes) (s : Sec) (n size : Nat) (ok : Nat → Bool) (l : Nat) : Except Rej Span :=
  let a := s.off + 16 + 8 * l
  let o := leAt img a 4
  let k := leAt img (a + 4) 4
  andThen (need (ok k) (layoutRej a)) <|
  andThen (need (o % 64 == 0 && (k == 0 || decide (16 + 8 * n ≤ o) && decide (o + k * size ≤ s.len))) (layoutRej a))
    (.ok { off := s.off + o, count := k })

/-- The descriptors of a per-core section; none where the section is absent. -/
def readSpans (img : Bytes) (s : Option Sec) (n size : Nat) (ok : Nat → Bool) : Except Rej (List Span) :=
  match s with
  | none => .ok (List.replicate n Span.none)
  | some s =>
    andThen (need (decide (16 + 8 * n ≤ s.len) && leAt img s.off 4 == n && zeros img (s.off + 4) (s.off + 16))
      (layoutRej s.off)) (mapOk (List.range n) (readSpan img s n size ok))

/-- Elements of a span. -/
def Span.each {α : Type} (s : Span) (size : Nat) (k : Nat → α) : List α :=
  (List.range s.count).map fun i => k (s.off + i * size)

/-- An instruction ends its program. -/
def isYarrowEnd (i : DWord) : Bool := i.toNat / 2 ^ 58 == 0

/-- The instructions up to the first END, all of them where there is none. -/
def upToEnd : List DWord → List DWord
  | [] => []
  | i :: r => if isYarrowEnd i then [i] else i :: upToEnd r

/-- A program's 32 instruction words at an offset. -/
def progWords (img : Bytes) (a : Nat) : List DWord := (List.range 32).map fun i => BitVec.ofNat 64 (leAt img (a + 8 * i) 8)

/-- Bytes behind a program's END are 0 (R246). -/
def readProg (img : Bytes) (a : Nat) : Except Rej (List DWord) :=
  let ws := progWords img a
  let p := upToEnd ws
  andThen (need ((ws.drop p.length).all (· == 0)) (layoutRej (a + 8 * p.length))) (.ok p)

/-- A ring record: BASE, GEOM, OBJ, 4 bytes of 0. -/
def readRing (img : Bytes) (a : Nat) : Except Rej (Word × Word × Word) :=
  andThen (need (zeros img (a + 12) (a + 16)) (layoutRej a))
    (.ok (BitVec.ofNat 32 (leAt img a 4), BitVec.ofNat 32 (leAt img (a + 4) 4), BitVec.ofNat 32 (leAt img (a + 8) 4)))

/-- A slot record (R246): slot below 64, a positive normal scale, RO fields and padding 0. -/
def readSlot (img : Bytes) (a : Nat) : Except Rej (Nat × Word × Word) :=
  let cfg := leAt img (a + 8) 4
  andThen (need (decide (leAt img a 1 < 64) && zeros img (a + 1) (a + 4) && zeros img (a + 12) (a + 16)) (layoutRej a)) <|
  andThen (need (isPosNormal (leAt img (a + 4) 4)) (layoutRej (a + 4))) <|
  andThen (need (decide (cfg < 128) && bitsOf cfg 4 3 == 0) (layoutRej (a + 8)))
    (.ok (leAt img a 1, BitVec.ofNat 32 (leAt img (a + 4) 4), BitVec.ofNat 32 cfg))

/-- Scratch runs (R246): granule address, length in granules, the data, padded to 64 bytes. `stop` is the section's
end. -/
def readRuns (img : Bytes) (stop : Nat) : Nat → Nat → Except Rej (List (Nat × Bytes))
  | 0, _ => .ok []
  | n + 1, a =>
    let g := leAt img a 4
    let k := leAt img (a + 4) 4
    let next := a + roundUp (8 + 16 * k) 64
    if a + 8 + 16 * k ≤ stop ∧ g + k ≤ 0x14000 then
      match readRuns img stop n next with
      | .error e => .error e
      | .ok r => .ok ((g * 16, (img.drop (a + 8)).take (16 * k)) :: r)
    else .error (layoutRej a)

/-! ## Planned durations (R247, 04_core.md R110, R111, R120, R122, 07_image_ops.md R196, R200, 08_attention.md R215) -/

/-- Drain cycles of a tile (04_core.md R108). -/
def drainCycles (e : BitVec 512) : Nat :=
  let d := descC e
  match d.fmt with
  | 8 => 128
  | 0 => 64
  | 1 | 2 => 32
  | 3 | 4 => if d.blk then 17 else 16
  | 7 => 9
  | _ => 13

/-- Preload cycles of a tile. -/
def preloadCycles (e : BitVec 512) : Nat := match ef e 288 287 with
  | 1 => 64
  | 2 => 128
  | _ => 0

/-- Accumulation cycles of a tile of the planned K (04_core.md R100, 07_image_ops.md R196). -/
def plannedAcc (e : BitVec 512) : Nat :=
  let k := if isMat e then 16 * ef e 341 331 else (taps e).length * convKc e
  let g := gOf e
  if opcodeOf e = opConv ∧ ef e 316 315 = 2 then 4 * k
  else match ef e 10 8 with
    | 1 => 2 * k / g
    | 2 => 6 * k
    | 4 => k / min g 2
    | _ => k / g

/-- Cycles of an array entry's planned maxima with no bank wait: the first tile, then one every T. -/
def arrayCycles (e : BitVec 512) : Nat :=
  let nt := if isMat e then ef e 330 323 else convNc e / 32
  let mt := if isMat e then ef e 322 315 else ceilDiv (ef e 326 319 * ef e 337 327 * ef e 348 338) 32
  let bat := if isMat e then ef e 403 392 * ef e 415 404 else ef e 479 472
  let both := arraysOf e == 3 && decide (2 ≤ nt)
  let tiles := bat * mt * (if both then ceilDiv nt 2 else nt)
  let w := drainCycles e
  let p := preloadCycles e
  let t := max (max (plannedAcc e) 32) (if both then 2 * (w + p) else w + p)
  max 32 p + plannedAcc e + 12 + max 32 w + (tiles - 1) * t

/-- Cycles of a SUBOP of ELEMWISE per 32 elements (04_core.md R118). -/
def elemCycles (s : Nat) : Nat :=
  if s ≤ 0x0D then 1 else if s ≤ 0x10 then 4 else if s = 0x11 then 8 else if s ≤ 0x15 then 4 else 8

/-- Bytes of all runs of some regions, repeated runs counted again. -/
def regionBytes (rs : List Region) : Nat := (rs.map fun r => r.dims.foldl (fun n d => n * d.1) r.len).foldl (· + ·) 0

/-- Cycles of a vector entry's planned maxima. -/
def vectorCycles (e : BitVec 512) : Nat :=
  let rows := ef e 156 145 * ef e 227 216
  let groups := rows * ef e 167 157
  let bytes := regionBytes (inputA e ++ (if opcodeOf e = opElemwise then inputB e else []) ++ inputAux e ++ outTensor e)
  let ports := ceilDiv bytes 192
  if opcodeOf e = opNorm then
    match subopOf e with
    | 0 => 5 * groups + (if bitOf e.toNat 276 then 22 else 10) * rows
    | 1 => 8 * groups
    | 2 => 13 * groups + 10 * rows
    | _ => 9 * groups
  else if opcodeOf e = opReduce then
    max (groups + 5 * (if bitOf e.toNat 380 then ef e 227 216 * (32 * ef e 167 157) else rows)) ports
  else if opcodeOf e = opDigest then max (ceilDiv (regionBytes (inputA e)) 64) ports
  else if opcodeOf e = opElemwise then max (elemCycles (subopOf e) * groups) ports
  else max groups ports

/-- The least planned duration of an entry; a control entry's is 0. -/
def leastDuration (e : BitVec 512) : Nat :=
  if onArrays e then arrayCycles e
  else if opcodeOf e = opPool then
    ef e 479 472 * (ef e 326 319 * ef e 337 327 * ef e 348 338) * (convNc e / 32) * (taps e).length
  else if opcodeOf e = opResize then
    ef e 376 365 * (ef e 356 349 * ef e 364 357) * ceilDiv (ef e 348 340) 2 * (if bitOf e.toNat 317 then 4 else 1)
  else if isVec e then vectorCycles e
  else 0

/-- A duration word against its entry. -/
def durationOk (e : BitVec 512) (d : Nat) : Bool := if isWork e then decide (leastDuration e ≤ d) else d == 0

/-! ## Logical cores -/

/-- Where the parts of a logical core stand. -/
structure LSpans where
  steps : Span
  durs : Span
  progs : Span
  rings : Span
  slots : Span
  shapes : Span
  runs : Span

/-- The spans of every logical core. -/
def readLSpans (img : Bytes) (ss : List Sec) (n : Nat) : Except Rej (List LSpans) := do
  let any : Nat → Bool := fun _ => true
  let st ← readSpans img (secOf ss secStep 0) n 64 (fun k => decide (1 ≤ k))
  let du ← readSpans img (secOf ss secDuration 0) n 4 any
  let pr ← readSpans img (secOf ss secProgram 0) n 256 (fun k => decide (k ≤ 64))
  let ri ← readSpans img (secOf ss secRing 0) n 16 (fun k => k == 0 || k == 16)
  let sl ← readSpans img (secOf ss secSlot 0) n 16 any
  let sh ← readSpans img (secOf ss secShape 0) n 32 (fun k => k == 0 || k == 15)
  let sc ← readSpans img (secOf ss secScratch 0) n 8 any
  .ok ((List.range n).map fun l =>
    let g (x : List Span) : Span := (x[l]?).getD Span.none
    { steps := g st, durs := g du, progs := g pr, rings := g ri, slots := g sl, shapes := g sh, runs := g sc })

/-- One logical core's data (R246, R247). -/
def readLCore (img : Bytes) (ss : List Sec) (x : LSpans) : Except Rej LCore := do
  let steps := x.steps.each 64 fun a => BitVec.ofNat 512 (leAt img a 64)
  let durs := x.durs.each 4 fun a => leAt img a 4
  andThen (need (x.durs.count == x.steps.count) (layoutRej x.durs.off)) (.ok ())
  let progs ← mapOk (x.progs.each 256 id) (readProg img)
  let rings ← mapOk (x.rings.each 16 id) (readRing img)
  let slots ← mapOk (x.slots.each 16 id) (readSlot img)
  andThen (need (allDistinct (slots.map (·.1))) (layoutRej x.slots.off)) (.ok ())
  let runs ← readRuns img (match secOf ss secScratch 0 with | some s => s.off + s.len | none => 0) x.runs.count x.runs.off
  .ok { steps := steps, durs := durs, progs := progs, rings := rings, slots := slots,
        shapes := (x.shapes.each 32 fun a => (List.range 8).map fun w => BitVec.ofNat 32 (leAt img (a + 4 * w) 4)).flatten,
        scratch := runs }

/-! ## Record sections -/

/-- The records of a section of fixed-size records; none where it is absent. -/
def readRecords {α : Type} (s : Option Sec) (size : Nat) (k : Nat → Except Rej α) : Except Rej (List α) :=
  match s with
  | none => .ok []
  | some s =>
    andThen (need (s.len % size == 0) (layoutRej s.at_)) (mapOk (List.range (s.len / size)) fun i => k (s.off + i * size))

/-- An object record (R250). -/
def readObj (img : Bytes) (a : Nat) : Except Rej ObjRec :=
  let typ := leAt img (a + 2) 1
  let flags := leAt img (a + 3) 1
  let bar := typ == 2
  let p := leAt img (a + 8) 2
  let rem := leAt img (a + 10) 2
  let home := leAt img (a + 12) 4
  andThen (need (decide (leAt img a 2 < 2 ^ 15) && (typ == 1 || bar)) (layoutRej a)) <|
  andThen (need (flags == 0 || flags == 1 && bar) (layoutRej (a + 3))) <|
  andThen (need (decide (1 ≤ leAt img (a + 4) 2)) (layoutRej (a + 4))) <|
  andThen (need (!bar || leAt img (a + 6) 2 == 0) (layoutRej (a + 6))) <|
  andThen (need (if bar then decide (1 ≤ p) && decide (p ≤ 25600) else p == 0) (layoutRej (a + 8))) <|
  andThen (need (if bar then decide (rem ≤ p) else rem == 0) (layoutRej (a + 10))) <|
  andThen (need (if flags = 1 then decide (home < 2 ^ 19) else home == 0) (layoutRej (a + 12)))
    (.ok { obj := leAt img a 2, typ := typ, proxy := flags == 1, bound := leAt img (a + 4) 2,
           init := leAt img (a + 6) 2, p := p, remote := rem, homePort := home % 16, homeObj := home / 16 })

/-- A participant record (R251). -/
def readPart (img : Bytes) (n a : Nat) : Except Rej (Nat × Nat × Nat) :=
  andThen (need (decide (leAt img (a + 2) 1 ≤ 4) && zeros img (a + 3) (a + 4) && decide (leAt img (a + 4) 4 < n))
    (layoutRej a)) (.ok (leAt img a 2, leAt img (a + 2) 1, leAt img (a + 4) 4))

/-- Every barrier has exactly P − REMOTE participants, all different, and only barriers have them (R251). -/
def partsOk (objs : List ObjRec) (ps : List (Nat × Nat × Nat)) : Bool :=
  allDistinct ps && ps.all (fun x => objs.any fun o => o.obj == x.1 && o.typ == 2) &&
    objs.all fun o => o.typ != 2 || (ps.filter fun x => x.1 == o.obj).length + o.remote == o.p

/-- A placement (R248): relative cores below 400 × PLOTS, no two alike. -/
def readPlace (img : Bytes) (ss : List Sec) (n plots v : Nat) : Except Rej (List Nat) :=
  match secOf ss secPlace v with
  | none => .error (layoutRej 0x40)
  | some s =>
    let qs := (List.range n).map fun l => leAt img (s.off + 2 * l) 2
    andThen (need (s.len == 2 * n) (layoutRej s.at_)) <|
    andThen (eachOk (indexed qs) fun q => need (decide (q.2 < 400 * plots)) (layoutRej (s.off + 2 * q.1))) <|
    andThen (need (allDistinct qs) (layoutRej s.off)) (.ok qs)

/-- An end of a flow record: the logical core, and the other bits its kind allows (R249). -/
def flowWordOk (n kind w : Nat) : Bool :=
  decide (w % 2 ^ 15 < n) && bitsOf w 15 15 == 0 &&
    match kind with
    | 0 => w / 2 ^ 16 == 0
    | 1 => w / 2 ^ 17 == 0
    | _ => w / 2 ^ 19 == 0

/-- A flow record (R249). -/
def readFlow (img : Bytes) (n a : Nat) : Except Rej Flow :=
  let sk := leAt img (a + 2) 1
  let dk := leAt img (a + 3) 1
  andThen (need (decide (leAt img a 2 ≤ 4094) && decide (sk ≤ 2) && decide (dk ≤ 2) && zeros img (a + 12) (a + 16))
    (layoutRej a)) <|
  andThen (need (flowWordOk n sk (leAt img (a + 4) 4)) (layoutRej (a + 4))) <|
  andThen (need (flowWordOk n dk (leAt img (a + 8) 4)) (layoutRej (a + 8)))
    (.ok { id := leAt img a 2, srcKind := sk, dstKind := dk, src := leAt img (a + 4) 4, dst := leAt img (a + 8) 4,
           phases := BitVec.ofNat 256 (leAt img (a + 16) 32) })

/-- The flows of a variant, each number once. -/
def readFlows (img : Bytes) (ss : List Sec) (n v : Nat) : Except Rej (List Flow) := do
  let fs ← readRecords (secOf ss secFlow v) 48 (readFlow img n)
  andThen (need (allDistinct (fs.map (·.id))) (layoutRej (((secOf ss secFlow v).map (·.off)).getD 0))) (.ok fs)

/-- The energy profile (R259): enough windows, and PEAK the largest word. -/
def readEnergy (img : Bytes) (ss : List Sec) (planBeats : Nat) : Except Rej (Nat × List Nat) :=
  match secOf ss secEnergy 0 with
  | none => .error (layoutRej 0x40)
  | some s =>
    let n := leAt img s.off 4
    let peak := leAt img (s.off + 8) 4
    andThen (need (s.len == 16 + 4 * n && zeros img (s.off + 4) (s.off + 8) && zeros img (s.off + 12) (s.off + 16))
      (layoutRej s.off)) <|
    let ws := (List.range n).map fun w => leAt img (s.off + 16 + 4 * w) 4
    andThen (need (decide (ceilDiv planBeats 64 ≤ n)) (layoutRej s.off)) <|
    andThen (need (peak == ws.foldl max 0) (layoutRej (s.off + 8))) (.ok (peak, ws))

/-- The cache geometry's bytes (R252). -/
def readCache (img : Bytes) (ss : List Sec) : Except Rej (Option Geometry) :=
  match secOf ss secCache 0 with
  | none => .ok none
  | some s =>
    let g (o n : Nat) : Nat := leAt img (s.off + o) n
    let l := g 0 1
    andThen (need (s.len == 68 + 8 * l) (layoutRej s.at_)) <|
    andThen (need (zeros img (s.off + 5) (s.off + 8) && zeros img (s.off + 18) (s.off + 20) &&
      zeros img (s.off + 26) (s.off + 28) && zeros img (s.off + 66) (s.off + 68)) (layoutRej s.off))
    (.ok (some { l := l, h := g 1 1, d := g 2 2, efmt := g 4 1, re := g 8 4, rx := g 12 4, pmax := g 16 2, tmax := g 20 4,
                 nseq := g 24 2, seqBase := g 28 8, seqStride := g 36 8, seed := BitVec.ofNat 64 (g 44 8), qva := g 52 8,
                 qlen := g 60 2, req := g 62 2, rsp := g 64 2,
                 sscale := (List.range (2 * l)).map fun i => BitVec.ofNat 32 (g (68 + 4 * i) 4) }))

end Sys2Proof.Machine
end

