-- ==== Sys2Proof/Machine/Streams.lean ====
section
/-! DEFINITION. Yarrow stream programs: contexts, address registers, instructions and MOVEs (06_streams.md R175-R182).
An instruction that its context is not ready to issue changes nothing (log 3). -/

namespace Sys2Proof.Machine

/-! ## Instruction fields (R178) -/

def yf (i : DWord) (hi lo : Nat) : Nat := bitsOf i.toNat hi lo
def yOp (i : DWord) : Nat := yf i 63 58

def yEnd : Nat := 0
def ySetb : Nat := 1
def ySets : Nat := 2
def yLoop : Nat := 3
def yEndl : Nat := 4
def yMove : Nat := 5
def yRel : Nat := 6
def yWait : Nat := 7
def ySignal : Nat := 8
def yArrive : Nat := 9
def yFence : Nat := 10

/-- No flow (R178). -/
def noFlow : Nat := 0xFFF

/-- A MOVE within its core: it holds its context until its last granule is written (R179). -/
def Move.isLocal (m : Move) : Bool :=
  m.flow == noFlow

/-- Every flit of the MOVE has left its source. -/
def Move.left (m : Move) : Bool := decide (m.data.length ≤ 64 * m.done)

/-- The MOVE goes to the transmit queue of a port. -/
def Move.isLink (m : Move) : Bool :=
  match m.dst with
  | .link _ _ => true
  | _ => false

/-- The MOVE has not retired: it retires when its last flit has left its source or, within the core, when its last
granule is written (R179). A flit leaves and arrives in one step (log 42). -/
def Move.unretired (m : Move) : Bool := m.isLocal || !m.left

/-- The context has MOVEs in flight. -/
def ctxMoves (s : CoreState) (x : Nat) : List Move := s.moves.filter fun m => m.ctx == x

/-- The instruction a context may issue now, when it has the opcode: the partition runs, the context is active, held by
nothing, and its latest MOVE has retired (R179). -/
def readyCtx (b : Block) (c x op : Nat) : Option (Nat × DWord) :=
  match ownerOfCore b c with
  | none => none
  | some f =>
    if agentMayGo b f && ctxActive b c x && !ctxWaiting b c x && !(ctxMoves (core b c) x).any Move.unretired then
      match instrAt b c x with
      | some i => if yOp i = op then some (f, i) else none
      | none => none
    else none

/-- The context goes to its next instruction. -/
def Act.nextPc (c x : Nat) : Act := .read fun b => .setCtxPc c x (ctxPc b c x + 1)

/-- An address register changes. A SETB whose sum exceeds the 50 bits of the base wraps: R178 does not say what becomes
of the carry (log 42). -/
def Act.setAr (c x a kind base : Nat) : Act :=
  .onCtx c x fun s => { s with kind := putAt s.kind 0 a kind, base := putAt s.base 0 a (base % 2 ^ 50) }

/-! ## Address registers (R177) -/

/-- Σ LC_l × stride over the active loops. -/
def strideSum (s : CtxState) (a : Nat) : Int :=
  (List.range 8).foldl (fun n l =>
    if (s.active[l]?).getD false then n + (natAt s.lc l : Int) * ((((s.stride[a]?).getD [])[l]?).getD 0) else n) 0

/-- The affine value of AR a. -/
def arValue (s : CtxState) (a : Nat) : Int := (natAt s.base a : Int) + strideSum s a

/-- An operand of a MOVE. -/
inductive Place where
  /-- core and byte offset in its scratch -/
  | scr (core off : Nat)
  | virt (v : Int)
  | link (port channel : Nat)
  | ring (core ring off : Nat)

/-- The core of a scratch or ring operand. -/
def Place.core? : Place → Option Nat
  | .scr c _ => some c
  | .ring c _ _ => some c
  | _ => none

def Place.isVirt : Place → Bool
  | .virt _ => true
  | _ => false

/-- The core is in the partition (01_module.md R33). -/
def ownsCore (b : Block) (f c : Nat) : Bool := isCore c && ownerOfCore b c == some f

/-- What AR a names for n bytes; none where its value breaks its kind's rule (R177, R180, 01_module.md R33). -/
def placeOf (b : Block) (f c x a n : Nat) : Option Place :=
  let s := ctxOf (core b c) x
  let v := arValue s a
  let base := natAt s.base a
  match natAt s.kind a with
  | 0 =>
    if v < 0 ∨ v % 16 ≠ 0 then none
    else
      let t := v.toNat / 0x200000
      let o := v.toNat % 0x200000
      if ownsCore b f t && decide (o + n ≤ 0x140000) then some (.scr t o) else none
  | 1 => if v % 16 ≠ 0 then none else some (.virt v)
  | 2 =>
    let p := bitsOf base 49 46
    if base % 2 ^ 34 = 0 ∧ (((s.stride[a]?).getD []).all (· == 0)) ∧ fld b (.lnkCfg p) 31 30 = 1 ∧
        (part b f).ports.getLsbD p then some (.link p (bitsOf base 45 34)) else none
  | _ =>
    let t := bitsOf base 49 35
    let r := bitsOf base 34 31
    let o := (base % 2 ^ 31 : Nat) + strideSum s a
    if o < 0 ∨ o % 16 ≠ 0 then none
    else
      let slots := fld b (.strRingGeom t r) 12 8
      let size := (fld b (.strRingGeom t r) 23 16 + 1) * 256
      if ownsCore b f t && decide (slots ≠ 0) && decide (o.toNat + n ≤ size) then some (.ring t r o.toNat) else none

/-- The pair is legal, and whether it needs a flow (R180): none is an address fault. -/
def pairFlow (c : Nat) (src dst : Place) : Option Bool :=
  match src, dst with
  | .scr s _, .scr d _ => if s = c ∧ d = c then some false else if s = c ∨ d = c then some true else none
  | .scr s _, .virt _ => if s = c then some true else none
  | .ring s _ _, .virt _ => if s = c then some true else none
  | .virt _, .scr d _ => if d = c then some true else none
  | .virt _, .ring d _ _ => if d = c then some true else none
  | .scr s _, .ring d _ _ => if s ≠ c then none else some (d != c)
  | .ring s _ _, .ring d _ _ => if s ≠ c then none else some (d != c)
  | .scr s _, .link _ _ => if s = c then some true else none
  | .ring s _ _, .link _ _ => if s = c then some true else none
  | _, _ => none

/-- The flow record a MOVE names. -/
def flowRec (b : Block) (f n : Nat) : Option Flow :=
  match (part b f).image with
  | none => none
  | some im => ((im.flows[(part b f).variant]?).getD []).find? fun r => r.id == n

/-- The controller of a flow with a kind-2 end (09_schedules.md R249). -/
def flowCtl (b : Block) (f n : Nat) : Option Nat :=
  match (part b f).image, flowRec b f n with
  | some im, some r =>
    ((flowEnds im (part b f).variant (plotList (part b f).plots) r).map endCtls).bind fun l => l.head?
  | _, _ => none

/-- What is wrong with a MOVE. -/
inductive MoveFault where
  /-- R181 -/
  | address (v : Int)
  /-- 13_memory.md R382: the faulting value, the pages used before the fault, and the walk that found none -/
  | xlt (v : Int) (x : XltFault) (write : Bool) (used : List Mapping) (more : List (Nat × Nat))

/-- A checked MOVE: its source where it lies in scratch, the bytes it carries, where they go, the core whose queue receives
its flits, the pages used, and the LPDDR5X segments it reads. -/
structure Checked where
  src : Option (Nat × Nat)
  data : Bytes
  dst : MoveDst
  dstCore : Nat
  used : List Mapping
  reads : List (Nat × Nat)

/-- The bytes and segments of one side (R180): a translated side needs a flow whose controller serves every frame. -/
def checkVirt (b : Block) (f fl : Nat) (write : Bool) (v : Int) (n : Nat) :
    Except MoveFault (List (Nat × Nat) × List Mapping) :=
  match flowCtl b f fl with
  | none => .error (.address v)
  | some k =>
    match translate b f write v n with
    | .fault x used va => .error (.xlt v x write used (x.walked va))
    | .ok segs used => if segs.all fun s => ctlOf s.1 == k then .ok (segs, used) else .error (.address v)

/-- Core and offset of a scratch or ring source: a ring source is slot HEAD mod S (R180). -/
def sourceAt (b : Block) (p : Place) : Option (Nat × Nat) :=
  match p with
  | .scr c o => some (c, o)
  | .ring c r o => some (c, slotAt b c r (ringHead b c r) + o)
  | _ => none

/-- The bytes of a scratch or ring source. -/
def sourceBytes (b : Block) (p : Place) (n : Nat) : Bytes :=
  match sourceAt b p with
  | some x => scr b x.1 x.2 n
  | none => []

/-- The flits that carry bytes of an uncorrectable block, of those read from device-address segments on from byte o: every
word of such a block comes with its parity inverted (13_memory.md R374). -/
def spoiltFlits (b : Block) : List (Nat × Nat) → Nat → List Nat
  | [], _ => []
  | s :: r, o =>
    ((List.range (ceilDiv (o % 64 + s.2) 64)).map (o / 64 + ·)).filter (fun k =>
      !(badIn b [(s.1 + (64 * k - o), min (64 * k + 64) (o + s.2) - max (64 * k) o)]).isEmpty) ++ spoiltFlits b r (o + s.2)

/-- All checks of a MOVE before it moves a byte (R180, R181, 13_memory.md R382). A MOVE without translation may name any
flow of the image's table: no rule compares its own ends with the flow's (log 42). -/
def checkMove (b : Block) (f c x : Nat) (i : DWord) : Except MoveFault Checked :=
  let n := yf i 15 0 * 16
  let s := ctxOf (core b c) x
  let sv := arValue s (yf i 54 52)
  let dv := arValue s (yf i 57 55)
  let fl := yf i 50 39
  match placeOf b f c x (yf i 54 52) n with
  | none => .error (.address sv)
  | some src =>
    match placeOf b f c x (yf i 57 55) n with
    | none => .error (.address dv)
    | some dst =>
      match pairFlow c src dst with
      | none => .error (.address dv)
      | some need =>
        if need != (fl != noFlow) || (need && (flowRec b f fl).isNone) then .error (.address dv)
        else
          let read : Except MoveFault (Bytes × List Mapping × List (Nat × Nat)) :=
            match src with
            | .virt v => (checkVirt b f fl false v n).map fun r => (segBytes b r.1, r.2, r.1)
            | p => .ok (sourceBytes b p n, [], [])
          match read with
          | .error e => .error e
          | .ok (data, used, reads) =>
            match dst with
            | .virt v => (checkVirt b f fl true v n).map fun r =>
                { src := sourceAt b src, data := data, dst := .virt r.1, dstCore := c, used := used ++ r.2, reads := reads }
            | .scr t o => .ok { src := sourceAt b src, data := data, dst := .scratch (scratchAt t o), dstCore := t, used := used, reads := reads }
            | .ring t r o => .ok { src := sourceAt b src, data := data, dst := .ring t r o, dstCore := t, used := used, reads := reads }
            | .link p ch => .ok { src := sourceAt b src, data := data, dst := .link p ch, dstCore := c, used := used, reads := reads }

/-! ## Instructions -/

/-- END frees the context (R178), and the run may be over. -/
def Act.ctxEnd (c f x : Nat) : Act := Act.all [.freeCtx c x, .checkRunEnd f]

/-- The context is held until a home releases it. -/
def Act.holdCtx (c x : Nat) : Act :=
  Act.all [.onCtx c x (fun t => { t with waiting := true }), .setCtxWaiting c x true]

/-- A SIGNAL, REL, ARRIVE, FENCE or END once the context's MOVEs have completed: signals and arrivals follow every write
that the agent issued before (R163, R178, R179). -/
def Act.afterMoves (c f x : Nat) (i : DWord) : Act :=
  if yOp i = yEnd then .ctxEnd c f x
  else if yOp i = ySignal then
    .read fun b =>
      if (liveObj b f (yf i 46 32)).isNone then .addrFault (.ctx c x) (yf i 46 32)
      else Act.all [.signal (.ctx c x) c f (yf i 46 32) (yf i 15 0), .nextPc c x]
  else if yOp i = yRel then
    .read fun b =>
      let r := yf i 3 0
      if ringSlots b c r = 0 ∨ (liveObj b f (ringFree b c r)).isNone then .addrFault (.ctx c x) r
      else Act.all [.signal (.ctx c x) c f (ringFree b c r) 1, .nextPc c x]
  else if yOp i = yArrive then
    .read fun b =>
      if (liveObj b f (yf i 46 32)).isNone then .addrFault (.ctx c x) (yf i 46 32)
      else Act.all [.holdCtx c x, .issueArrival (.ctx c x) f (yf i 46 32)]
  else .nextPc c x

/-- An instruction that waits for the context's MOVEs: at once where none is in flight. -/
def Act.orWait (c f x : Nat) (i : DWord) : Act :=
  .read fun b => if (ctxMoves (Machine.core b c) x).isEmpty then .afterMoves c f x i else .setCtxWaiting c x true

/-- Yarrow END (R178). -/
def execYarrowEnd (c x : Nat) (s : State) : Host.Outcome State Fault Refusal :=
  perform (isCore c && isCtx x) (.read fun b => .opt (readyCtx b c x yEnd) fun (f, i) => .orWait c f x i) s

/-- Yarrow SETB: base_A = IMM, plus ARG × 16 with USEARG; kind_A = KIND (R178). -/
def execYarrowSetb (c x : Nat) (s : State) : Host.Outcome State Fault Refusal :=
  perform (isCore c && isCtx x) (.read fun b => .opt (readyCtx b c x ySetb) fun (_, i) =>
    let arg := if yf i 50 50 = 1 then (((ctxOf (core b c) x).args[yf i 52 51]?).getD 0).toNat * 16 else 0
    Act.all [.setAr c x (yf i 57 55) (yf i 54 53) (yf i 49 0 + arg), .nextPc c x]) s

/-- Yarrow SETS: stride_(A,L) = STRIDE, signed (R178). -/
def execYarrowSets (c x : Nat) (s : State) : Host.Outcome State Fault Refusal :=
  perform (isCore c && isCtx x) (.read fun b => .opt (readyCtx b c x ySets) fun (_, i) => Act.all [
    .onCtx c x (fun t => { t with
      stride := putAt t.stride [] (yf i 57 55)
        (putAt ((t.stride[yf i 57 55]?).getD []) 0 (yf i 54 52) (signedOf (yf i 31 0) 32)) }),
    .nextPc c x]) s

/-- Yarrow LOOP: LC_L = 0 and its limit; a limit of 0 goes on behind the range (R178). -/
def execYarrowLoop (c x : Nat) (s : State) : Host.Outcome State Fault Refusal :=
  perform (isCore c && isCtx x) (.read fun b => .opt (readyCtx b c x yLoop) fun (_, i) =>
    let l := yf i 54 52
    let n := if yf i 18 18 = 1 then (((ctxOf (core b c) x).args[yf i 17 16]?).getD 0).toNat % 65536 else yf i 15 0
    Act.all [
      .onCtx c x (fun t => { t with lc := putAt t.lc 0 l 0, lim := putAt t.lim 0 l n, active := putAt t.active false l (n != 0) }),
      if n = 0 then .setCtxPc c x (yf i 28 24 + 1) else .nextPc c x]) s

/-- Yarrow ENDL: the next repetition, or the loop is over and LC_L is 0 (R178). -/
def execYarrowEndl (c x : Nat) (s : State) : Host.Outcome State Fault Refusal :=
  perform (isCore c && isCtx x) (.read fun b => .opt (readyCtx b c x yEndl) fun (_, i) =>
    let l := yf i 54 52
    let t := ctxOf (core b c) x
    let n := natAt t.lc l + 1
    if n < natAt t.lim l then Act.all [.onCtx c x (fun t => { t with lc := putAt t.lc 0 l n }), .setCtxPc c x (yf i 28 24)]
    else Act.all [.onCtx c x (fun t => { t with lc := putAt t.lc 0 l 0, active := putAt t.active false l false }), .nextPc c x])
    s

/-- Yarrow MOVE: checked and translated in full, then in flight; or the address or translation fault of the context
(R180, R181, 13_memory.md R382). -/
def execYarrowMove (c x : Nat) (s : State) : Host.Outcome State Fault Refusal :=
  perform (isCore c && isCtx x) (.read fun b => .opt (readyCtx b c x yMove) fun (f, i) =>
    match checkMove b f c x i with
    | .error (.address v) => .addrFault (.ctx c x) (codeOf v 64)
    | .error (.xlt v t w used more) => Act.all [
        .useTlb c f used more,
        .xltFault f v t w (lcoreOf b f c),
        .agentFault (.ctx c x) 4 0x22 (codeOf v 64 * 65536)]
    | .ok k =>
      let m : Move := { ctx := x, pc := ctxPc b c x, flow := yf i 50 39, dst := k.dst, dstCore := k.dstCore,
                        data := k.data, done := 0, pub := yf i 51 51 == 1, beat := beat b
                        pages := k.used.map fun m => (m.va, m.size), src := k.src, spoilt := spoiltFlits b k.reads 0 }
      Act.all [
        .useTlb c f k.used,
        .onCore c (fun t => { t with moves := t.moves ++ [m] }),
        .readBad (some f) 0 k.reads]) s

/-- Yarrow REL (R178). -/
def execYarrowRel (c x : Nat) (s : State) : Host.Outcome State Fault Refusal :=
  perform (isCore c && isCtx x) (.read fun b => .opt (readyCtx b c x yRel) fun (f, i) => .orWait c f x i) s

/-- Yarrow WAIT (R178, R158). -/
def execYarrowWait (c x : Nat) (s : State) : Host.Outcome State Fault Refusal :=
  perform (isCore c && isCtx x) (.read fun b => .opt (readyCtx b c x yWait) fun (f, i) =>
    if (liveObj b f (yf i 46 32)).isNone then .addrFault (.ctx c x) (yf i 46 32)
    else Act.all [.holdCtx c x, .issueWait (.ctx c x) f (yf i 46 32) (yf i 15 0)]) s

/-- Yarrow SIGNAL (R178). -/
def execYarrowSignal (c x : Nat) (s : State) : Host.Outcome State Fault Refusal :=
  perform (isCore c && isCtx x) (.read fun b => .opt (readyCtx b c x ySignal) fun (f, i) => .orWait c f x i) s

/-- Yarrow ARRIVE (R178, R160, R163). -/
def execYarrowArrive (c x : Nat) (s : State) : Host.Outcome State Fault Refusal :=
  perform (isCore c && isCtx x) (.read fun b => .opt (readyCtx b c x yArrive) fun (f, i) => .orWait c f x i) s

/-- Yarrow FENCE (R178). -/
def execYarrowFence (c x : Nat) (s : State) : Host.Outcome State Fault Refusal :=
  perform (isCore c && isCtx x) (.read fun b => .opt (readyCtx b c x yFence) fun (f, i) => .orWait c f x i) s

/-! ## MOVEs in flight (R175, R179) -/

/-- The device address that byte o of MOVE i of core c goes to, for a MOVE into scratch or a ring: a ring destination is
slot TAIL mod S as TAIL stands once the context's earlier MOVEs are complete (R171, R179, R180). -/
def moveAddr (b : Block) (c i : Nat) (m : Move) (o : Nat) : Option Nat :=
  match m.dst with
  | .scratch a => some (a + o)
  | .ring t r off => some (scratchAt t (slotAt b t r (ringTail b t r + earlierPubs b c i m t r) + off) + o)
  | _ => none

/-- n bytes of device-address segments from byte o of them on. -/
def cutSegs : List (Nat × Nat) → Nat → Nat → List (Nat × Nat)
  | [], _, _ => []
  | s :: r, o, n =>
    if s.2 ≤ o then cutSegs r (o - s.2) n
    else
      let k := min n (s.2 - o)
      (if k = 0 then [] else [(s.1 + o, k)]) ++ cutSegs r 0 (n - k)

/-- The first n flits of an inbound queue are written. -/
def Act.takeFlits (t n : Nat) : Act :=
  .read fun b => Act.all [
    .each ((Machine.core b t).inq.take n) (fun q => .setMem q.1 q.2),
    .onCore t fun s => { s with inq := s.inq.drop n }]

/-- Bytes that MOVEs have put into the transmit queue of a port (10_links.md R284). -/
def txqBytes (s : PortState) : Nat := (s.txq.filter fun i => i.teasel.isNone).foldl (fun n i => n + i.data.length) 0

/-- The transmit queue holds this many bytes. -/
def txqMax : Nat := 524288

/-- A MOVE's data enters a port's transmit queue in this beat; data that overflows it is discarded, a schedule overrun
(10_links.md R284, R291). -/
def Act.toLink (a : Agent) (pos f p ch : Nat) (data : Bytes) (last : Bool) : Act :=
  .read fun b =>
    if txqMax < txqBytes (Machine.port b p) + data.length then .overrunAt a pos p
    else
      let e := epochOf (beat b)
      Act.all [
        .onPort p (fun s => { s with
          txq := s.txq ++ [{ channel := ch, data := data, last := last, epoch := e, teasel := none }]
          epochs := if s.epochs.contains e then s.epochs else s.epochs ++ [e] }),
        .onPart f fun q => { q with sentEpochs := if q.sentEpochs.contains e then q.sentEpochs else q.sentEpochs ++ [e] }]

/-- The rest of MOVE i reaches its destination (R179): `bytes` are the bytes of it that have not left. A flit with inverted
parity is not written (13_memory.md R374, 11_integrity.md R310). -/
def Act.landMove (c f i : Nat) (m : Move) (bytes : Bytes) : Act :=
  .read fun b =>
  match m.dst with
  | .virt segs => .setSegs (cutSegs segs (64 * m.done) bytes.length) bytes
  | .link p ch =>
    .toLink (.ctx c m.ctx) (ctxProg b c m.ctx * 32 + m.pc) f p ch (m.data.take (64 * m.done) ++ bytes) m.pub
  | _ => Act.all [
      .takeFlits m.dstCore (Machine.core b m.dstCore).inq.length,
      .opt (moveAddr b c i m (64 * m.done)) fun x =>
        if m.spoilt.isEmpty then .setMem x bytes
        else .each ((List.range (ceilDiv bytes.length 64)).filter fun k => !m.spoilt.contains (m.done + k)) fun k =>
          .setMem (x + 64 * k) ((bytes.drop (64 * k)).take 64)]

/-- A complete publishing MOVE into a ring publishes its slot (R171). -/
def Act.publishMove (c f : Nat) (m : Move) : Act :=
  match m.dst with
  | .ring t r _ => .read fun b => .when m.pub (.publish (.ctx c m.ctx) (ctxProg b c m.ctx * 32 + m.pc) t f r)
  | _ => .nop

/-- The context's deferred SIGNAL, REL, ARRIVE, FENCE or END, once no MOVE of it is in flight; a faulted or stopped
context performs none, a paused one after RESUME. -/
def Act.deferred (c f x : Nat) : Act :=
  .read fun b =>
    let s := Machine.core b c
    .when (agentMayGo b f && ctxActive b c x && ctxWaiting b c x && !(ctxOf s x).waiting && (ctxMoves s x).isEmpty)
      (Act.all [.setCtxWaiting c x false, .opt (instrAt b c x) fun i => .afterMoves c f x i])

/-- The contexts of a partition that goes on perform what they deferred for MOVEs that completed in the meantime. -/
def Act.releaseCtxs (f : Nat) : Act :=
  .read fun b => .each (coresOf b f) fun c => .each (List.range 4) (.deferred c f)

/-- A fault of the receiving core's stream engine, which is no context's (R167, R175). -/
def Act.engineOverrun (t f : Nat) : Act :=
  .read fun b => Act.all [
    .when (rd b (.strFault t) == 0) (.setReg (.strFault t) (2 * 2 ^ 24)),
    .count .synOverruns 1,
    .firstFault f 2 (lcoreOf b f t) 0,
    .log { agentRecord b (.ctx t 0) with detector := 0x20, disp := 9, cause := 2 },
    .faultStop f]

/-- A flit for address a reaches the inbound queue of core t, after the stream port has taken `taken` held flits: taken
at once, held, or discarded in front of a full queue (R175); `bad` suppresses its write. -/
def Act.enqueueFlit (t f taken a : Nat) (bytes : Bytes) (bad : Bool) : Act :=
  .read fun b =>
    let held := (Machine.core b t).inq.length
    let full := decide (64 ≤ held - taken)
    Act.all [
      .takeFlits t taken,
      .when (!full && !bad)
        (if held < taken then .setMem a bytes else .onCore t fun s => { s with inq := s.inq ++ [(a, bytes)] }),
      .read (fun b => .when (decide (rd b (.strInqHwm t) < (Machine.core b t).inq.length))
        (.setReg (.strInqHwm t) (Machine.core b t).inq.length)),
      .when full (.engineOverrun t f)]

/-- Codes a MOVE's transfer can report (11_integrity.md R310): flit parity, and the reads of its source; a MOVE within
the core crosses no mesh. -/
def flitCode (m : Move) (n : Nat) : Bool := (n == 0x06 && !m.isLocal) || n == 0x07 || n == 0x08

/-- Flits from..upto of MOVE m read granule g of bank uid: one of the source's (01_module.md R20). -/
def Move.reads (m : Move) (upto uid g : Nat) : Bool :=
  match m.src with
  | none => false
  | some (c, o) => decide (o + 64 * m.done < 16 * (g + 1)) && decide (16 * g < o + min m.data.length (64 * upto)) &&
      uid == 40 * c + bankOfGranule g

/-- The detection is one that MOVE m's transfer can report up to a flit: of a unit that exists, a scratch error of the bank
that a granule of the source lies in (01_module.md R20). -/
def Move.detOk (m : Move) (upto : Nat) (d : Option Det) : Bool :=
  d.all fun d => flitCode m d.code && unitExists d.uclass d.uid &&
    (d.code == 0x06 || (d.uclass == 3 && m.reads upto d.uid (detGranule d)))

/-- The bytes that go on after a detection on the way (11_integrity.md R310, R313): what an uncorrectable source holds is
open, and so are bytes of a link slot whose write a parity error suppressed (log 9). -/
def Move.carried (b : Block) (m : Move) (code : Nat) (bytes : Bytes) : Bytes :=
  if code = 0x08 ∨ (code = 0x06 ∧ m.isLink = true) then
    (List.range bytes.length).map fun k => Config.abandonedByte b.freeCtr (64 * m.done + k)
  else bytes

/-- The beat of a MOVE's first flit, where the next one leaves at a beat (11_integrity.md R310). -/
def Move.firstFlit (m : Move) (now : Nat) : Nat := if m.done = 0 then now else m.beat

/-- A detection of a MOVE is recorded; flit parity taints from the beat of the MOVE's first flit (11_integrity.md R310). -/
def Act.moveDetection (c f : Nat) (m : Move) (d : Option Det) : Act :=
  .read fun b => .opt d fun d =>
    .detection (agentRecord b (.ctx c m.ctx)) d (some f) (if d.code = 0x06 then m.firstFlit (beat b) else beat b)

/-- Every flit of the earlier MOVEs of m's context, and of those on m's flow, has left (R175, R179). -/
def inOrder (b : Block) (c i : Nat) (m : Move) : Bool :=
  ((core b c).moves.take i).all fun o => o.left || (o.ctx != m.ctx && o.flow != m.flow)

/-- The context goes on behind the MOVE that has just retired (R179). -/
def Act.retire (c : Nat) (m : Move) : Act := .read fun b => .when (ctxActive b c m.ctx) (.nextPc c m.ctx)

/-- MOVE_COMPLETE: the last byte of a core's MOVE i, the oldest of its context, is written or enters the transmit
queue; deferred instructions of the context are released (R179). A parity error suppresses the rest of the write. -/
def execMoveComplete (c i : Nat) (s : State) (d : Option Det := none) : Host.Outcome State Fault Refusal :=
  perform (isCore c) (.read fun b =>
    match (core b c).moves[i]?, ownerOfCore b c with
    | some m, some f =>
      let d := fired d
      let code := (d.map (·.code)).getD 0
      let bytes := m.carried b code (m.data.drop (64 * m.done))
      .when (inOrder b c i m && !((core b c).moves.take i).any (fun o => o.ctx == m.ctx) && m.detOk (ceilDiv m.data.length 64) d) (Act.all [
        .when (d.isSome) .bump,
        .landMove c f i m (if code = 0x06 && !m.isLink then [] else bytes),
        .onCore c (fun s => { s with moves := dropAt s.moves i }),
        .publishMove c f m,
        .count (.strMoves c) 1,
        .when m.unretired (.retire c m),
        .moveDetection c f m d,
        .deferred c f m.ctx])
    | _, _ => .nop) s

/-- FLIT_ARRIVAL: the next flit of a core's MOVE i leaves its source and reaches its destination, in order (R175, R179).
At a core it enters the inbound queue, after the stream port has taken `taken` held flits; one that finds 64 held is
discarded, a schedule overrun. A flit of an uncorrectable block is not written (13_memory.md R374). At a controller port its bytes are queued for writing; at a link port they wait for the
rest of the MOVE (10_links.md R284). A parity error suppresses the flit's write; an uncorrectable source read leaves its
bytes open (11_integrity.md R310, R313; log 9). -/
def execFlitArrival (c i taken : Nat) (d : Option Det) (s : State) : Host.Outcome State Fault Refusal :=
  perform (isCore c) (.read fun b =>
    match (core b c).moves[i]?, ownerOfCore b c with
    | some m, some f =>
      let d := fired d
      let code := (d.map (·.code)).getD 0
      let flit := (m.data.drop (64 * m.done)).take 64
      let bytes := m.carried b code flit
      let sent : Move := { m with
        done := m.done + 1, beat := m.firstFlit (beat b)
        data := if m.isLink then m.data.take (64 * m.done) ++ bytes ++ m.data.drop (64 * m.done + 64) else m.data }
      .when (!m.isLocal && !m.left && inOrder b c i m && m.detOk (m.done + 1) d) (Act.all [
        .when d.isSome .bump,
        (match moveAddr b c i m (64 * m.done) with
         | some a => .enqueueFlit m.dstCore f taken a bytes (code == 0x06 || m.spoilt.contains m.done)
         | none => match m.dst with
           | .virt segs => .when (code != 0x06) (.setSegs (cutSegs segs (64 * m.done) bytes.length) bytes)
           | _ => .nop),
        .onCore c (fun s => { s with moves := putAt s.moves m i sent }),
        .when sent.left (.retire c m),
        .moveDetection c f m d])
    | _, _ => .nop) s

end Sys2Proof.Machine
end

