-- ==== Sys2Proof/Machine/ImageRules.lean ====
section
/-! DEFINITION. The encoding rules that LOAD_IMAGE applies to an image (09_schedules.md R253 step 3, 00_scope.md R13):
step-table entries (05_step_tables.md), formats and modes (02_formats.md R44, R61, 03_arithmetic.md R68, R69,
04_core.md R98, R102, R117), stream programs and rings (06_streams.md R157, R165, R170, R172, R173, R178), the cache
geometry (08_attention.md R220, R240, 13_memory.md R377, R378), the domain record (09_schedules.md R262) and the link
plan (10_links.md R290). -/

namespace Sys2Proof.Machine

/-! ## Entry headers (R125, R126) -/

/-- ARITH codes an opcode admits. -/
def arithCodes (op : Nat) : List Nat :=
  if op = opMatmul then [0, 1, 2, 3, 4]
  else if op = opPool ∨ op = opResize then [0, 1]
  else if op ≤ opReduce then [0, 1, 3, 4]
  else [0]

/-- Opcodes of R126. -/
def knownOpcode (op : Nat) : Bool :=
  (decide (1 ≤ op) && decide (op ≤ 0x0B)) || (decide (0x10 ≤ op) && decide (op ≤ 0x15)) || op == 0x1F

/-- What the image configures an object as: 0 nothing, 1 semaphore, 2 barrier (R250). -/
def recType (im : Image) (o : Nat) : Nat := (((im.objs.find? fun x => x.obj == o)).map (·.typ)).getD 0

/-- The header of an entry. -/
def entryHeaderOk (im : Image) (e : BitVec 512) : Bool :=
  let op := opcodeOf e
  let crec := ef e 63 48
  knownOpcode op && (arithCodes op).contains (ef e 10 8) &&
  (if onArrays e then arraysOf e != 0 else arraysOf e == 0) &&
  (!bitOf e.toNat 11 || ef e 10 8 == 1) && (!bitOf e.toNat 14 || op == opScore) &&
  ef e 15 15 == 0 && ef e 23 20 == 0 && ef e 31 31 == 0 &&
  (isWork e || !bitOf e.toNat 30) && !(bitOf e.toNat 47 && recType im (ef e 46 32) == 2) &&
  !(decide (0xA000 ≤ crec) && decide (crec ≤ 0xFFFE))

/-! ## Descriptors, modes, exponents, strides (02_formats.md R44, 03_arithmetic.md R68, R69, R129, R132, R140) -/

/-- A descriptor byte of the table of R44. -/
def descOk (n : Nat) : Bool :=
  let d := Desc.ofByte n
  decide (n < 64) && decide (d.fmt ≤ 8) && (!d.sat || decide (d.fmt ≤ 2)) &&
    (if 5 ≤ d.fmt ∧ d.fmt ≤ 7 then d.blk else if d.fmt = 3 ∨ d.fmt = 4 then true else !d.blk)

/-- Operand formats of an array mode (R68). -/
def operandFmt (arith f : Nat) : Bool :=
  if arith = 2 then f == 0 else if arith = 3 then decide (1 ≤ f) && decide (f ≤ 4) else decide (1 ≤ f) && decide (f ≤ 7)

/-- Destination formats of a mode (R68). -/
def destFmtOk (arith f : Nat) : Bool :=
  if arith = 2 then f == 0 || f == 8 else if arith = 3 then decide (f ≤ 4) else decide (f ≤ 7)

/-- An exponent address stands exactly where the descriptor has BLK. -/
def xaddrOk (d : Desc) (x : Option Nat) : Bool := x.isSome == d.blk

/-- Strides in granules are whole numbers of blocks, where the tensor has block exponents (R132, R190). -/
def stridesOk (d : Desc) (ss : List Nat) : Bool := !d.blk || ss.all fun s => s * 16 % blockBytes d.fmt == 0

/-! ## Array entries (R129-R131, R137-R139, 07_image_ops.md) -/

/-- Formats of a layout (07_image_ops.md R187); POOL also takes FP32 in C32 (04_core.md R121, log 32). -/
def layoutFmt (pool : Bool) (layout : Nat) (d : Desc) : Bool :=
  match layout with
  | 0 => (decide (1 ≤ d.fmt) && decide (d.fmt ≤ 4)) || (pool && d.fmt == 0)
  | 1 => decide (3 ≤ d.fmt) && decide (d.fmt ≤ 7)
  | 2 => decide (1 ≤ d.fmt) && decide (d.fmt ≤ 4) && !d.blk
  | _ => false

/-- The common block (R129, R130). -/
def commonOk (e : BitVec 512) : Bool :=
  let act := ef e 291 289
  let pre := ef e 288 287
  let noExt := (granule (ef e 313 297)).isNone
  descOk (ef e 122 115) && descOk (ef e 130 123) && descOk (ef e 138 131) &&
  xaddrOk (descA e) (xaddrA e) && xaddrOk (descC e) (xaddrC e) && destFmtOk (ef e 10 8) (descC e).fmt &&
  decide (act ≤ 4) && (act == 2 || ef e 294 292 == 0) && pre != 3 && (pre == 0) == (granule (ef e 286 270)).isNone &&
  (!(act == 3 || ef e 296 295 == 2) || !noExt) &&
  (!bitOf e.toNat 30 || (srecOf e).isSome) &&
  (!routed e || opcodeOf e == opMatmul && ef e 114 102 == 0)

/-- An X32 pair carries no scale, bias, activation or slot (R69, 02_formats.md R61). -/
def pairOk (e : BitVec 512) : Bool :=
  (descC e).fmt != 8 || (wordAddr (ef e 214 196)).isNone && (wordAddr (ef e 233 215)).isNone &&
    (granule (ef e 267 251)).isNone && ef e 291 289 == 0 && !bitOf e.toNat 30

/-- A drained row of 32 elements and its exponent granule fit a slot (06_streams.md R173, log 31). -/
def rowFits (lc : LCore) (e : BitVec 512) : Bool :=
  match lc.rings[ef e 101 98]? with
  | none => false
  | some r =>
    let geom := r.2.1.toNat
    let row := roundUp (4 * fmtBits (descC e).fmt) 16 + (if (descC e).blk then 16 else 0)
    bitsOf geom 12 8 != 0 && decide (row ≤ (bitsOf geom 23 16 + 1) * 256)

/-- MATMUL and SCORE (R131, R132, 04_core.md R102). The C strides of a routed output address nothing, so R132's division
is not asked of them, while R129's exponent address is: the model's choice (log 31). -/
def matOk (lc : LCore) (e : BitVec 512) : Bool :=
  let m := ef e 10 8
  let score := opcodeOf e == opScore
  commonOk e && pairOk e && operandFmt m (descA e).fmt && operandFmt m (descB e).fmt && xaddrOk (descB e) (xaddrB e) &&
  [ef e 322 315, ef e 330 323, ef e 341 331, ef e 403 392, ef e 415 404].all (· != 0) &&
  (!(descA e).blk || bitOf e.toNat 390) && (!(descB e).blk || bitOf e.toNat 391) &&
  stridesOk (descA e) [ef e 357 342, ef e 431 416, ef e 479 464] &&
  stridesOk (descB e) [ef e 373 358, ef e 447 432, ef e 495 480] &&
  (routed e || stridesOk (descC e) [ef e 389 374, ef e 463 448, ef e 511 496]) &&
  (!score || bitOf e.toNat 391 && !routed e && !(bitOf e.toNat 14 && ef e 296 295 == 0)) &&
  (!routed e || rowFits lc e)

/-- Channels come in whole blocks of 32 where the input or the output is C32 (R137, 07_image_ops.md R188). -/
def channelsOk (e : BitVec 512) : Bool :=
  (ef e 316 315 != 0 || ef e 387 379 % 2 == 0) && (outBlock e == 16 || ef e 396 388 % 2 == 0)

/-- Groups (07_image_ops.md R195, R137). -/
def groupsOk (e : BitVec 512) : Bool :=
  match groupC e with
  | none => true
  | some cg => ef e 471 468 != 14 && ef e 387 379 == ef e 396 388 && (decide (32 ≤ cg) || ef e 387 379 % 2 == 0) &&
      16 * ef e 387 379 % cg == 0

/-- The geometry CONV and POOL share (R137). -/
def cvGeometryOk (e : BitVec 512) : Bool :=
  [ef e 326 319, ef e 337 327, ef e 348 338, ef e 356 349, ef e 367 357, ef e 378 368, ef e 387 379, ef e 396 388,
   ef e 479 472].all (· != 0) &&
  stridesOk (descA e) [ef e 495 480] && stridesOk (descC e) [ef e 511 496] &&
  (ef e 318 317 != 1 || (granule (ef e 313 297)).isSome)

/-- CONV. -/
def convOk (e : BitVec 512) : Bool :=
  let m := ef e 10 8
  commonOk e && operandFmt m (descA e).fmt && operandFmt m (descB e).fmt && xaddrOk (descB e) (xaddrB e) &&
  cvGeometryOk e && layoutFmt false (ef e 316 315) (descA e) && channelsOk e && groupsOk e

/-- Fields that POOL and RESIZE leave unused (R129). -/
def unusedOk (e : BitVec 512) : Bool :=
  ef e 130 123 == 0 && (xaddrB e).isNone && (wordAddr (ef e 233 215)).isNone && (granule (ef e 267 251)).isNone &&
    ef e 269 269 == 0 && ef e 288 287 == 0 && ef e 296 289 == 0 && ef e 314 314 == 0

/-- POOL (R138, 07_image_ops.md R198). -/
def poolOk (e : BitVec 512) : Bool :=
  commonOk e && unusedOk e && (granule (ef e 97 81)).isNone && cvGeometryOk e && decide (ef e 316 315 ≤ 1) &&
  layoutFmt true (ef e 316 315) (descA e) && channelsOk e && ef e 396 388 == ef e 387 379 && ef e 443 426 == 0 &&
  ef e 471 470 == 0

/-- RESIZE (R139, 07_image_ops.md R201, R204). -/
def resizeOk (e : BitVec 512) : Bool :=
  commonOk e && unusedOk e &&
  [ef e 328 318, ef e 339 329, ef e 348 340, ef e 356 349, ef e 364 357, ef e 376 365, ef e 404 393].all (· != 0) &&
  decide (ef e 316 315 ≤ 1) && layoutFmt false (ef e 316 315) (descA e) && ef e 511 405 == 0 &&
  stridesOk (descA e) [ef e 392 377] &&
  ((ef e 316 315 == 1 && outBlock e == 16) || ef e 348 340 % 2 == 0)

/-! ## Vector entries (R140-R142, 04_core.md R117, 08_attention.md R210, R214) -/

/-- SUBOPs of an opcode (R141). -/
def subops (op : Nat) : Nat :=
  if op = opNorm then 4 else if op = opElemwise then 0x1C else if op = opReduce then 3 else if op = opGather then 2 else 1

/-- ELEMWISE CMP. -/
def isCompare (e : BitVec 512) : Bool :=
  opcodeOf e == opElemwise && decide (0x0A ≤ subopOf e) && decide (subopOf e ≤ 0x0C)

/-- A vector entry. -/
def vectorOk (e : BitVec 512) : Bool :=
  let op := opcodeOf e
  let yNone := (granule (ef e 97 81)).isNone
  let yimm := ef e 307 276
  descOk (ef e 122 115) && descOk (ef e 130 123) && descOk (ef e 138 131) &&
  decide ((descA e).fmt ≤ 7) && (yNone || decide ((descB e).fmt ≤ 7)) && destFmtOk (ef e 10 8) (descC e).fmt &&
  decide (subopOf e < subops op) && ef e 156 145 != 0 && ef e 167 157 != 0 && ef e 227 216 != 0 &&
  ef e 381 381 == 0 && ef e 511 439 == 0 &&
  xaddrOk (descA e) (xaddrA e) && xaddrOk (descC e) (xaddrC e) &&
  (if yNone then (xaddrB e).isNone else xaddrOk (descB e) (xaddrB e)) &&
  stridesOk (descA e) [ef e 183 168, ef e 243 228] && (yNone || stridesOk (descB e) [ef e 199 184, ef e 259 244]) &&
  stridesOk (descC e) [ef e 215 200, ef e 275 260] &&
  (!bitOf e.toNat 30 || (srecOf e).isSome) && (!isCompare e || ef e 138 131 == 0) &&
  (!readsAux e || (granule (ef e 379 363)).isSome) &&
  (op != opNorm || decide (yimm ≤ (if subopOf e = 0 then 1 else 0))) &&
  (op != opDigest || ef e 156 145 * (32 * ef e 167 157) * fmtBits (descA e).fmt % 32768 == 0)

/-! ## Control entries (R143-R147) -/

/-- A control entry of a logical core, inside loops of the given counts, outermost first. -/
def controlOk (im : Image) (lc : LCore) (e : BitVec 512) (nest : List Nat) : Bool :=
  let op := opcodeOf e
  let t := recType im (ef e 78 64)
  if op = opWait ∨ op = opSignal then
    ef e 79 79 == 0 && ef e 511 96 == 0 && ef e 95 80 != 0 && t != 2
  else if op = opBarrier then ef e 79 79 == 0 && ef e 511 96 == 0 && ef e 95 80 == 0 && t != 1
  else if op = opStream then ef e 95 70 == 0 && ef e 511 224 == 0 && decide (ef e 69 64 < lc.progs.length)
  else if op = opLoop then
    ef e 511 94 == 0 && ef e 79 64 != 0 && ef e 91 80 != 0 && !(bitOf e.toNat 93 && ef e 19 16 == 0)
  else if op = opParam then
    let lvl := ef e 69 67
    let n := if lvl = 0 then 1 else natAt nest (lvl - 1)
    decide (ef e 65 64 ≤ 1) && ef e 71 70 == 0 && ef e 511 146 == 0 && ef e 119 104 % 4 == 0 &&
    decide (lvl ≤ nest.length) &&
    (ef e 65 64 == 0 || decide (ef e 90 72 * 4 + (n - 1) * ef e 119 104 + 4 ≤ 0x140000)) &&
    (if bitOf e.toNat 66 then decide (ef e 145 127 * 4 + 4 ≤ 0x140000) else ef e 126 123 != 0)
  else ef e 511 64 == 0

/-- One entry. -/
def entryOk (im : Image) (lc : LCore) (e : BitVec 512) (nest : List Nat) : Bool :=
  entryHeaderOk im e &&
  (if isMat e then matOk lc e else if opcodeOf e = opConv then convOk e else if opcodeOf e = opPool then poolOk e
   else if opcodeOf e = opResize then resizeOk e else if isVec e then vectorOk e else controlOk im lc e nest) &&
  regionsOk e

/-! ## Tables (R124, R144, 02_formats.md R61) -/

/-- The open loops behind entry i, innermost first: last index and count. -/
def openLoops (i : Nat) (e : BitVec 512) (stack : List (Nat × Nat)) : List (Nat × Nat) :=
  let s := stack.filter fun f => decide (i ≤ f.1)
  if opcodeOf e = opLoop then (i + ef e 91 80, ef e 79 64) :: s else s

/-- A LOOP's range ends before END and inside the loop around it, and no more than four nest (R144). -/
def loopOk (i last : Nat) (e : BitVec 512) (stack : List (Nat × Nat)) : Bool :=
  let s := stack.filter fun f => decide (i ≤ f.1)
  opcodeOf e != opLoop ||
    decide (i + ef e 91 80 < last) && s.all (fun f => decide (i + ef e 91 80 ≤ f.1)) && decide (s.length < 4)

/-- Every entry of a table from index i on; `off` is where the table stands in the image. -/
def entriesOk (im : Image) (lc : LCore) (off last : Nat) :
    Nat → List (Nat × Nat) → List (BitVec 512) → Except Rej Unit
  | _, _, [] => .ok ()
  | i, stack, e :: r =>
    let nest := ((stack.filter fun f => decide (i ≤ f.1)).map (·.2)).reverse
    andThen (need (entryOk im lc e nest && loopOk i last e stack && ((opcodeOf e == opEnd) == (i == last)))
      (rulesRej (off + 64 * i))) (entriesOk im lc off last (i + 1) (openLoops i e stack) r)

/-- A step table: 1 to 4,096 entries, END last and only there, each scale slot owned once. -/
def tableOk (im : Image) (lc : LCore) (off : Nat) : Except Rej Unit :=
  andThen (need (decide (lc.steps.length ≤ 4096)) (rulesRej off)) <|
  andThen (entriesOk im lc off (lc.steps.length - 1) 0 [] lc.steps)
    (need (allDistinct (lc.steps.filterMap slotOf)) (rulesRej off))

/-! ## Rings (06_streams.md R170, R172) -/

/-- Fields of a ring record. -/
def recSlots (r : Word × Word × Word) : Nat := bitsOf r.2.1.toNat 12 8
def recBytes (r : Word × Word × Word) : Nat := (bitsOf r.2.1.toNat 23 16 + 1) * 256
def recDepth (r : Word × Word × Word) : Nat := bitsOf r.2.1.toNat 3 0
def recFull (r : Word × Word × Word) : Nat := bitsOf r.2.2.toNat 14 0
def recFree (r : Word × Word × Word) : Nat := bitsOf r.2.2.toNat 30 16

/-- The initial count of an object the image makes a semaphore. -/
def semInit (im : Image) (o : Nat) : Option Nat := ((im.objs.find? fun x => x.obj == o && x.typ == 1)).map (·.init)

/-- The scratch a ring takes. -/
def ringRegion (r : Word × Word × Word) : Region :=
  { base := bitsOf r.1.toNat 16 0 * 16, dims := [], len := recSlots r * recBytes r }

/-- Reserved bits of a ring record are 0 (R13). -/
def ringBitsOk (r : Word × Word × Word) : Bool :=
  r.1.toNat / 2 ^ 17 == 0 && bitsOf r.2.1.toNat 31 24 == 0 && bitsOf r.2.1.toNat 15 13 == 0 &&
    bitsOf r.2.1.toNat 7 4 == 0 && bitsOf r.2.2.toNat 31 31 == 0 && bitsOf r.2.2.toNat 15 15 == 0

/-- One ring. -/
def ringRecOk (im : Image) (r : Word × Word × Word) : Bool :=
  ringBitsOk r && (recSlots r == 0 ||
    decide (3 ≤ recSlots r) && decide (recSlots r ≤ 16) && decide (1 ≤ recDepth r) &&
    decide (recDepth r + 2 ≤ recSlots r) && (ringRegion r).fits && recFull r != recFree r &&
    semInit im (recFull r) == some 0 && semInit im (recFree r) == some (recDepth r + 2))

/-- The rings of a core: each in order, no two overlapping. -/
def ringsOk (im : Image) (lc : LCore) (off : Nat) : Except Rej Unit :=
  andThen (eachOk (indexed lc.rings) fun p => need (ringRecOk im p.2) (rulesRej (off + 16 * p.1)))
    (need (!outsMeet (lc.rings.map ringRegion)) (rulesRej off))

/-- Ring n exists on a logical core. -/
def hasRing (lc : LCore) (n : Nat) : Bool := ((lc.rings[n]?).map recSlots).getD 0 != 0

/-! ## Stream programs (06_streams.md R178) -/

/-- Bits of an instruction that a field takes, the opcode's aside. -/
def yarrowMask (op : Nat) : Nat :=
  match op with
  | 0 => 0
  | 1 => 2 ^ 58 - 1
  | 2 => 63 * 2 ^ 52 + (2 ^ 32 - 1)
  | 3 => 7 * 2 ^ 52 + 31 * 2 ^ 24 + 7 * 2 ^ 16 + 0xFFFF
  | 4 => 7 * 2 ^ 52 + 31 * 2 ^ 24
  | 5 => (2 ^ 19 - 1) * 2 ^ 39 + 0xFFFF
  | 6 => 15
  | 7 | 8 => (2 ^ 15 - 1) * 2 ^ 32 + 0xFFFF
  | 9 => (2 ^ 15 - 1) * 2 ^ 32
  | _ => 0

/-- ENDIDX or TARGET, and L. -/
def yIdx (i : DWord) : Nat := yf i 28 24
def yLvl (i : DWord) : Nat := yf i 54 52

/-- The loops of a program: index, last index, level. -/
def progLoops (p : List DWord) : List (Nat × Nat × Nat) :=
  (indexed p).filterMap fun x => if yOp x.2 = yLoop then some (x.1, yIdx x.2, yLvl x.2) else none

/-- Instruction j of a program. -/
def instrOk (im : Image) (lc : LCore) (p : List DWord) (j : Nat) (i : DWord) : Bool :=
  let op := yOp i
  decide (op ≤ 0x0A) && (BitVec.ofNat 64 (2 ^ 58 - 1 - yarrowMask op) &&& i) == 0 &&
  (op != yLoop || (match p[yIdx i]? with
    | some x => decide (j < yIdx i) && yOp x == yEndl && yLvl x == yLvl i && yIdx x == j + 1
    | none => false)) &&
  (op != yEndl || (progLoops p).any fun l => l.2.1 == j) &&
  (op != yMove || yf i 15 0 != 0) &&
  (op != yRel || hasRing lc (yf i 3 0)) &&
  (op != yWait || yf i 15 0 != 0 && recType im (yf i 46 32) != 2) &&
  (op != yArrive || recType im (yf i 46 32) != 1)

/-- Two loops of a program nest at different levels, or are apart. -/
def progNestOk (a b : Nat × Nat × Nat) : Bool :=
  decide (a.2.1 < b.1) || decide (b.2.1 < a.1) ||
    (decide (a.1 < b.1) && decide (b.2.1 < a.2.1) || decide (b.1 < a.1) && decide (a.2.1 < b.2.1)) && a.2.2 != b.2.2

/-- A program: at most 32 instructions with END last, every instruction in order, loops nesting. -/
def progOk (im : Image) (lc : LCore) (p : List DWord) : Bool :=
  (p.getLast?.map isYarrowEnd).getD false && (indexed p).all (fun x => instrOk im lc p x.1 x.2) &&
    (progLoops p).all fun a => (progLoops p).all fun b => a == b || progNestOk a b

/-! ## One producer and one consumer per ring (06_streams.md R165) -/

/-- The SETBs of AR a that can be in force before instruction k while all its strides are 0: along each way back from k the
latest SETB, where the latest SETS of every level sets 0; in a loop that repeats, also round it (R165). A LOOP whose COUNT is 0
is passed over; one that takes its count from an argument counts as repeating (log 53). `got` is the SETB found, `zero` the
levels whose stride is known to be 0, `seen` the loops already followed round. -/
def setbsAt (p : List DWord) (a : Nat) : Nat → Option DWord → List Nat → List Nat → Nat → List DWord
  | 0, _, _, _, _ => []
  | _ + 1, got, _, _, 0 => got.toList
  | fuel + 1, got, zero, seen, k + 1 =>
    match p[k]? with
    | none => []
    | some i =>
      let start := (p[yf i 28 24 - 1]?).getD 0
      let own := yf i 57 55 = a
      if yOp i = ySetb ∧ own then setbsAt p a fuel (some (got.getD i)) zero seen k
      else if yOp i = ySets ∧ own ∧ !zero.contains (yf i 54 52) then
        if yf i 31 0 ≠ 0 then [] else setbsAt p a fuel got (yf i 54 52 :: zero) seen k
      else if yOp i = yLoop ∧ !seen.contains k ∧ (yf i 18 18 = 1 ∨ 2 ≤ yf i 15 0) then
        setbsAt p a fuel got zero seen k ++ setbsAt p a fuel got zero (k :: seen) (yf i 28 24)
      else if yOp i = yEndl ∧ yf start 18 18 = 0 ∧ yf start 15 0 = 0 then setbsAt p a fuel got zero seen (yf i 28 24 - 1)
      else setbsAt p a fuel got zero seen k

/-- The core and ring that a publishing MOVE names by SETBs with USEARG = 0, all strides of its AR being 0 (R165). -/
def moveRings (p : List DWord) (j : Nat) (i : DWord) : List (Nat × Nat) :=
  let a := yf i 57 55
  if yOp i = yMove ∧ yf i 51 51 = 1 then
    (setbsAt p a 300 none [] [] j).filterMap fun s =>
      if yf s 54 53 = 3 ∧ yf s 50 50 = 0 then some (yf s 49 35, yf s 34 31) else none
  else []

/-- Users of a ring: (whether its core is a logical one, core, ring) with the agent (kind, core or port, program or
channel). DEDUCED (log 19): the drain paths of a core's two arrays are two agents (04_core.md R96), so an entry with ROUTE = 1
on both arrays and two or more N tiles has two publishers. -/
def publishers (im : Image) : List ((Bool × Nat × Nat) × (Nat × Nat × Nat)) :=
  (indexed im.cores).flatMap (fun x =>
    x.2.steps.flatMap (fun e => if routed e then
      (List.range 2).filterMap fun a =>
        if bitOf (arraysOf e) a ∧ (a = 0 ∨ arraysOf e = 2 ∨ 2 ≤ ef e 330 323) then
          some ((true, x.1, ef e 101 98), (1, x.1, a)) else none
      else []) ++
    (indexed x.2.progs).flatMap fun q => (indexed q.2).flatMap fun y =>
      (moveRings q.2 y.1 y.2).map fun r => ((false, r.1, r.2), (2, x.1, q.1))) ++
  im.plan.flatMap fun pl => pl.rx.map fun r => ((true, r.lcore, r.ring), (3, pl.port, r.channel))

/-- Users that release rings: programs with a REL. -/
def releasers (im : Image) : List ((Bool × Nat × Nat) × (Nat × Nat × Nat)) :=
  (indexed im.cores).flatMap fun x => (indexed x.2.progs).flatMap fun q => q.2.filterMap fun i =>
    if yOp i = yRel then some ((true, x.1, yf i 3 0), (2, x.1, q.1)) else none

/-- No ring has two users. -/
def oneUser (l : List ((Bool × Nat × Nat) × (Nat × Nat × Nat))) : Bool :=
  l.all fun x => l.all fun y => x.1 != y.1 || x.2 == y.2

/-! ## Objects (06_streams.md R157) -/

/-- Each object once, at most 128 barriers in a plot. -/
def objectsOk (im : Image) : Bool :=
  allDistinct (im.objs.map (·.obj)) &&
    (List.range 64).all fun i => decide ((im.objs.filter fun o => o.typ == 2 && o.obj / 512 == i).length ≤ 128)

/-! ## The cache geometry (08_attention.md R220, R239, R240, 13_memory.md R377, R378) -/

/-- A power of two. -/
def isPow (n : Nat) : Bool := n != 0 && n == 2 ^ Nat.log2 n

/-- The geometry; `share` is the function's TSL_DIR_SHARE_SCHED. -/
def geometryOk (im : Image) (share : Nat) (g : Geometry) : Bool :=
  let lhd := g.l * g.h * g.d
  decide (1 ≤ g.l) && decide (1 ≤ g.h) && decide (g.h ≤ 64) && [64, 128, 256].contains g.d && g.h * g.d % 256 == 0 &&
  (g.efmt == 0x13 || g.efmt == 0x17) &&
  g.re % 256 == 0 && decide ((if g.efmt = 0x13 then 2 * lhd else lhd) ≤ g.re) &&
  g.rx % 256 == 0 && decide (ceilDiv (2 * lhd) 16 + 16 + 8 * g.l ≤ g.rx) &&
  isPow g.pmax && decide (16 ≤ g.pmax) && decide (g.pmax ≤ 2048) && g.tmax % g.pmax == 0 && decide (1 ≤ g.nseq) &&
  isPow g.seqStride && decide (g.tmax * (g.re + g.rx) ≤ g.seqStride) && g.seqBase % g.seqStride == 0 &&
  g.sscale.all (fun w => w.toNat % 2 ^ 23 == 0 && isPosNormal w.toNat) &&
  decide (g.pmax * g.re ≤ 2 ^ 30) && decide (2 ^ 44 ≤ g.seqBase) &&
  decide (g.seqBase + g.nseq * g.seqStride ≤ 2 ^ 48) &&
  (g.qlen == 0 || isPow g.qlen && decide (g.qlen ≤ 256) && recType im g.req == 1 && recType im g.rsp == 1 && share != 0)

/-! ## Domain and link plan (09_schedules.md R262, 10_links.md R290) -/

/-- The domain record. DESIGN CHOICE (log 33): a breach of R262 fails at step 3, one of R259 (Machine/Images.lean readEnergy) at
step 2; the table of R253 names neither rule. -/
def readDomain (img : Bytes) (ss : List Sec) : Except Rej (Option Domain) :=
  match secOf ss secDomain 0 with
  | none => .ok none
  | some s =>
    let g (o n : Nat) : Nat := leAt img (s.off + o) n
    let ld := (List.range 16).map fun p => g (16 + p) 1
    andThen (need (s.len == 48 && g 0 8 != 0 && decide (1 ≤ g 8 2) && decide (g 8 2 ≤ 512) && decide (g 10 2 < g 8 2) &&
      (if g 10 2 = 0 then g 12 1 == 0xFF else decide (g 12 1 < 16)) && decide (g 13 1 ≤ 8) &&
      zeros img (s.off + 14) (s.off + 16) && ld.all (fun n => decide (n ≤ 63) || n == 0xFF) &&
      zeros img (s.off + 32) (s.off + 48)) (rulesRej s.off))
    (.ok (some { id := g 0 8, nmemb := g 8 2, member := g 10 2, upport := g 12 1, depth := g 13 1, ldmax := ld }))

/-- A transmit record. -/
def readTx (img : Bytes) (a : Nat) : Except Rej TxRec :=
  andThen (need (decide (leAt img a 2 < 4096) && zeros img (a + 6) (a + 8)) (rulesRej a))
    (.ok { channel := leAt img a 2, send := leAt img (a + 2) 2, flow := leAt img (a + 4) 2,
           pos := BitVec.ofNat 192 (leAt img (a + 8) 24) })

/-- A receive record. -/
def readRx (img : Bytes) (n a : Nat) : Except Rej RxRec :=
  andThen (need (decide (leAt img a 2 < 4096) && zeros img (a + 2) (a + 4) && decide (leAt img (a + 4) 4 < n) &&
    decide (leAt img (a + 8) 1 < 16) && zeros img (a + 9) (a + 12) && zeros img (a + 14) (a + 16)) (rulesRej a))
    (.ok { channel := leAt img a 2, lcore := leAt img (a + 4) 4, ring := leAt img (a + 8) 1, flow := leAt img (a + 12) 2 })

/-- NPORT port records from offset a, before `stop`. -/
def readPlans (img : Bytes) (n stop : Nat) : Nat → Nat → Except Rej (List PortPlan)
  | 0, _ => .ok []
  | k + 1, a =>
    let ntx := leAt img (a + 2) 2
    let nrx := leAt img (a + 4) 2
    let next := a + 8 + 32 * ntx + 16 * nrx
    if next ≤ stop ∧ leAt img a 1 < 16 ∧ leAt img (a + 1) 1 ≤ 2 ∧ zeros img (a + 6) (a + 8) then
      match mapOk (List.range ntx) (fun i => readTx img (a + 8 + 32 * i)),
          mapOk (List.range nrx) (fun i => readRx img n (a + 8 + 32 * ntx + 16 * i)), readPlans img n stop k next with
      | .error e, _, _ => .error e
      | _, .error e, _ => .error e
      | _, _, .error e => .error e
      | .ok tx, .ok rx, .ok r => .ok ({ port := leAt img a 1, profile := leAt img (a + 1) 1, tx := tx, rx := rx } :: r)
    else .error (rulesRej a)

/-- The link plan's bytes. -/
def readLinkPlan (img : Bytes) (ss : List Sec) (n : Nat) : Except Rej (List PortPlan) :=
  match secOf ss secLinkPlan 0 with
  | none => .ok []
  | some s =>
    andThen (need (decide (16 ≤ s.len) && zeros img (s.off + 4) (s.off + 16)) (rulesRej s.off))
      (readPlans img n (s.off + s.len) (min (leAt img s.off 4) (s.len / 8)) (s.off + 16))

/-- Positions no two records of a port share. -/
def positionsApart : List TxRec → Bool
  | [] => true
  | t :: r => r.all (fun u => t.pos &&& u.pos == 0) && positionsApart r

/-- One port's plan against the partition's port and the image (R290). -/
def planOk (b : Block) (f : Nat) (im : Image) (p : PortPlan) : Bool :=
  (part b f).ports.getLsbD p.port && portMode b p.port == 1 && portProfile b p.port == p.profile &&
  positionsApart p.tx && p.tx.all (fun t => !t.pos.getLsbD 0 && decide (t.pos.toNat < 2 ^ cellsPerFrame p.profile 4)) &&
  allDistinct ((p.tx.map (·.channel)).filter (· != ctlChannel)) && allDistinct (p.rx.map (·.channel)) &&
  p.tx.all (fun t => t.channel == ctlChannel || recType im t.send == 1) &&
  p.rx.all (fun r => match im.cores[r.lcore]? with
    | some lc => hasRing lc r.ring
    | none => false)

/-! ## Step 3 -/

/-- A relative core is pool-capable (R248). -/
def poolCapableRel (q : Nat) : Bool := q % 400 / 20 % 4 == 0 && q % 20 % 4 == 0

/-- Every logical core with a POOL entry stands on pool-capable cores in every variant (04_core.md R98). -/
def poolsPlaced (im : Image) : Bool :=
  (indexed im.cores).all fun x => !(x.2.steps.any fun e => opcodeOf e == opPool) ||
    im.place.all fun pl => poolCapableRel (natAt pl x.1)

/-- The encoding rules of R253 step 3, in the order of the chapters. -/
def rulesOk (b : Block) (f : Nat) (im : Image) (sp : List LSpans) (ss : List Sec) : Except Rej Unit :=
  let at_ (t : Nat) : Nat := ((secOf ss t 0).map (·.off)).getD 0
  andThen (need (objectsOk im) (rulesRej (at_ secObject))) <|
  andThen (eachOk (im.cores.zip sp) fun x => andThen (tableOk im x.1 x.2.steps.off) <|
    andThen (ringsOk im x.1 x.2.rings.off) <|
    eachOk (indexed x.1.progs) fun p => need (progOk im x.1 p.2) (rulesRej (x.2.progs.off + 256 * p.1))) <|
  andThen (need (poolsPlaced im) (rulesRej (at_ secPlace))) <|
  andThen (need ((im.cache.map (geometryOk im (fld b (.tslDirCfg (part b f).engine f) 17 12))).getD true) (rulesRej (at_ secCache))) <|
  andThen (need (im.plan.all (planOk b f im) && allDistinct (im.plan.map (·.port))) (rulesRej (at_ secLinkPlan))) <|
  need (oneUser (publishers im) && oneUser (releasers im)) (rulesRej (at_ secStep))

end Sys2Proof.Machine
end

