-- ==== Sys2Proof/Machine/Loading.lean ====
section
/-! DEFINITION. LOAD_IMAGE (09_schedules.md R253, R254, R260, R263, 12_host.md R358): reading an image, its eight checks,
and what installing it sets. -/

namespace Sys2Proof.Machine

/-! ## Reading (R253 steps 1 to 3) -/

/-- The image in bytes where a command finds them: `dma` from the host bus, or the partition's virtual space, with no
block of them uncorrectable. -/
def segsGood (b : Block) (segs : List (Nat × Nat)) : Bool :=
  segs.all fun s => (lpd b (ctlOf s.1)).bad.all fun k => decide (k * 64 + 64 ≤ s.1) || decide (s.1 + s.2 ≤ k * 64)

/-- n bytes of a partition's virtual space, where they can be read. -/
def virtBytes (b : Block) (f va n : Nat) : Option Bytes :=
  (translate b f false (va : Nat) n).segs.bind fun segs => if segsGood b segs then some (segBytes b segs) else none

/-- The image that SRC and ADDR name, if its LENGTH and all its bytes can be read. -/
def imageBytes (b : Block) (f src va : Nat) (dma : Option Bytes) : Option Bytes :=
  let from_ (n : Nat) : Option Bytes :=
    if src = 0 then dma.bind fun d => if n ≤ d.length then some (d.take n) else none else virtBytes b f va n
  (from_ 64).bind fun h =>
    let n := leAt h 0x10 8
    if n % 64 = 0 ∧ 64 ≤ n ∧ n ≤ 2 ^ 30 then from_ n else none

/-- The uncorrectable blocks that make an image in the partition's virtual space unreadable are detections (13_memory.md
R374, 11_integrity.md R310). -/
def Act.badImage (f src va : Nat) : Act :=
  .read fun b => .when (src == 1) (
    let n := match virtBytes b f va 64 with
      | none => 64
      | some h => if leAt h 0x10 8 ≤ 2 ^ 30 then leAt h 0x10 8 else 64
    .opt (translate b f false (va : Nat) n).segs fun segs => .readBad (some f) 2 segs)

/-- The CRC over the image with its own field as 0 (R245). -/
def imageCrcOk (img : Bytes) : Bool := (crc32c (spliceBytes img 0x28 (leBytes 0 4))).toNat == leAt img 0x28 4

/-- Every flow that a MOVE names needs a flow table (R246). -/
def flowsNamed (ss : List Sec) (cores : List LCore) (sp : List LSpans) : Except Rej Unit :=
  if (secOf ss secFlow 0).isSome then .ok ()
  else eachOk (cores.zip sp) fun x => eachOk (indexed x.1.progs) fun p =>
    need (p.2.all fun i => yOp i != yMove || yf i 50 39 == noFlow) (layoutRej (x.2.progs.off + 256 * p.1))

/-- The image uses a link port: an address register of kind 2, a barrier with a home or participants on another module, a
latency assumed for a port, or a plan (R246, R262, R266). DOMAIN and LINKPLAN are looked at as they stand, since their own
rules are step 3's. -/
def usesLink (img : Bytes) (im : Image) (ss : List Sec) : Bool :=
  (im.cores.any fun lc => lc.progs.any fun p => p.any fun i => yOp i == ySetb && yf i 54 53 == 2) ||
  (im.objs.any fun o => o.proxy || o.remote != 0) ||
  ((secOf ss secDomain 0).any fun s => decide (32 ≤ s.len) && !zeros img (s.off + 16) (s.off + 32)) ||
  ((secOf ss secLinkPlan 0).any fun s => decide (4 ≤ s.len) && leAt img s.off 4 != 0)

/-- Some record of the port records from offset a, before `stop`, names a flow. -/
def planFlows (img : Bytes) (stop : Nat) : Nat → Nat → Bool
  | 0, _ => false
  | k + 1, a =>
    let ntx := leAt img (a + 2) 2
    let nrx := leAt img (a + 4) 2
    let next := a + 8 + 32 * ntx + 16 * nrx
    decide (next ≤ stop) && (nrx != 0 || ((List.range ntx).any fun i => leAt img (a + 8 + 32 * i) 2 != ctlChannel) ||
      planFlows img stop k next)

/-- An image that uses a link port has a DOMAIN and a LINKPLAN, and a plan that names flows has a flow table (R246). -/
def linksNamed (img : Bytes) (im : Image) (ss : List Sec) : Except Rej Unit :=
  andThen (need (!usesLink img im ss || (secOf ss secDomain 0).isSome && (secOf ss secLinkPlan 0).isSome) (layoutRej 0x40)) <|
  match secOf ss secLinkPlan 0 with
  | none => .ok ()
  | some s => need ((secOf ss secFlow 0).isSome ||
      !planFlows img (s.off + s.len) (min (leAt img s.off 4) (s.len / 8)) (s.off + 16)) (layoutRej s.off)

/-- Every duration word holds (R247). An entry that breaks an encoding rule has no number of cycles to hold its word
against, and fails at step 3. -/
def durationsOk (im : Image) (sp : List LSpans) : Except Rej Unit :=
  eachOk (im.cores.zip sp) fun x => eachOk (indexed (x.1.steps.zip x.1.durs)) fun p =>
    need (durationOk p.2.1 p.2.2 || isWork p.2.1 && !entryOk im x.1 p.2.1 []) (layoutRej (x.2.durs.off + 4 * p.1))

/-- An image whose layout holds (step 2), its domain and link plan still to be read. -/
def readLayout (img : Bytes) : Except Rej (Image × List Sec × List LSpans) := do
  headerOk img
  let ss ← readTable img
  let n := leAt img 0x20 4
  let nvar := leAt img 7 1
  let plots := leAt img 0x24 1
  let sp ← readLSpans img ss n
  let cores ← mapOk sp (readLCore img ss)
  let objs ← readRecords (secOf ss secObject 0) 16 (readObj img)
  let parts ← readRecords (secOf ss secParts 0) 8 (readPart img n)
  need (partsOk objs parts) (layoutRej (((secOf ss secParts 0).map (·.off)).getD 0x40))
  let place ← mapOk (List.range nvar) (readPlace img ss n plots)
  let flows ← mapOk (List.range nvar) (readFlows img ss n)
  let en ← readEnergy img ss (leAt img 0x18 8)
  let cache ← readCache img ss
  flowsNamed ss cores sp
  let im : Image := {
    imageId := BitVec.ofNat 64 (leAt img 8 8), nvar := nvar, length := img.length,
    planBeats := leAt img 0x18 8, plots := plots, cores := cores, objs := objs, parts := parts, place := place,
    flows := flows, peak := en.1, energy := en.2, cache := cache, domain := none,
    hasLink := (secOf ss secLinkPlan 0).isSome, plan := [] }
  durationsOk im sp
  linksNamed img im ss
  .ok (im, ss, sp)

/-- An image whose layout and encodings hold (steps 2 and 3). -/
def readImage (b : Block) (f : Nat) (img : Bytes) : Except Rej (Image × List Sec × List LSpans) := do
  let x ← readLayout img
  let dom ← readDomain img x.2.1
  let plan ← readLinkPlan img x.2.1 x.1.cores.length
  let im := { x.1 with domain := dom, plan := plan }
  rulesOk b f im x.2.2 x.2.1
  .ok (im, x.2)

/-! ## Admission (steps 4 to 8) -/

/-- Offset of a section, 0 where there is none. -/
def secOff (ss : List Sec) (t : Nat) : Nat := ((secOf ss t 0).map (·.off)).getD 0

/-- No element of the image is at fault (12_host.md R358). -/
def noOffset : Nat := 0xFFFFFFFFFFFFFFFF

/-- Objects that an entry names: SIGOBJ, and OBJ of WAIT, SIGNAL and BARRIER (05_step_tables.md R125, R143). -/
def entryObjs (e : BitVec 512) : List Nat :=
  (if bitOf e.toNat 47 then [ef e 46 32] else []) ++
  (if opcodeOf e = opWait ∨ opcodeOf e = opSignal ∨ opcodeOf e = opBarrier then [ef e 78 64] else [])

/-- Objects that an instruction names. -/
def instrObjs (i : DWord) : List Nat :=
  if yOp i = yWait ∨ yOp i = ySignal ∨ yOp i = yArrive then [yf i 46 32] else []

/-- PLOTS and every object lie within the partition's plots (step 4, 06_streams.md R156). Rings, the cache and the link
plan name objects that have records. -/
def resourcesOk (im : Image) (ss : List Sec) (sp : List LSpans) (plots : Nat) : Except Rej Unit :=
  let r (off : Nat) : Rej := { step := 4, status := stNoResource, off := off }
  let fits (o : Nat) : Bool := decide (o < 512 * plots)
  andThen (need (decide (im.plots ≤ plots)) (r 0x24)) <|
  andThen (eachOk (indexed im.objs) fun x => need (fits x.2.obj) (r (secOff ss secObject + 16 * x.1))) <|
  eachOk (im.cores.zip sp) fun x =>
    andThen (eachOk (indexed x.1.steps) fun e => need ((entryObjs e.2).all fits) (r (x.2.steps.off + 64 * e.1)))
      (eachOk (indexed x.1.progs) fun p => need (p.2.all fun i => (instrObjs i).all fits) (r (x.2.progs.off + 256 * p.1)))

/-- The lowest variant that uses no fenced unit and whose flows fit (steps 5 and 6). -/
def chooseVariant (b : Block) (f : Nat) (im : Image) : Except Rej Nat :=
  let pl := plotList (part b f).plots
  let clear := (List.range im.nvar).filter fun v => variantClear b im v pl
  if clear.isEmpty then .error { step := 5, status := stNoResource, off := noOffset }
  else match clear.find? fun v => flowsFit b f im v pl with
    | none => .error { step := 6, status := stBadArg, off := noOffset }
    | some v => .ok v

/-- Another partition is LOADED, RUNNING or PAUSED under an image with a DOMAIN section (R263). -/
def domainInUse (b : Block) (f : Nat) : Bool :=
  (owners b).any fun g => g != f && (match (part b g).st with
    | .loaded | .running | .paused => ((part b g).image.bind (·.domain)).isSome
    | _ => false)

/-- A measured latency above LDMAX on a locked port of the domain, whoever owns the port (R264). -/
def latencyHigh (b : Block) (d : Domain) : Bool :=
  (List.range 16).any fun p =>
    let m := natAt d.ldmax p
    decide (1 ≤ m) && decide (m ≤ 63) && decide (m < portLd b p)

/-- The module's domain is the image's already. -/
def sameDomain (b : Block) (d : Domain) : Bool := rd b .srlDomId == d.id && domState b != 0

/-- DOMAIN against the module's lock (step 7): no other domain in use, latencies within LDMAX, and an acquisition that
can go on. DESIGN CHOICE (log 47): an image of the module's own domain whose lock is lost is a STATE_CONFLICT while a partition
is RUNNING or PAUSED, whether or not reacquisition would need a jump (R265 reacquires only when none is). -/
def domainOk (b : Block) (f : Nat) (im : Image) (ss : List Sec) : Except Rej Unit :=
  match im.domain with
  | none => .ok ()
  | some d =>
    need (!(latencyHigh b d) && (if sameDomain b d then domState b != 3 || !anyActive b else !domainInUse b f))
      { step := 7, status := stConflict, off := secOff ss secDomain }

/-- Energy admission (step 8, R260): PEAK ≤ allocation × 10.24 µJ per watt. -/
def energyOk (b : Block) (f : Nat) (im : Image) (ss : List Sec) : Except Rej Unit :=
  need (decide (im.peak * 100 ≤ (part b f).power * 1024))
    { step := 8, status := stNoResource, off := secOff ss secEnergy + 8 }

/-- What LOAD_IMAGE finds: the image and its variant, or the first failure. -/
def admission (b : Block) (f : Nat) (img : Bytes) : Except Rej (Image × Nat) := do
  need (imageCrcOk img) { step := 1, status := stIntegrity, off := noOffset }
  let x ← readImage b f img
  resourcesOk x.1 x.2.1 x.2.2 (plotList (part b f).plots).length
  let v ← chooseVariant b f x.1
  domainOk b f x.1 x.2.1
  energyOk b f x.1 x.2.1
  .ok (x.1, v)

/-! ## The beat lock (R263, R264) -/

/-- The image's domain is the module's, and locked; or there is nothing to lock. -/
def lockReady (b : Block) (im : Image) : Bool :=
  match im.domain with
  | none => true
  | some d => sameDomain b d && domState b == 2

/-- The latencies that two images of one domain assume: the later image's where it uses the port (R262). -/
def mergeLd (old new : List Nat) : List Nat :=
  (List.range 16).map fun p => if natAt new p = 0 then natAt old p else natAt new p

/-- The module joins a domain: its master locks at once, every other member begins to acquire. In the domain it belongs to
already, the ports of this image are locked too, and a master that lost the lock takes it again (R263 to R265). DESIGN CHOICE
(log 47): MEMBER, UPPORT and DEPTH of a later image of the same domain change nothing. -/
def Act.joinDomain (d : Domain) : Act :=
  .read fun b => if sameDomain b d then Act.all [
      .lock (fun l => { l with domain := l.domain.map fun o => { o with ldmax := mergeLd o.ldmax d.ldmax } }), .relockMaster]
    else (Act.all [
    .lock (fun l => { l with domain := some d, badMarkers := 0, sinceMarker := 0
                             prev := some (l.domain, rd b .srlDomId, rd b .srlDomStatus) }),
    .setReg .srlDomId d.id,
    .setFld .srlDomStatus 24 16 d.member,
    .setFld .srlDomStatus 15 8 d.upport,
    .setDomState (if d.upport = 0xFF then 2 else 1)])

/-- An acquisition that cannot end leaves the lock as it was. -/
def Act.leaveDomain (d : Domain) : Act :=
  .read fun b => .when (sameDomain b d && domState b == 3) (.opt b.lock.prev fun x => Act.all [
    .setReg .srlDomId x.2.1, .setDomState (bitsOf x.2.2 31 30), .setReg .srlDomStatus x.2.2,
    .lock fun l => { l with domain := x.1, prev := none }])

/-! ## Installing -/

/-- Every slot register of a core goes back to reset (02_formats.md R66). -/
def Act.resetSlots (c : Nat) : Act :=
  .resetRegs fun a => !(decide (frameAt c + 0x400 ≤ a) && decide (a < frameAt c + 0x800))

/-- The destination format of the entry that owns slot n of a logical core. -/
def slotFmt (lc : LCore) (n : Nat) : Nat :=
  ((lc.steps.find? fun e => slotOf e == some n).map fun e => (descC e).fmt).getD 0

/-- One logical core's data go to core c (R253, 05_step_tables.md R148, 06_streams.md R170, R171). -/
def Act.installCore (c : Nat) (lc : LCore) : Act :=
  Act.all [
    .clearCore c,
    .onCore c (fun s => { s with steps := lc.steps, durs := lc.durs, progs := lc.progs }),
    .setReg (.seqStatus c) (seqLoaded * 65536),
    .setReg (.seqFault c) 0, .setReg (.strFault c) 0, .setReg (.strStatus c) 0,
    .each lc.slots (fun x => Act.all [
      .setReg (.coreSslotScale c x.1) x.2.1.toNat,
      .setReg (.coreSslotCfg c x.1) (x.2.2.toNat + slotFmt lc x.1 * 256)]),
    .each (List.range 15) (fun i => .each (List.range 8) fun w =>
      .setReg (.seqRs c (i + 1) w) (((lc.shapes[i * 8 + w]?).getD 0).toNat)),
    .each (List.range 16) (fun n =>
      let r := (lc.rings[n]?).getD (0, 0, 0)
      Act.all [.setReg (.strRingBase c n) r.1.toNat, .setReg (.strRingGeom c n) r.2.1.toNat,
        .setReg (.strRingObj c n) r.2.2.toNat, .setReg (.strRingPtr c n) 0]),
    .each lc.scratch fun x => .setScr c x.1 x.2]

/-- An object at its initial state (R250, 06_streams.md R158 to R161). -/
def Act.resetObj (im : Image) (cores : List Nat) (o : Nat) (r : ObjRec) : Act :=
  Act.all [
    .onObj o (fun _ => { ObjState.reset with
      init := r.init, shares := if r.typ = 2 then plotShares im cores r.obj else [], remote := r.remote
      home := if r.proxy then some (r.homePort, r.homeObj) else none }),
    .setReg (.synObjCfg o) (r.typ * 2 ^ 30 + r.bound),
    .setReg (.synObjState o) (if r.typ = 2 then r.p * 2 ^ 15 else r.init),
    .showWaiters o]

/-- Every object of the image at its initial state. -/
def Act.resetObjs (f : Nat) (im : Image) (cores : List Nat) : Act :=
  .read fun b => .each im.objs fun r => .opt (physObj b f r.obj) fun o => .resetObj im cores o r

/-- START puts an object into its initial state (12_host.md R358): the image's count, or no arrival. TYPE, BOUND and PCOUNT
stay as they are, since an override of them lasts until PARTITION_DESTROY or an FLR (00_scope.md R14). -/
def Act.restartObj (im : Image) (cores : List Nat) (o i : Nat) : Act :=
  .read fun b =>
    let r := im.objs.find? fun r => r.obj == i
    let init := (r.map (·.init)).getD 0
    Act.all [
      .onObj o (fun _ => { ObjState.reset with
        init := init, shares := if objType b o = 2 then plotShares im cores i else []
        remote := (r.map (·.remote)).getD 0
        home := r.bind fun r => if r.proxy then some (r.homePort, r.homeObj) else none }),
      .setReg (.synObjState o) (if objType b o = 2 then barCount b o * 2 ^ 15 else init),
      .showWaiters o]

/-- Every object of a partition at its initial state. -/
def Act.restartObjs (f : Nat) (im : Image) (cores : List Nat) : Act :=
  .read fun b => .each (allObjsOf b f) fun o => .opt (relObj b f o) (.restartObj im cores o)

/-- The objects of some plots have no record: their registers and states go back to reset. -/
def Act.clearObjs (plots : List Nat) : Act :=
  Act.all [
    .units (fun u => { u with objs := u.objs.filter fun x => !plots.contains (x.1 / 512) }),
    .resetRegs (fun a => !(plots.any fun p => decide ((Reg.synObjCfg (p * 512)).addr ≤ a) &&
      decide (a < (Reg.synObjCfg (p * 512)).addr + 0x2000) && a % 16 != 12))]

/-- The objects of plots [lo, hi) configured as barriers. -/
def barriersIn (b : Block) (lo hi : Nat) : Nat :=
  (b.regs.filter fun e => decide ((Reg.synObjCfg (lo * 512)).addr ≤ e.1) && decide (e.1 < (Reg.synObjCfg (hi * 512)).addr) &&
    e.1 % 16 == 0 && bitsOf e.2.toNat 31 30 == 2).length

/-- SYN_BARRIERS: objects configured as barriers. -/
def Act.showBarriers : Act := .read fun b => .setReg .synStatus (barriersIn b 0 64)

/-- What belongs to a run or an image of a partition is forgotten. -/
def Act.forgetRun (f : Nat) : Act :=
  Act.all [
    .onPart f (fun p => { p with
      startBeat := 0, started := false, beatsRun := 0, planLogged := false, pausing := none, halted := none, pauseBeats := 0, fault := none
      cancelled := 0, taint := none, poisonedBy := none, replace := false, fltOpen := true }),
    .setFld (.mbxFunc f) 7 0 0,
    .onDir f fun d => { d with qidx := 0, qwait := 0 }]

/-- Every section is installed, and the partition becomes LOADED (R253, 15_power_boot.md R421). -/
def Act.install (f v : Nat) (im : Image) (digest : Bytes) : Act :=
  .read fun b =>
    let cs := physCores (plotList (part b f).plots) ((im.place[v]?).getD [])
    Act.all [
      .each (allCoresOf b f) .resetSlots,
      .each (cs.zip im.cores) (fun x => .installCore x.1 x.2),
      .clearObjs (plotList (part b f).plots),
      .resetObjs f im cs,
      .forgetRun f,
      .onPart f (fun p => { p with image := some im, variant := v, measurement := digest, ckpts := [], nextGen := 0 }),
      .showBarriers,
      .setPState f .loaded]

/-! ## The command -/

/-- The response payload (12_host.md R358). -/
def loadPayload (id v off : Nat) (digest : Bytes) : Bytes :=
  leBytes id 8 ++ leBytes v 1 ++ List.replicate 7 0 ++ leBytes off 8 ++ digest

def cmdLoadImage : Cmd :=
  { code := 0x20, target := partTarget, func0 := false, mods := [modOperational], states := [.ready]
    payload := fun p => p.length == 16 && decide (leAt p 0 1 ≤ 1) && zeros p 1 8 }

/-- LOAD_IMAGE (R253): `dma` is what the host bus returns from ADDR on. It stays in execution while the beat lock is
being acquired (R263). -/
def execLoadImage (f m : Nat) (dma : Option Bytes) (s : State) : Host.Outcome State Fault Refusal :=
  perform (isFunc f && isMbox m) (.command f m cmdLoadImage fun p t => .read fun b =>
    let src := leAt p 0 1
    if src = 0 ∧ !(func b f).bme then .respond f m stDenied 0 []
    else match imageBytes b t src (leAt p 8 8) dma with
      | none => .seq (.badImage t src (leAt p 8 8)) (.respond f m stBadArg 1 (loadPayload 0 0xFF noOffset (List.replicate 64 0)))
      | some img =>
        match admission b t img with
        | .error r => Act.all [
            .opt ((readImage b t img).toOption.bind fun x => x.1.domain) .leaveDomain,
            .respond f m r.status r.step (loadPayload (leAt img 8 8) 0xFF r.off (List.replicate 64 0))]
        | .ok x =>
          let digest := sha512 img
          Act.all [
            .opt x.1.domain .joinDomain,
            .whenB (fun b => lockReady b x.1) (Act.all [
              .lock (fun l => { l with prev := none }),
              .install t x.2 x.1 digest,
              .ok f m (loadPayload (leAt img 8 8) x.2 noOffset digest)])]) s

end Sys2Proof.Machine
end

