-- ==== Sys2Proof/Machine/Partitions.lean ====
section
/-! DEFINITION. Runs of a partition: START, PAUSE, RESUME, STOP, CHECKPOINT, SET_SHAPES, UNLOAD_IMAGE, and the dispatch
of PREFIX_QUERY and KV_EXPORT (12_host.md R352, R358, R359, R361, 06_streams.md R169, 13_memory.md R383). -/

namespace Sys2Proof.Machine

/-! ## What STOP leaves undefined (R358) -/

/-- n bytes from a device address become free values (log 9). -/
def Act.abandon (a n : Nat) : Act :=
  .read fun b => .setMem a ((List.range n).map fun i => Config.abandonedByte b.freeCtr (a + i))

/-- Device-address runs that the entry in progress on core c may have written: its outputs, or the slot it fills. -/
def entryRuns (b : Block) (c : Nat) (e : BitVec 512) : List (Nat × Nat) :=
  ((outRegions e).flatMap fun r => r.starts.map fun a => (scratchAt c a, r.len)) ++
  (if routed e then
    let n := ef e 101 98
    [(scratchAt c (slotAt b c n (fld b (.strRingPtr c n) 31 16)), ringSlotSize b c n)] else [])

/-- Device-address runs that MOVE i of core c may have written. -/
def moveRuns (b : Block) (c i : Nat) (m : Move) : List (Nat × Nat) :=
  match m.dst with
  | .virt segs => segs
  | _ => ((moveAddr b c i m 0).map fun a => (a, m.data.length)).toList

/-- Everything that core c has in progress. -/
def coreRuns (b : Block) (c : Nat) : List (Nat × Nat) :=
  let s := core b c
  (match s.inv with
   | some i => entryRuns b c i.entry
   | none => []) ++ s.moves.zipIdx.flatMap fun x => moveRuns b c x.2 x.1

/-! ## Stopping (R166, R358) -/

/-- A core stops at once: its sequencer stands at entry 0, its contexts are free, nothing is in progress; the records of a
replay are written first. -/
def Act.haltCore (c : Nat) : Act :=
  Act.all [
    .abandonReplays c,
    .onCore c (fun s => { s with
      inv := none, loops := [], seqWaiting := false, ended := false, arr0 := ArrState.reset, arr1 := ArrState.reset
      vecReplay := none, moves := [], inq := [], arbTried := 0, escalated := none, kept := [] }),
    .setReg (.seqStatus c) (seqLoaded * 65536),
    .setFld (.coreStatus c) 0 0 0,
    .setFld (.chkStatus c) 2 0 0,
    .setReg (.arrStatus c 0) 0x10, .setReg (.arrStatus c 1) 0x10,
    .each (List.range 4) (.freeCtx c)]

/-- Slots being received have no WAIT any more. -/
def Act.unwaitPorts (f : Nat) : Act :=
  .units fun u => { u with ports := u.ports.map fun x =>
    if x.2.func = f then (x.1, { x.2 with rx := x.2.rx.map fun r => { r with wait := 0 } }) else x }

/-- A partition stops at once (R358): a PAUSE is overtaken, entries and MOVEs are abandoned, waits are cancelled. -/
def Act.stopNow (f : Nat) : Act :=
  .read fun b => Act.all [
    .endPause f stConflict 1,
    .each ((coresOf b f).flatMap (coreRuns b)) (fun x => .abandon x.1 x.2),
    .bump,
    .cancelWaits f false,
    .dropMessages f,
    .unwaitPorts f,
    .each (coresOf b f) .haltCore,
    .closeTaints f,
    .onPart f fun p => { p with pausing := none, halted := none, pauseBeats := 0, taint := none, poisonedBy := none, started := false }]

def cmdStop : Cmd :=
  { code := 0x33, target := partTarget, func0 := false, mods := [modOperational], states := [.running, .paused, .faulted]
    payload := fun p => p.isEmpty }

/-- STOP (R358). -/
def execStop (f m : Nat) (s : State) : Host.Outcome State Fault Refusal :=
  perform (isFunc f && isMbox m) (.command f m cmdStop fun _ t =>
    Act.all [.stopNow t, .setPState t .loaded, .ok f m []]) s

/-! ## START and RESUME -/

/-- A halt condition is active: START and RESUME return STATE_CONFLICT with DETAIL 5 (15_power_boot.md R418). -/
def haltActive (b : Block) : Bool := flag b .pwrInStatus 8

/-- Start beats of an image are multiples of 3, of 12 where it has a link plan (09_schedules.md R257, 10_links.md
R290). -/
def startStep (im : Image) : Nat := if im.hasLink then 12 else 3

/-- The start beat that a request for beat q gets, if it qualifies; 0 asks for the earliest. -/
def startBeatFor (b : Block) (im : Image) (q : Nat) : Option Nat :=
  if q = 0 then some (roundUp (beat b + 64) (startStep im))
  else if q % startStep im = 0 ∧ beat b + 64 ≤ q then some q else none

/-- A receiver's WAIT for each slot being received is issued again, for the run that begins. -/
def Act.rewaitPorts (f : Nat) : Act :=
  .read fun b => .each (b.ports.filter fun x => x.2.func == f) fun x => Act.all [
    .onPort x.1 (fun s => { s with rx := s.rx.map fun r => { r with wait := 1 } }),
    .each x.2.rx fun r => .issueWait (.bind x.1 r.channel) f (ringFree b r.core r.ring) 1]

/-- A core of a run that begins: sequencer at entry 0, contexts free, rings empty, no fault (R358). -/
def Act.startCore (c : Nat) : Act :=
  Act.all [
    .haltCore c,
    .onCore c (fun s => { s with ringPub := [], ringRel := [], tlb := [], entryBeat := 0 }),
    .setReg (.seqFault c) 0, .setReg (.strFault c) 0, .setReg (.strStatus c) 0,
    .each (List.range 16) fun n => .setReg (.strRingPtr c n) 0]

/-- A partition's run begins at beat q (R257, R358). -/
def Act.startRun (f q : Nat) (im : Image) : Act :=
  .read fun b => Act.all [
    .each (coresOf b f) .startCore,
    .dropMessages f,
    .restartObjs f im (coresOf b f),
    .forgetRun f,
    .onPart f (fun p => { p with startBeat := q }),
    .setPState f .running,
    .dirWait f,
    .rewaitPorts f]

def cmdStart : Cmd :=
  { code := 0x30, target := partTarget, func0 := false, mods := [modOperational], states := [.loaded]
    payload := fun p => p.length == 8 }

/-- START (R358). -/
def execStart (f m : Nat) (s : State) : Host.Outcome State Fault Refusal :=
  perform (isFunc f && isMbox m) (.command f m cmdStart fun p t => .read fun b => .opt (part b t).image fun im =>
    match startBeatFor b im (leAt p 0 8) with
    | none => .respond f m stBadArg 0 []
    | some q =>
      if haltActive b then .respond f m stConflict 5 []
      else Act.all [.startRun t q im, .ok f m (leBytes q 8)]) s

/-- Sequencers go on from where they stopped; those that have not begun begin entry 0. -/
def Act.beginSeqs (f : Nat) : Act :=
  .read fun b => .each ((coresOf b f).filter fun c =>
    seqState b c == seqLoaded || seqState b c == seqStopped && !(Machine.core b c).ended) fun c =>
    .setSeqState c seqRunning

/-- Sequencers between two entries stand stopped. -/
def Act.stopSeqs (f : Nat) : Act :=
  .read fun b => .each ((coresOf b f).filter fun c => seqState b c == seqRunning) fun c => .setSeqState c seqStopped

def cmdResume : Cmd :=
  { code := 0x32, target := partTarget, func0 := false, mods := [modOperational], states := [.paused]
    payload := fun p => p.isEmpty }

/-- RESUME (R358): on from the paused points; a run whose start beat passed during the pause begins. -/
def execResume (f m : Nat) (s : State) : Host.Outcome State Fault Refusal :=
  perform (isFunc f && isMbox m) (.command f m cmdResume fun _ t => .read fun b =>
    if haltActive b then .respond f m stConflict 5 []
    else
      let go := (part b t).started || decide ((part b t).startBeat ≤ beat b)
      Act.all [
        .clearTlbs t,
        .onPart t (fun p => { p with started := go, pausing := none, halted := none, pauseBeats := 0 }),
        .setPState t .running,
        .when go (.beginSeqs t),
        .releaseCtxs t,
        .checkRunEnd t,
        .ok f m []]) s

/-! ## PAUSE (R358, 06_streams.md R169) -/

def cmdPause : Cmd :=
  { code := 0x31, target := partTarget, func0 := false, mods := [modOperational], states := [.running]
    payload := fun p => p.isEmpty }

/-- Another reason for a partition to pause: a PAUSE command in execution stays the one that answers, and the 4 s run from
the first PAUSE or halt (R358, 15_power_boot.md R418). -/
def Partition.pauseFor (p : Partition) (w : PauseWhy) : Partition :=
  let timed := p.halted.isSome || p.pausing.any fun x => x != .fence
  { p with
    pausing := match p.pausing with
      | some (.command f m) => some (.command f m)
      | _ => some w
    pauseBeats := if timed then p.pauseBeats else 0 }

/-- PAUSE: every agent is to stop at its next boundary; the command stays in execution. -/
def execPause (f m : Nat) (s : State) : Host.Outcome State Fault Refusal :=
  perform (isFunc f && isMbox m) (.command f m cmdPause fun _ t => .read fun b =>
    .when ((part b t).pausing != some (.command f m)) (.onPart t (·.pauseFor (.command f m)))) s

/-- Every agent of the partition has stopped, and what it issued has been applied at its home. -/
def allStopped (b : Block) (f : Nat) : Bool :=
  (coresOf b f).all (fun c => (core b c).inv.isNone && (core b c).moves.isEmpty) && !b.syncNet.any (msgOf b f)

/-- PAUSE_COMPLETE: the partition becomes PAUSED, with the one record of a halt that pauses it (15_power_boot.md R418), and a
PAUSE command gets its response (R358). -/
def execPauseComplete (f : Nat) (s : State) : Host.Outcome State Fault Refusal :=
  perform (isVf f) (.read fun b =>
    .when ((part b f).pausing.isSome && (part b f).st == .running && allStopped b f) (Act.all [
      .opt (part b f).halted (fun x => .logEvent x.1 x.2.1 x.2.2 9),
      .stopSeqs f,
      .setPState f .paused,
      .endPause f stOk 0])) s

/-- Beats of 4 s. -/
def pauseLimit : Nat := 25000000

/-- PAUSE_TIMEOUT: a PAUSE or halt whose agents have not stopped within 4 s makes the partition FAULTED with cause 0x02
(R358, 15_power_boot.md R418). -/
def execPauseTimeout (f : Nat) (s : State) : Host.Outcome State Fault Refusal :=
  perform (isVf f) (.read fun b =>
    let p := part b f
    .when (p.st == .running && (p.pausing.any fun w => w != .fence) && decide (pauseLimit ≤ p.pauseBeats) &&
        !allStopped b f) (Act.all [
      .endPause f stTimeout 0,
      .firstFault f 2 0 0,
      .faultStop f])) s

/-! ## CHECKPOINT (R358, 13_memory.md R383) -/

def cmdCheckpoint (states : List PState) : Cmd :=
  { code := 0x34, target := partTarget, func0 := false, mods := [modOperational], states := states
    payload := fun p => p.length == 8 && decide (leAt p 0 1 ≤ 1) && zeros p 1 4 }

/-- The generations after one more is written: over the older of two, none where that is the only valid one. -/
def putCkpt (l : List Ckpt) (k : Ckpt) : Option (List Ckpt) :=
  match l with
  | [x, y] =>
    let old := if x.gen < y.gen then x else y
    let new := if x.gen < y.gen then y else x
    if old.valid && !new.valid then none else some [new, k]
  | l => some (l ++ [k])

/-- CHECKPOINT with OP 0, and with a reserved OP: SAVE (R358, R383); an area whose controller is fenced takes none
(13_memory.md R376, log 52). -/
def execCheckpointSave (f m : Nat) (s : State) : Host.Outcome State Fault Refusal :=
  perform (isFunc f && isMbox m) (.read fun b => .opt (request b f m) fun r => .when (leAt (reqPayload r) 0 1 != 1) (
    .command f m (cmdCheckpoint [.loaded, .paused]) fun _ t => .read fun b => .when (!b.syncNet.any (msgOf b t)) (
      let k := snapshot b t (part b t).nextGen
      match putCkpt (part b t).ckpts k with
      | none => .respond f m stNoResource 1 []
      | some l => if memoryLost b (part b t) then .respond f m stNoResource 0 [] else Act.all [
          .onPart t (fun p => { p with ckpts := l, nextGen := p.nextGen + 1 }),
          .queueCkpt t k.gen true,
          .ok f m (leBytes k.gen 4 ++ leBytes k.valid.toNat 1)]))) s

/-- CHECKPOINT with OP 1: RESTORE of a valid generation under R255. -/
def execCheckpointRestore (f m : Nat) (s : State) : Host.Outcome State Fault Refusal :=
  perform (isFunc f && isMbox m) (.read fun b => .opt (request b f m) fun r => .when (leAt (reqPayload r) 0 1 == 1) (
    .command f m (cmdCheckpoint [.loaded, .paused, .faulted]) fun p t => .read fun b =>
      let q := part b t
      match q.ckpts.find? fun k => k.valid && k.gen == leAt p 4 4 with
      | none => .respond f m stBadArg 0 []
      | some k =>
        match q.image.bind (validVariant b t) with
        | none => .respond f m stNoResource 0 []
        | some v =>
          if memoryLost b q then .respond f m stNoResource 0 []
          else Act.all [.restore t v k, .queueCkpt t k.gen false, .ok f m []])) s

/-! ## SET_SHAPES, UNLOAD_IMAGE -/

def cmdSetShapes : Cmd :=
  { code := 0x40, target := partTarget, func0 := false, mods := [modOperational], states := [.loaded, .paused]
    payload := fun p =>
      let n := leAt p 0 2
      decide (1 ≤ n) && decide (n ≤ 101) && p.length == 8 + 40 * n && zeros p 2 8 &&
        (List.range n).all fun i => decide (1 ≤ leAt p (12 + 40 * i) 1) && decide (leAt p (12 + 40 * i) 1 ≤ 15) &&
          zeros p (14 + 40 * i) (16 + 40 * i) }

/-- The masked words of one record go to a shape set of core c. -/
def Act.setShape (c : Nat) (p : Bytes) (o : Nat) : Act :=
  .each ((List.range 8).filter fun w => bitOf (leAt p (o + 5) 1) w) fun w =>
    .setReg (.seqRs c (leAt p (o + 4) 1) w) (leAt p (o + 8 + 4 * w) 4)

/-- SET_SHAPES (R358). -/
def execSetShapes (f m : Nat) (s : State) : Host.Outcome State Fault Refusal :=
  perform (isFunc f && isMbox m) (.command f m cmdSetShapes fun p t => .read fun b =>
    let cs := coresOf b t
    let os := (List.range (leAt p 0 2)).map fun i => 8 + 40 * i
    if os.any fun o => decide (cs.length ≤ leAt p o 4) then .respond f m stBadArg 0 []
    else Act.all [.each os (fun o => .opt (cs[leAt p o 4]?) fun c => .setShape c p o), .ok f m []]) s

/-- The image and all that came with it leave the partition; its pages stay (08_attention.md R228), and so do the causes in
SEQ_FAULT and STR_FAULT, until the next START or LOAD_IMAGE (R358). -/
def Act.unload (f : Nat) : Act :=
  .read fun b => Act.all [
    .dropMessages f,
    .each (coresOf b f) (fun c => Act.all [.haltCore c, .clearCore c, .setReg (.seqStatus c) 0,
      .setReg (.strStatus c) 0]),
    .clearObjs (plotList (part b f).plots),
    .forgetRun f,
    .onPart f (fun p => { p with image := none, variant := 0xFF, ckpts := [], measurement := [] }),
    .showBarriers]

def cmdUnload : Cmd :=
  { code := 0x21, target := partTarget, func0 := false, mods := [modOperational], states := [.loaded, .paused, .faulted]
    payload := fun p => p.isEmpty }

/-- UNLOAD_IMAGE (R358). -/
def execUnloadImage (f m : Nat) (s : State) : Host.Outcome State Fault Refusal :=
  perform (isFunc f && isMbox m) (.command f m cmdUnload fun _ t =>
    Act.all [.unload t, .setPState t .ready, .ok f m []]) s

/-! ## PREFIX_QUERY and KV_EXPORT -/

/-- Partition states that admit a directory request or an export (R361). -/
def servedStates : List PState := [.loaded, .running, .paused]

def cmdPrefixQuery : Cmd :=
  { code := 0x60, target := partTarget, func0 := false, mods := [modOperational], states := servedStates
    payload := fun p => p.length == 64 && decide (1 ≤ leAt p 0 1) && decide (leAt p 0 1 ≤ 7) && zeros p 2 4 &&
      zeros p 0x28 0x40 }

/-- PREFIX_QUERY: the record goes to the function's engine, in its host share (R358, 08_attention.md R240); the engine's
answer is the response. -/
def execPrefixQuery (f m : Nat) (s : State) : Host.Outcome State Fault Refusal :=
  perform (isFunc f && isMbox m) (.command f m cmdPrefixQuery fun p t => .read fun b =>
    .when (!b.dirReqs.any fun q => q.issuer == f && q.mbox == m)
      (.units fun u => { u with dirReqs := u.dirReqs ++ [{ func := t, issuer := f, mbox := m, record := p }] })) s

def cmdKvExport : Cmd :=
  { cmdPrefixQuery with
    code := 0x61
    payload := fun p => p.length == 64 && zeros p 0x36 0x40 && decide (leAt p 0x14 1 ≤ 2) && decide (leAt p 0x16 1 < 4) &&
      (!bitOf (leAt p 0x16 1) 1 || zeros p 0x24 0x30) }

/-- KV_EXPORT (R358, 10_links.md R299). -/
def execKvExport (f m : Nat) (s : State) : Host.Outcome State Fault Refusal :=
  perform (isFunc f && isMbox m) (.command f m cmdKvExport fun d t => .read fun b =>
    match checkExport b t d with
    | .error st => .respond f m st 0 []
    | .ok ps =>
      let h := freeHandle b (leAt d 0x15 1 / 8)
      Act.all [.startExport t h d ps, .ok f m (leBytes h 1)]) s

end Sys2Proof.Machine
end

