-- ==== Sys2Proof/Machine/Lifecycle.lean ====
section
/-! DEFINITION. A partition's resources: PARTITION_CREATE and PARTITION_DESTROY (12_host.md R344, R356, R357, 04_core.md
R422, 13_memory.md R371, R377, R378, 10_links.md R274, R307), and the resets of functions (12_host.md R366, R367). -/

namespace Sys2Proof.Machine

/-! ## Capacity (13_memory.md R377) -/

/-- Controllers with their free chunks, ascending, of those a test admits. -/
def freeChunks (b : Block) (ok : Nat → Bool) : List (Nat × List Nat) :=
  ((List.range 16).filter ok).map fun k =>
    (k, (List.range (offered b k)).filter fun i => !(heldChunks b k).contains i)

/-- n draws: round robin over the home controllers, one without a free chunk passed over; then the others in turn. -/
def drawChunks (others : List (Nat × List Nat)) : Nat → Nat → List (Nat × List Nat) → List (Nat × Nat)
  | 0, _, _ => []
  | _, 0, _ => []
  | _, n, [] => (others.flatMap fun x => x.2.map fun i => (x.1, i)).take n
  | fuel + 1, n + 1, (_, []) :: r => drawChunks others fuel (n + 1) r
  | fuel + 1, n + 1, (k, i :: cs) :: r => (k, i) :: drawChunks others fuel n (r ++ [(k, cs)])

/-- The chunks of a new partition in draw order. -/
def drawFor (b : Block) (plots : List Nat) (n : Nat) : List (Nat × Nat) :=
  drawChunks (freeChunks b fun k => !isHome plots k) (n + 17) n (freeChunks b (isHome plots))

/-- The draws that hold data: behind the checkpoint area and the pool. -/
def dataChunks (p : Partition) : List (Nat × Nat) := p.chunks.drop ((plotList p.plots).length + p.poolmib / 1024)

/-- The data windows (13_memory.md R378): the j-th controller with data, its chunks ascending, 1 GiB pages. -/
def dataWindows (p : Partition) : List Mapping :=
  let cs := dataChunks p
  let ks := (List.range 16).filter fun k => cs.any fun x => x.1 == k
  ((indexed ks).map fun y =>
    let mine := (List.range 71).filter fun i => cs.contains (y.2, i)
    (indexed mine).map fun z =>
      ({ va := y.1 * 2 ^ 40 + z.1 * 2 ^ 30, size := 30, pa := chunkAt (y.2, z.2), r := true, w := true } : Mapping)).flatten

/-- XLT_ROOT: the level-0 table, number 0 of its level (13_memory.md R379). -/
def rootTable (f : Nat) (p : Partition) : Nat := tablePlace f p 0

/-- A partition's translation as PARTITION_CREATE builds it. -/
def Act.buildWindows (f : Nat) : Act :=
  .read fun b => Act.all [
    .onPart f (fun p => { p with maps := (dataWindows p).foldl (mapPage (tablePlace f p)) [] }),
    .setReg (.xltRoot f) (rootTable f (part b f))]

/-- A partition's translation is removed, and the host path's cache of it. -/
def Act.dropWindows (f : Nat) : Act :=
  Act.all [.onPart f (fun p => { p with maps := [] }), .setReg (.xltRoot f) 0, .onFunc f fun s => { s with tlb := [] }]

/-! ## Zeroing (04_core.md R422) -/

/-- An address of a frame register of a core in some plots, CORE_STATUS apart. -/
def frameOf (plots : List Nat) (a : Nat) : Bool :=
  decide (coreBase 0 ≤ a) && decide (a < coreBase Config.numCores) && plots.contains (plotOf ((a - coreBase 0) / 0x10000)) &&
    (a - coreBase 0) % 0x10000 != 4

/-- An address of the scratch of a core in some plots. -/
def scratchOf (plots : List Nat) (a : Nat) : Bool :=
  decide (a < scratchAt Config.numCores 0) && plots.contains (plotOf (a / 0x200000))

/-- Every core of some plots is reset: scratch, control storage, registers and counters (R422); fences stay. -/
def Act.resetCores (plots : List Nat) : Act :=
  .read fun b => Act.all [
    .units (fun u => { u with cores := u.cores.filter fun x => !plots.contains (plotOf x.1) }),
    .resetRegs (fun a => !frameOf plots a),
    .each ((b.cores.map (·.1)).filter fun c => plots.contains (plotOf c) && flag b (.coreStatus c) 0)
      (fun c => .setFld (.coreStatus c) 0 0 0),
    .resetMem (fun a => !scratchOf plots a)]

/-- A device address lies in one of some chunks. -/
def inAny (cs : List (Nat × Nat)) (a : Nat) : Bool := cs.any fun x => decide (chunkAt x ≤ a) && decide (a < chunkAt x + chunkBytes)

/-- The chunks of a partition are zeroed; what it had queued on controllers is gone. -/
def Act.zeroChunks (f : Nat) : Act :=
  .read fun b =>
    let cs := (part b f).chunks
    Act.all [
      .resetMem (fun a => !inAny cs a),
      .units fun u => { u with lpds := u.lpds.map fun x => (x.1, { x.2 with
        bad := x.2.bad.filter (fun k => !inAny cs (k * 64))
        queue := x.2.queue.filter fun q => q.owner != f && q.owner != 0x100 + f }) }]

/-! ## Slots (13_memory.md R371) -/

/-- The slot positions of the host path (R346). -/
def hostSlot (pos : Nat) : Bool := pos % 16 == 0

/-- The n lowest free slot positions. -/
def lowestSlots (b : Block) (n : Nat) : List Nat :=
  ((List.range 64).filter fun p => !hostSlot p && slotOwner b 0 p == 0).take n

/-- Slot positions get an owner, on every controller. -/
def Act.ownSlots (ps : List Nat) (owner : Nat) : Act :=
  .each (List.range 16) fun k => .each ps fun p => .setFld (.lpdSlot k (p / 4)) (p % 4 * 8 + 7) (p % 4 * 8) owner

/-- SYN_OBJ_OWNER of every object of some plots. -/
def Act.ownObjs (plots : List Nat) (owner : Nat) : Act :=
  .each plots fun p => .each (List.range 512) fun i => .setReg (.synObjOwner (p * 512 + i)) owner

/-! ## Ports (10_links.md R274) -/

/-- LNK_CFG from a PORTCFG byte (R356). -/
def portCfgWord (x : Nat) : Nat :=
  x % 4 * 2 ^ 30 + x / 4 % 4 * (if x % 4 = 1 then 2 ^ 28 else 2 ^ 26) + x / 16 % 2 * 2 ^ 25

/-- A PORTCFG byte is in range: a mode, and no reserved profile or rate. -/
def portCfgOk (owned : Bool) (x : Nat) : Bool :=
  if owned then (x % 4 == 1 || x % 4 == 2) && x / 4 % 4 != 3 && decide (x < 32) else x == 0

/-- The port's registers that an override can have changed (00_scope.md R14). -/
def Act.resetIdentity (p : Nat) : Act :=
  .resetRegs fun a => !(decide ((Reg.lnkEthMac p).addr ≤ a) && decide (a ≤ (Reg.lnkEthRto p).addr))

/-- A port begins to train for its owner. -/
def Act.givePort (f p cfg : Nat) : Act :=
  Act.all [
    .setReg (.lnkCfg p) (portCfgWord cfg),
    .onPort p (fun t => { PortState.reset with func := f, laneFails := t.laneFails }),
    .setPortState p lnkTraining]

/-- A port goes off: no partition owns it. -/
def Act.portOff (p : Nat) : Act :=
  Act.all [
    .resetIdentity p,
    .setReg (.lnkCfg p) 0, .setReg (.lnkDelay p) 0,
    .setFld (.lnkStatus p) 31 28 0, .setFld (.lnkStatus p) 23 8 0,
    .onPort p fun t => { PortState.reset with laneFails := t.laneFails }]

/-- The ports of a set, ascending. -/
def portList (s : BitVec 16) : List Nat := (List.range 16).filter fun p => s.getLsbD p

/-! ## PARTITION_CREATE (R356) -/

/-- The payload's fields. -/
structure CreateReq where
  plots : Nat
  memgib : Nat
  lslots : Nat
  hostw : Nat
  ports : Nat
  engine : Nat
  portcfg : List Nat
  power : Nat
  dirquota : Nat
  shareSched : Nat
  shareHost : Nat
  rate0 : Nat
  rate1 : Nat
  poolmib : Nat

/-- The payload of R356, read. -/
def CreateReq.read (p : Bytes) : CreateReq :=
  { plots := leAt p 0 8, memgib := leAt p 8 2, lslots := leAt p 0xA 1, hostw := leAt p 0xB 1, ports := leAt p 0xC 2
    engine := leAt p 0xE 1, portcfg := (List.range 16).map fun i => leAt p (0x10 + i) 1, power := leAt p 0x20 4
    dirquota := leAt p 0x24 4, shareSched := leAt p 0x28 1, shareHost := leAt p 0x29 1, rate0 := leAt p 0x2A 2
    rate1 := leAt p 0x2C 2, poolmib := leAt p 0x30 4 }

/-- The first offset whose test fails. -/
def firstBad : List (Bool × Nat) → Option Nat
  | [] => none
  | (ok, o) :: r => if ok then firstBad r else some o

/-- A PORTCFG byte holds a reserved bit, mode, profile or rate (00_scope.md R13, 10_links.md LNK_CFG). -/
def cfgReserved (x : Nat) : Bool :=
  decide (32 ≤ x) || x % 4 == 3 || (x % 4 != 0 && x / 4 % 4 == 3)

/-- Reserved bytes and encodings of the payload, by offset (12_host.md R350 step 1). -/
def createReserved (p : Bytes) : Option Nat :=
  firstBad ([(zeros p 0xF 0x10, 0xF)] ++
    ((List.range 16).map fun i => (!cfgReserved (leAt p (0x10 + i) 1), 0x10 + i)) ++
    [(zeros p 0x2E 0x30, 0x2E), (zeros p 0x34 0x40, 0x34)])

/-- Ranges of R356, with those of R377 for POOLMIB. -/
def CreateReq.ranges (r : CreateReq) : List (Bool × Nat) :=
  [(r.plots != 0, 0), (decide (1 ≤ r.memgib) && decide (r.memgib ≤ 1136), 8),
   (decide (1 ≤ r.lslots) && decide (r.lslots ≤ 60), 0xA), (decide (1 ≤ r.hostw) && decide (r.hostw ≤ 15), 0xB),
   (decide (r.engine ≤ 1), 0xE)] ++
  ((indexed r.portcfg).map fun x => (portCfgOk (bitOf r.ports x.1) x.2, 0x10 + x.1)) ++
  [(r.power != 0, 0x20), (decide (r.dirquota ≤ 8388608), 0x24), (decide (r.shareSched ≤ 63), 0x28),
   (decide (r.shareHost ≤ 63), 0x29), (decide (r.rate0 ≤ 2000), 0x2A), (decide (r.rate1 ≤ 2000), 0x2C),
   (r.poolmib % 1024 == 0 && decide ((plotList (BitVec.ofNat 64 r.plots)).length + r.poolmib / 1024 < r.memgib), 0x30)]

/-- Sum over the virtual functions but t (0 = none left out). -/
def sumFuncs (t : Nat) (g : Nat → Nat) : Nat :=
  ((((List.range 17).drop 1).filter fun f => f != t).map g).foldl (· + ·) 0

/-- The directory shares of a function on an engine. -/
def sharesOf (b : Block) (e f : Nat) : Nat := fld b (.tslDirCfg e f) 23 18 + fld b (.tslDirCfg e f) 17 12

/-- TSL_RATE of a function on both engines. -/
def ratesOf (b : Block) (f : Nat) : Nat := rd b (.tslRate 0 f) + rd b (.tslRate 1 f)

/-- The energy charged for n bytes that Teasel transmits, in pJ: 36 for LPDDR5X, 10 for conversion, 40 for the link
(10_links.md R307). -/
def teaselCharge (n : Nat) : Nat := (36 + 10 + 40) * n

/-- The power of one unit of TSL_RATE in 0.1 mW: the charge of 64 bytes in each beat of 160 ns (10_links.md R307). -/
def ratePower : Nat := teaselCharge 64 * 10 / 160

/-- Allocations plus 34.4 mW per unit of TSL_RATE stay within PWR_LIMIT − P_FIX (10_links.md R307), in 0.1 mW. -/
def powerFits (b : Block) (power rates : Nat) : Bool :=
  decide (10000 * power + ratePower * rates + 10000 * rd b .pwrFix ≤ 10000 * rd b .pwrLimit)

/-- What partitions may not own twice, and the sums of R344. -/
def CreateReq.sums (b : Block) (t : Nat) (r : CreateReq) : List (Bool × Nat) :=
  let shares := sumFuncs t fun f => sharesOf b r.engine f
  [((plotList (BitVec.ofNat 64 r.plots)).all fun p => bitOf (freePlots b) p, 0),
   (decide (r.memgib ≤ freeGib b), 8),
   (decide (usedSlots b + r.lslots ≤ 60), 0xA),
   ((portList (BitVec.ofNat 16 r.ports)).all fun p => bitOf (freePorts b) p, 0xC),
   (powerFits b (usedPower b + r.power) (sumFuncs t (ratesOf b) + r.rate0 + r.rate1), 0x20),
   (decide ((sumFuncs t fun f => rd b (.tslDirQuota r.engine f)) + r.dirquota ≤ 8388608), 0x24),
   (decide (shares + r.shareSched ≤ 64), 0x28),
   (decide (shares + r.shareSched + r.shareHost ≤ 64), 0x29)]

/-- The rates of Teasel and what the directory engine grants a function, as at PARTITION_CREATE. -/
def Act.grantEngines (f : Nat) : Act :=
  .read fun b =>
    let p := part b f
    Act.all [
      .setReg (.tslRate 0 f) (natAt p.rates 0), .setReg (.tslRate 1 f) (natAt p.rates 1),
      .setReg (.tslDirCfg p.engine f) (2 ^ 31 + natAt p.shares 1 * 2 ^ 18 + natAt p.shares 0 * 2 ^ 12),
      .setReg (.tslDirQuota p.engine f) p.dirquota,
      .setReg (.tslDirPool p.engine f) (p.poolmib * 256),
      .showDir f]

/-- The directory registers and rates of a function go back to reset. -/
def Act.revokeEngines (f : Nat) : Act :=
  .each [0, 1] fun e => Act.all [
    .setReg (.tslRate e f) 0,
    .resetRegs fun a => !(decide ((Reg.tslDirCfg e f).addr ≤ a) && decide (a < (Reg.tslDirCfg e f).addr + 0x40))]

/-- Fenced cores in some plots. -/
def fencedIn (b : Block) (plots : List Nat) : Nat :=
  ((physCores plots (List.range (400 * plots.length))).filter fun c => flag b (.coreStatus c) 1).length

/-- A partition is built from an admitted request. -/
def Act.create (f : Nat) (r : CreateReq) : Act :=
  .read fun b =>
    let set := BitVec.ofNat 64 r.plots
    let plots := plotList set
    let ports := portList (BitVec.ofNat 16 r.ports)
    Act.all [
      .ownSlots (lowestSlots b r.lslots) f,
      .onPart f (fun _ => { Partition.reset with
        plots := set, memgib := r.memgib, lslots := r.lslots, hostw := r.hostw, ports := BitVec.ofNat 16 r.ports
        engine := r.engine, portcfg := r.portcfg, power := r.power, dirquota := r.dirquota
        shares := [r.shareSched, r.shareHost], rates := [r.rate0, r.rate1], poolmib := r.poolmib
        chunks := drawFor b plots r.memgib }),
      .resetCores plots,
      .clearObjs plots,
      .ownObjs plots f,
      .zeroChunks f,
      .each ports (fun p => .givePort f p (natAt r.portcfg p)),
      .revokeEngines f,
      .onDir f (fun _ => DirFn.reset),
      .grantEngines f,
      .setReg (.pwrAlloc f) r.power,
      .resetRegs (fun a => !(decide ((Reg.expTable f 0).addr ≤ a) && decide (a < (Reg.expTable f 0).addr + 0x800))),
      .resetRegs (fun a => !(decide ((Reg.xltRoot f).addr ≤ a) && decide (a < (Reg.xltRoot f).addr + 0x40))),
      .setFld (.mbxFunc f) 7 0 0,
      .buildWindows f,
      .setPState f .ready]

/-- PARTITION_CREATE's TARGET: an enabled virtual function. -/
def cmdCreate (b : Block) : Cmd :=
  { code := 0x10, target := fun t => partTarget t && decide (t ≤ b.vfs), func0 := true, mods := [modOperational]
    states := [.empty], payload := fun p => p.length == 64 && (createReserved p).isNone
    badAt := fun p => (createReserved p).getD 0 }

/-- PARTITION_CREATE (R356): BAD_ARG for the first field outside its range, NO_RESOURCE for the first one owned or
above a sum, DETAIL its offset. -/
def execPartitionCreate (f m : Nat) (s : State) : Host.Outcome State Fault Refusal :=
  perform (isFunc f && isMbox m) (.read fun b => .command f m (cmdCreate b) fun p t => .read fun b =>
    let r := CreateReq.read p
    match firstBad r.ranges with
    | some o => .respond f m stBadArg o []
    | none => match firstBad (r.sums b t) with
      | some o => .respond f m stNoResource o []
      | none => Act.all [.create t r, .ok f m (leBytes (fencedIn b (plotList (BitVec.ofNat 64 r.plots))) 4)]) s

/-! ## PARTITION_DESTROY (R357) -/

/-- A partition is stopped and gives back everything. -/
def Act.destroy (f : Nat) : Act :=
  .whenB (fun b => (part b f).st != .empty) (Act.all [
    .stopNow f,
    .abortExports f,
    .clearDir f,
    .dropWindows f,
    .setReg (.mbxWinBase f) 0,
    .read fun b =>
      let plots := plotList (part b f).plots
      Act.all [
        .each (portList (part b f).ports) .portOff,
        .resetCores plots,
        .clearObjs plots,
        .ownObjs plots 0x1F,
        .zeroChunks f,
        .ownSlots ((List.range 64).filter fun p => slotOwner b 0 p == f) 0,
        .revokeEngines f,
        .setReg (.pwrAlloc f) 0,
        .setFld (.mbxFunc f) 7 0 0,
        .setPState f .empty,
        .onPart f (fun _ => Partition.reset),
        .showBarriers]])

def cmdDestroy : Cmd :=
  { code := 0x11, target := partTarget, func0 := true, mods := [modOperational]
    states := [.ready, .loaded, .running, .paused, .faulted], payload := fun p => p.isEmpty }

/-- PARTITION_DESTROY (R357). -/
def execPartitionDestroy (f m : Nat) (s : State) : Host.Outcome State Fault Refusal :=
  perform (isFunc f && isMbox m) (.command f m cmdDestroy fun _ t => Act.all [.destroy t, .ok f m []]) s

/-! ## Resets of functions (R366, R367) -/

/-- Bits of MBX_MB and pages, MSI-X table and pending bits: idle, zero, masked. -/
def hostSide (f a : Nat) : Bool :=
  decide ((Reg.mbxPage f 0).addr ≤ a) && decide (a < (Reg.mbxMb f 4).addr) ||
    decide ((Reg.msixTable f 0).addr ≤ a) && decide (a ≤ (Reg.msixPba f).addr)

/-- A function's commands are abandoned without effect, its mailboxes idle, its configuration as after reset. -/
def Act.resetFunc (f : Nat) : Act :=
  Act.all [
    .onFunc f (fun _ => Func.reset),
    .units (fun u => { u with
      dirReqs := u.dirReqs.filter (fun q => q.issuer != f)
      hostqs := u.hostqs.map fun x => (x.1, { x.2 with reqs := x.2.reqs.filter fun r => r.f != f }) }),
    .resetRegs fun a => !hostSide f a]

/-- A command of function 0 on f's partition is in execution (R367 step 1). -/
def zeroBusy (b : Block) (f : Nat) : Bool :=
  (match (part b f).pausing with
   | some (.command g _) => g == 0
   | _ => false) || b.dirReqs.any fun q => q.func == f && q.issuer == 0

/-- A partition's overrides return to their defaults, the values of PARTITION_CREATE (00_scope.md R14). -/
def Act.resetOverrides (f : Nat) : Act :=
  .read fun b => Act.all [
    .setReg (.mbxWinBase f) 0,
    .each (portList (part b f).ports) (fun p => Act.all [
      .resetIdentity p,
      .when (rd b (.lnkCfg p) != portCfgWord (natAt (part b f).portcfg p)) (.givePort f p (natAt (part b f).portcfg p))]),
    .when ((part b f).st != .empty) (Act.all [
      .each ([0, 1].filter fun e => e != (part b f).engine) (fun e => Act.all [
        .setReg (.tslDirCfg e f) 0, .setReg (.tslDirQuota e f) 0]),
      .grantEngines f])]

/-- Steps 2 to 6 of R367. -/
def Act.flrSteps (f : Nat) : Act :=
  .whenB (fun b => (part b f).st != .empty) (Act.all [
    .stopNow f,
    .abortExports f,
    .clearDir f,
    .dropWindows f,
    .read fun b => Act.all [
      .clearObjs (plotList (part b f).plots),
      .resetCores (plotList (part b f).plots),
      .onPart f fun p => { p with ckpts := [] }]])

/-- FLR of virtual function f (R366, R367): its commands are abandoned and its reset begins; a command of function 0 on
its partition that is in execution completes first. -/
def execFlr (f : Nat) (s : State) : Host.Outcome State Fault Refusal :=
  perform (isVf f) (.whenB (fun b => decide (f ≤ b.vfs)) (Act.all [
    .onPart f (fun p => match p.pausing with
      | some (.command g _) => if g = f then { p with pausing := p.halted.map fun _ => .halt } else p
      | _ => p),
    .resetFunc f,
    .resetOverrides f,
    .setFld (.mbxFunc f) 25 25 1,
    .whenB (fun b => !zeroBusy b f) (.flrSteps f)])) s

/-- FLR_COMPLETE: the chunks are zeroed and the data windows rebuilt; the partition is READY (R367 step 7). -/
def execFlrComplete (f : Nat) (s : State) : Host.Outcome State Fault Refusal :=
  perform (isVf f) (.whenB (fun b => flag b (.mbxFunc f) 25 && !zeroBusy b f) (Act.all [
    .flrSteps f,
    .whenB (fun b => (part b f).st != .empty) (Act.all [
      .zeroChunks f,
      .buildWindows f,
      .forgetRun f,
      .onPart f (fun p => { p with image := none, variant := 0xFF, nextGen := 0, measurement := [], taints := []
                                   sentEpochs := [], recvEpochs := [], recvAt := [] }),
      .onDir f (fun _ => DirFn.reset),
      .showDir f,
      .showBarriers,
      .setPState f .ready]),
    .setFld (.mbxFunc f) 25 25 0])) s

/-- Every partition is destroyed, the virtual functions disappear, and function 0 is reset (R366). -/
def Act.resetAll : Act :=
  Act.all [
    .each ((List.range 17).drop 1) .destroy,
    .each (List.range 17) .resetFunc,
    .each ((List.range 17).drop 1) (fun f => .setReg (.mbxWinBase f) 0),
    .each ((List.range 17).drop 1) (fun f => .setFld (.mbxFunc f) 25 25 0),
    .units fun u => { u with vfs := 0 }]

/-- FLR_FUNCTION_0: an FLR of function 0, or VF Enable cleared, which R366 gives one row. -/
def execFlrFunction0 (_ : Bool) (s : State) : Host.Outcome State Fault Refusal := perform true .resetAll s

/-- HOT_RESET: a hot reset or a disabled link (R366). A hot reset also clears PTM Enable (log 13). -/
def execHotReset (_ : Bool) (s : State) : Host.Outcome State Fault Refusal :=
  perform true (Act.all [.resetAll, .units fun u => { u with ptm := false }]) s

/-- VF_ENABLE: virtual functions 1 to NumVFs appear (R340); NumVFs changes only while none is enabled (log 13). -/
def execVfEnable (numVfs : Nat) (s : State) : Host.Outcome State Fault Refusal :=
  perform true (.whenB (fun b => answers b 0 && b.vfs == 0 && decide (numVfs ≤ Config.numVfs)) (.units fun u => { u with vfs := numVfs })) s

end Sys2Proof.Machine
end

