-- ==== Sys2Proof/Machine/Registers.lean ====
section
/-! DEFINITION. Host accesses: registers through BAR0, the windows of BAR2 and BAR4, the PCIe configuration registers
the model has, MSI-X, PTM and the UCIe modules (00_scope.md R12-R14, 01_module.md R36, 12_host.md R338-R343, R347,
R365). -/

namespace Sys2Proof.Machine

/-! ## Who answers, and what an offset names -/

/-- The device address that BAR0 offset `off` of function f maps (R342). -/
def bar0Addr (b : Block) (f off : Nat) : Option Nat :=
  if f = 0 then (if off < 2 ^ 32 then some (coreBase 0 + off) else none)
  else if off < 0x64000000 then
    (coreOfRel (plotList (part b f).plots) (off / 0x10000)).map fun c => coreBase c + off % 0x10000
  else if 0x81000000 ≤ off ∧ off < 0x81010000 then some (mbxBase + f * 0x10000 + off % 0x10000)
  else none

/-- The register that an access of n bytes reaches: none for a reserved address or another size (R36). -/
def bar0Reg (b : Block) (f off n : Nat) : Option Reg :=
  ((bar0Addr b f off).bind Reg.ofAddr).filter fun r => decide (n * 8 = r.width)

/-- The core whose frame holds a register address. -/
def frameCore (a : Nat) : Option Nat :=
  if coreBase 0 ≤ a ∧ a < coreBase Config.numCores then some ((a - coreBase 0) / 0x10000) else none

/-! ## Writes by access code (00_scope.md R12, R13) -/

/-- What a register holds after v is written to it: RW fields take v, ones clear W1C bits, the rest stays. -/
def codeWrite (r : Reg) (old v : Nat) : Nat :=
  r.fields.foldl (fun w g => match g.acc with
    | .rw => putBits w g.hi g.lo (bitsOf v g.hi g.lo)
    | .w1c => putBits w g.hi g.lo (BitVec.ofNat 64 (bitsOf old g.hi g.lo) &&& ~~~ BitVec.ofNat 64 (bitsOf v g.hi g.lo)).toNat
    | _ => w) old

/-- A field keeps its previous value where the written code is reserved (R13). -/
def keepReserved (old new hi lo code : Nat) : Nat :=
  if bitsOf new hi lo = code then putBits new hi lo (bitsOf old hi lo) else new

/-- The value a write leaves, reserved encodings and values outside a stated range keeping the old field. -/
def wordAfter (b : Block) (r : Reg) (v : Nat) : Nat :=
  let old := rd b r
  let new := codeWrite r old v
  match r with
  | .coreSslotScale _ _ => if decide (1 ≤ bitsOf v 30 23) && bitsOf v 30 23 != 255 && !bitOf v 31 then new else old
  | .synObjCfg _ => keepReserved old new 31 30 3
  | .synObjState o =>
    if objType b o = 1 then bitsOf v 15 0 else new
  | .lnkCfg _ => keepReserved old (keepReserved old (keepReserved old new 31 30 3) 29 28 3) 27 26 3
  | .lnkEthSeg _ => if decide (1024 ≤ new) && decide (new ≤ 8192) && new % 64 == 0 then new else old
  | .tslRate _ _ => if new ≤ 2000 then new else old
  | .lpdScrub _ => if 1 ≤ new ∧ new ≤ 168 then new else old
  | .mbxWinBase f => if f = 0 ∧ 31 < bitsOf new 47 36 then old else new
  | .msixTable _ w => if w % 4 = 3 then new % 2 else new
  | _ => new

/-! ## Who may write what, and when -/

/-- The partition of f is in one of some states. -/
def partIn (b : Block) (f : Nat) (l : List PState) : Bool := l.contains (part b f).st

/-- The owner of a core is LOADED or PAUSED (02_formats.md R66, 05_step_tables.md R149). -/
def ownerRests (b : Block) (o : Option Nat) : Bool := o.any fun f => partIn b f [.loaded, .paused]

/-- The registers of ring n of core c, as a ring record holds them. -/
def regRing (b : Block) (c n : Nat) : Word × Word × Word :=
  (BitVec.ofNat 32 (rd b (.strRingBase c n)), BitVec.ofNat 32 (rd b (.strRingGeom c n)),
   BitVec.ofNat 32 (rd b (.strRingObj c n)))

/-- Ring n of core c obeys R170 and R172 (06_streams.md): its geometry, two semaphores of the partition, and counts as
before the run while LOADED, with at most D + 2 slots in use otherwise. -/
def regRingOk (b : Block) (f c n : Nat) : Bool :=
  let r := regRing b c n
  recSlots r == 0 ||
    decide (3 ≤ recSlots r) && decide (recSlots r ≤ 16) && decide (1 ≤ recDepth r) &&
    decide (recDepth r + 2 ≤ recSlots r) && (ringRegion r).fits && recFull r != recFree r &&
    (match physObj b f (recFull r), physObj b f (recFree r) with
     | some x, some y =>
       objType b x == 1 && objType b y == 1 &&
       (if partIn b f [.loaded] then semCount b x == 0 && semCount b y == recDepth r + 2
        else decide (semCount b x + semCount b y ≤ recDepth r + 2))
     | _, _ => false)

/-- The rings of core c obey R170 and R172. -/
def regRingsOk (b : Block) (f c : Nat) : Bool :=
  (List.range 16).all (regRingOk b f c) && !outsMeet ((List.range 16).map fun n => ringRegion (regRing b c n))

/-- Object o obeys R157, and every ring of its partition that names it R170 and R172. -/
def regObjOk (b : Block) (f o : Nat) : Bool :=
  (objType b o == 0 ||
    decide (1 ≤ fld b (.synObjCfg o) 15 0) &&
    (objType b o != 2 || decide (1 ≤ barCount b o) && decide (barCount b o ≤ 25600))) &&
  decide (barriersIn b (o / 512) (o / 512 + 1) ≤ 128) &&
  (coresOf b f).all fun c => (List.range 16).all fun n =>
    let r := regRing b c n
    recSlots r == 0 || (some (recFull r) != relObj b f o && some (recFree r) != relObj b f o) || regRingOk b f c n

/-- A write of r may be applied now; every other is discarded and logged as R36 describes. `t` is the block as
the write would leave it. -/
def mayWrite (b t : Block) (r : Reg) : Bool :=
  match r with
  | .coreSslotScale c _ => ownerRests b (ownerOfCore b c)
  | .coreSslotCfg c _ => ownerRests b (ownerOfCore b c)
  | .seqRs c _ _ => ownerRests b (ownerOfCore b c)
  | .strRingBase c _ => (ownerOfCore b c).any fun g => partIn b g [.loaded, .paused] && regRingsOk t g c
  | .strRingGeom c _ => (ownerOfCore b c).any fun g => partIn b g [.loaded, .paused] && regRingsOk t g c
  | .strRingObj c _ => (ownerOfCore b c).any fun g => partIn b g [.loaded, .paused] && regRingsOk t g c
  | .synObjCfg o => (ownerOfPlot b (o / 512)).any fun g => partIn b g [.loaded, .paused] && regObjOk t g o
  | .synObjState o => (ownerOfPlot b (o / 512)).any fun g => partIn b g [.loaded, .paused] && regObjOk t g o
  | .chkPerm => (fld t .chkPerm 31 30 == 2 || fld t .chkPerm 31 30 == 3) && decide (1000000 ≤ fld t .chkPerm 29 0)
  | .lnkCfg p => partIn b (Machine.port b p).func [.empty, .ready]
  | .lnkEthMac p => partIn b (Machine.port b p).func [.empty, .ready]
  | .lnkEthIp6 p _ => partIn b (Machine.port b p).func [.empty, .ready]
  | .lnkEthIp4 p => partIn b (Machine.port b p).func [.empty, .ready]
  | .lnkEthL4 p => partIn b (Machine.port b p).func [.empty, .ready]
  | .lnkEthSeg p => partIn b (Machine.port b p).func [.empty, .ready]
  | .lnkEthRto p => partIn b (Machine.port b p).func [.empty, .ready]
  | .tslRate _ _ => powerFits t (usedPower t) (sumFuncs 0 (ratesOf t))
  | .tslDirCfg e g => partIn b g [.ready, .loaded] && decide (sumFuncs 0 (sharesOf t e) ≤ 64)
  | .tslDirQuota e g => partIn b g [.ready, .loaded] && decide (sumFuncs 0 (fun h => rd t (.tslDirQuota e h)) ≤ 8388608)
  | .pwrLimit =>
    decide (2470 ≤ rd t .pwrLimit) && decide (rd t .pwrLimit ≤ 15500) &&
      powerFits t (usedPower t) (sumFuncs 0 (ratesOf t))
  | .expTable _ _ => false
  | .mbxPage _ w => w % 0x800 < 0x400
  | _ => true

/-! ## What a write starts -/

/-- Vector v of f is unmasked: pending, it is sent (R365). -/
def Act.unmask (f v : Nat) : Act :=
  .read fun b => Act.all [
    .setFld (.msixTable f (4 * v + 3)) 0 0 0,
    .when ((Machine.func b f).msixEn && flag b (.msixPba f) v) (Act.all [.setFld (.msixPba f) v v 0, .emit (.msix f v)])]

/-- MSI-X Enable of f goes from 0 to 1: each event vector whose MBX_EVENT bit is 1 goes out once, and each pending
vector that is not masked any more (R365). -/
def Act.msixOn (f : Nat) : Act :=
  .read fun b => .when (!(Machine.func b f).msixEn) (Act.all [
    .onFunc f (fun s => { s with msixEn := true }),
    .each (List.range 64) fun v =>
      let due := decide (4 ≤ v) && decide (v < 8) && flag b (.mbxEvent f) (v - 4)
      .when (due || flag b (.msixPba f) v) (Act.all [.setFld (.msixPba f) v v 0, .sendVector f v])])

/-- MBX_MB_GO is written (R347): ignored while the mailbox is busy, the function is resetting or the module is
BOOTING; otherwise BUSY is set, DONE cleared and the request latched. -/
def Act.go (f m : Nat) : Act :=
  .read fun b =>
    .when (!flag b (.mbxMb f m) 1 && !flag b (.mbxFunc f) 25 && modState b != modBooting) (Act.all [
      .setFld (.mbxMb f m) 2 1 1,
      .onFunc f (fun s => { s with
        latched := smPut s.latched m { bytes := requestBytes b f m, order := b.service.accepted, begun := false } }),
      .units fun u => { u with service := { u.service with accepted := u.service.accepted + 1 } }])

/-- A port takes the mode of LNK_CFG anew: off, or training; without an owner it stays off (10_links.md R274). -/
def Act.restartPort (p : Nat) : Act :=
  .read fun b =>
    let owned := decide ((Machine.port b p).func ≤ Config.numVfs)
    .when owned (Act.all [
      .onPort p (fun t => { PortState.reset with func := t.func, laneFails := t.laneFails }),
      .setFld (.lnkStatus p) 31 28 0, .setFld (.lnkStatus p) 23 8 0,
      .setPortState p (if portMode b p = 0 then lnkOff else lnkTraining)])

/-- PWR_BOOT_CLR written by function 0: the failed-start count c is 0 (15_power_boot.md R413). -/
def Act.bootClr (f v : Nat) : Act :=
  if f = 0 then .when (bitOf v 31) (.setFld .pwrBoot 11 10 0) else .logAccess f Reg.pwrBoot.addr

/-- A word is written to a register the function reaches and may write now. Whether a training that it starts succeeds
is open (log 9). -/
def Act.writeReg (f : Nat) (r : Reg) (v : Nat) : Act :=
  .read fun b =>
    let n := wordAfter b r v
    match r with
    | .mbxMb _ m => .when (bitOf v 0) (.go f m)
    | .mbxPage _ w => .when (!flag b (.mbxMb f (w / 0x800)) 1) (.setReg r n)
    | .msixTable _ w => if w % 4 = 3 ∧ n = 0 then .unmask f (w / 4) else .setReg r n
    | .synObjState o => if objType b o = 1 then .serveWith o n else .setReg r n
    | .synObjCfg _ => Act.all [.setReg r n, .showBarriers]
    | .lnkCfg p => Act.all [.setReg r n, .when (n != rd b r) (.restartPort p)]
    | .chkUtcOffset => .when (!b.ptm) (.setReg r n)
    | .chkInject c => .chkInject f c v
    | .pwrBoot => .bootClr f v
    | .lpdTrnOvr k =>
      if bitOf v 30 then Act.all [.trnGo f k v ((Config.freeWord b.freeCtr).getLsbD 0), .bump] else .setReg r n
    | _ => .setReg r n

/-- A write of PWR_ALLOC that would break the limit of R307 (10_links.md), which is logged; every other is read-only. -/
def allocBreaks (b : Block) (r : Reg) (v : Nat) : Bool :=
  match r with
  | .pwrAlloc f => !powerFits b (usedPower b - (part b f).power + v % 2 ^ 16) (sumFuncs 0 (ratesOf b))
  | _ => false

/-- A write of v to a register by function f (R12, R36, R343): what it may not write now is discarded and logged; a
write by a virtual function to its core frames while its partition is RUNNING, too; a write by function 0 to another
function's mailbox instance is discarded. -/
def Act.hostWrite (f : Nat) (r : Reg) (v : Nat) : Act :=
  .read fun b =>
    let t := (Act.setReg r (wordAfter b r v)).run b
    let inFrame := (frameCore r.addr).isSome
    let foreign := decide (mbxBase ≤ r.addr) && decide (r.addr < synBase) && (r.addr - mbxBase) / 0x10000 != f
    if foreign then .nop
    else if f ≠ 0 ∧ inFrame ∧ (part b f).st = .running then .logAccess f r.addr
    else if allocBreaks b r v then .logAccess f r.addr
    else if mayWrite b t r then .writeReg f r v
    else .logAccess f r.addr

/-! ## PCIe configuration registers of the model (log 22) -/

/-- REGISTER_WRITE and REGISTER_READ_CLEAR offsets from here on are PCIe configuration space. -/
def cfgBase : Nat := 0x100000000

/-- The offsets of the Command register, MSI-X Enable and PTM Enable. -/
def cfgCommand : Nat := cfgBase + 4
def cfgMsix : Nat := cfgBase + 0x40

/-- The table size field beside MSI-X Enable: 64 vectors, as one less (R340, log 22). -/
def msixSize : Nat := 63
def cfgPtm : Nat := cfgBase + 0x100

/-- A 32-bit configuration word: the bits that R340 and R342 fix, what they read as, and the bits that a write sets. Its
other bits are open. -/
structure CfgWord where
  known : Nat
  value : Nat
  writable : Nat
deriving DecidableEq, Repr

/-- Word w (0 to 5) of three 64-bit BARs (R342): the type, the size by the address bits that read 0, and the prefetchable
bit; the first of 4 GiB, the others of 64 GiB. -/
def barWord (w : Nat) : CfgWord :=
  if w % 2 = 0 then { known := 2 ^ 32 - 1, value := if w = 0 then 0b0100 else 0b1100, writable := 0 }
  else { known := 2 ^ 32 - 1, value := 0, writable := if w = 1 then 2 ^ 32 - 1 else 2 ^ 32 - 2 ^ 4 }

/-- Configuration words at their offsets in the model's layout (log 22): the BARs of function 0 in its header, those of the
virtual functions in its SR-IOV capability; power state D0 or D3hot; Device Capabilities with payloads of up to 512 bytes
and FLR; Device Control with payload size, read request size and Relaxed Ordering, and its second word with ID-Based
Ordering; 14-bit tags as completer and requester; no AtomicOps, TPH, ASPM or ECRC; TotalVFs, First VF Offset and VF Stride,
the virtual functions' Device ID; the ARI capability; the AER capability with status, mask and severity of uncorrectable
errors, status and mask of correctable ones, and its control word. No rule gives an error that sets an AER status bit. -/
def cfgWord (f off : Nat) : CfgWord :=
  let o := off - cfgBase
  let free : CfgWord := { known := 0, value := 0, writable := 0 }
  if o = 0x44 then { known := 3, value := 0, writable := 3 }
  else if o = 0x48 then { known := 0x70F0, value := 0, writable := 0x70F0 }
  else if o = 0x4C then { known := 2 ^ 28 + 7, value := 2 ^ 28 + 2, writable := 0 }
  else if o = 0x50 then { known := 0x3C0, value := 0, writable := 0x300 }
  else if o = 0x54 then { known := 6, value := 6, writable := 0 }
  else if o = 0x58 then { known := 4, value := 0, writable := 4 }
  else if o = 0x5C then { known := 0x33C0, value := 0, writable := 0 }
  else if o = 0x60 then { known := 0xC00, value := 0, writable := 0 }
  else if o = 0x64 then { known := 3, value := 0, writable := 0 }
  else if o = 0x140 then { known := 0xFFFF, value := 0x000E, writable := 0 }
  else if o = 0x150 then { known := 0xFFFF, value := 0x0001, writable := 0 }
  else if o = 0x154 ∨ o = 0x160 then { known := 2 ^ 32 - 1, value := 0, writable := 0 }
  else if o = 0x158 ∨ o = 0x15C then { known := 2 ^ 32 - 1, value := 0, writable := 0x06F7F030 }
  else if o = 0x164 then { known := 2 ^ 32 - 1, value := 0, writable := 0xF1C1 }
  else if o = 0x168 then { known := 0x1E0, value := 0, writable := 0 }
  else if f ≠ 0 then free
  else if 0x10 ≤ o ∧ o < 0x28 ∧ o % 4 = 0 then barWord ((o - 0x10) / 4)
  else if 0x120 ≤ o ∧ o < 0x138 ∧ o % 4 = 0 then barWord ((o - 0x120) / 4)
  else if o = 0x110 then { known := 2 ^ 32 - 1, value := 16 * 2 ^ 16 + 16, writable := 0 }
  else if o = 0x118 then { known := 2 ^ 32 - 1, value := 2 ^ 16 + 1, writable := 0 }
  else if o = 0x11C then { known := 0xFFFF0000, value := 0xB3F1 * 2 ^ 16, writable := 0 }
  else free

/-- What a configuration word holds before it is written: read requests of 512 bytes and Relaxed Ordering on in Device
Control, and the AER masks and severities of the family (PRESUMED, log 22), else 0. -/
def cfgReset (off : Nat) : Nat :=
  if off = cfgBase + 0x48 then 0x2010
  else if off = cfgBase + 0x158 then 0x00400000
  else if off = cfgBase + 0x15C then 0x00462030
  else if off = cfgBase + 0x164 then 0x6000 else 0

/-- The written bits of a configuration word. -/
def cfgHeld (b : Block) (f off : Nat) : Nat := smGetD (func b f).cfg off (cfgReset off)

/-- A written value that R340 does not support keeps the field: power states but D0 and D3hot, payloads above 512 bytes, read
requests above 4,096 bytes. -/
def cfgKeep (off old v : Nat) : Nat :=
  if off = cfgBase + 0x44 then (if v % 4 = 0 ∨ v % 4 = 3 then v else old)
  else if off = cfgBase + 0x48 then
    let v := if bitsOf v 7 5 ≤ 2 then v else putBits v 7 5 (bitsOf old 7 5)
    if bitsOf v 14 12 ≤ 5 then v else putBits v 14 12 (bitsOf old 14 12)
  else v

/-- A configuration write: Bus Master Enable, MSI-X Enable, or PTM Enable of function 0 and the writable bits of the
other words (R340, R341, R342, R365). -/
def Act.configWrite (f off v : Nat) : Act :=
  if off = cfgCommand then .onFunc f fun s => { s with bme := bitOf v 2 }
  else if off = cfgMsix then (if bitOf v 0 then .msixOn f else .onFunc f fun s => { s with msixEn := false })
  else if off = cfgPtm ∧ f = 0 then .units fun u => { u with ptm := bitOf v 0 }
  else
    let w := (cfgWord f off).writable
    .when (w != 0) (.read fun b =>
      .onFunc f fun s => { s with cfg := smPut s.cfg off (cfgKeep off (cfgHeld b f off) v &&& w) })

/-- What a configuration read returns: identity, the Command register's Bus Master Enable, the class code, the enables,
NumVFs, and the words of cfgWord; other configuration bits are open (R340, log 9). -/
def configRead (b : Block) (f off : Nat) : Nat :=
  if off = cfgBase then Config.vendorId.toNat + (if f = 0 then 0xB3F0 else 0xB3F1) * 65536
  else if off = cfgCommand then
    putBits ((Config.freeWord b.freeCtr).toNat % 2 ^ 32) 2 2 (func b f).bme.toNat
  else if off = cfgBase + 8 then 0x120000 * 256 + (Config.freeWord b.freeCtr).toNat % 256
  else if off = cfgMsix then (func b f).msixEn.toNat + msixSize * 2 ^ 16
  else if off = cfgPtm ∧ f = 0 then b.ptm.toNat
  else if off = cfgBase + 0x114 ∧ f = 0 then b.vfs
  else
    let w := cfgWord f off
    w.value ||| (cfgHeld b f off &&& w.writable) |||
      ((Config.freeWord b.freeCtr).toNat % 2 ^ 32 &&& (2 ^ 32 - 1 - w.known))

/-! ## The commands -/

/-- REGISTER_WRITE: function f writes n bytes at offset `off` of its BAR0, or of its configuration space. -/
def execRegisterWrite (f off n : Nat) (value : DWord) (s : State) : Host.Outcome State Fault Refusal :=
  perform (isFunc f) (.read fun b =>
    .when (answers b f) (
      if cfgBase ≤ off then .configWrite f off value.toNat
      else match bar0Reg b f off n with
        | some r => .hostWrite f r value.toNat
        | none => .logAccess f ((bar0Addr b f off).getD (coreBase 0 + off)))) s

/-- The RC fields of a register go to 0. -/
def Act.readClear (r : Reg) : Act :=
  .read fun b =>
    let rc := r.fields.filter fun g => g.acc == .rc
    .when (!rc.isEmpty) (.setReg r (rc.foldl (fun w g => putBits w g.hi g.lo 0) (rd b r)))

/-- REGISTER_READ_CLEAR: function f reads n bytes at offset `off` of its BAR0, or of its configuration space; RC fields
clear (R12). Another access reads all ones and is logged (R36). -/
def execRegisterReadClear (f off n : Nat) (s : State) : Host.Outcome State Fault Refusal :=
  perform (isFunc f) (.read fun b =>
    .when (answers b f) (
      if cfgBase ≤ off then Act.all [.emit (.readData (leBytes (configRead b f off) 4)), .bump]
      else match bar0Reg b f off n with
        | some r => Act.all [.emit (.readData (leBytes (rd b r) n)), .readClear r]
        | none => Act.all [.emit (.readData (List.replicate n 0xFF)),
            .logAccess f ((bar0Addr b f off).getD (coreBase 0 + off))])) s

/-- Device-address segments of a BAR2 access of len bytes at offset off, and the pages used (R342, R343): function 0
reaches the LPDDR5X window without the module reserve (13_memory.md R369), a virtual function its partition's mappings. -/
def bar2Segs (b : Block) (f off len : Nat) (write : Bool) : Option (List (Nat × Nat) × List Mapping) :=
  let va := fld b (.mbxWinBase f) 47 36 * 2 ^ 36 + off
  if f = 0 then
    let a := lpddrBase + va
    let k := va / ctlBytes
    if va + len ≤ 16 * ctlBytes ∧ (va + len - 1) / ctlBytes = k ∧ va % ctlBytes + len ≤ 0x11C0000000 then some ([(a, len)], [])
    else none
  else if flag b (.mbxFunc f) 25 then none
  else match translate b f write va len with
    | .ok segs used => some (segs, used)
    | .fault _ _ _ => none

/-- Scratch address of a BAR4 access: core k at k × 2 MiB, relative cores for a virtual function, populated bytes only
(R342, 01_module.md R32). -/
def bar4Addr (b : Block) (f off len : Nat) : Option Nat :=
  let c := if f = 0 then (if off / 0x200000 < Config.numCores then some (off / 0x200000) else none)
           else coreOfRel (plotList (part b f).plots) (off / 0x200000)
  c.bind fun c => if off % 0x200000 + len ≤ 0x140000 then some (scratchAt c (off % 0x200000)) else none

/-- The controller of a segment serves it: it is ready; a fenced one's capacity has left the module (13_memory.md R376,
R386). -/
def holdsData (b : Block) (a : Nat) : Bool := lpdState b (ctlOf a) == lpdReady

/-- Bytes of a segment; of a controller that is off, fenced or in self-refresh, and of a checkpoint generation, they are
open (log 9). -/
def segRead (b : Block) (s : Nat × Nat) : Bytes :=
  if holdsData b s.1 && (areaOf b s.1 s.2).isEmpty then segBytes b [s]
  else (List.range s.2).map fun i => Config.abandonedByte b.freeCtr (s.1 + i)

/-- A BAR2 access that no mapping admits (R343): its walks wait in host-path slots, and it is logged as a translation fault
without effect on the partition. -/
def Act.bar2Fault (f va len : Nat) (write : Bool) : Act :=
  Act.all [
    .read fun b => .when (f != 0 && !flag b (.mbxFunc f) 25) (match translate b f write va len with
      | .fault x used a => .useHostTlb f used (x.walked a)
      | .ok _ _ => .nop),
    .when (!write) (.emit (.readData (List.replicate len 0xFF))),
    .read fun b => .log { partRecord b f with detector := 0x22, syndrome := va % 2 ^ 64 * 65536 }]

/-- A BAR2 access: its bytes move at once, and its blocks wait for their host-path slots (R346, log 48). -/
def Act.bar2 (f off len : Nat) (data : Option Bytes) : Act :=
  .read fun b =>
    match bar2Segs b f off len data.isSome with
    | none => .bar2Fault f (fld b (.mbxWinBase f) 47 36 * 2 ^ 36 + off) len data.isSome
    | some (segs, used) =>
      let served := segs.filter fun s => holdsData b s.1
      Act.all [
        .when (f != 0) (.useHostTlb f used),
        .queueBar f data.isSome served,
        match data with
        | none => Act.all [.emit (.readData (segs.flatMap (segRead b))), .bump,
            .each served fun s => .read fun b => .readBad (partAt b s.1) 2 [s]]
        | some bs => .when (segs.all fun s => holdsData b s.1) (Act.all [.spoilCkpts segs, .setSegs segs bs])]

/-- A BAR4 access. -/
def Act.bar4 (f off len : Nat) (data : Option Bytes) : Act :=
  .read fun b =>
    match bar4Addr b f off len with
    | none => Act.all [.when data.isNone (.emit (.readData (List.replicate len 0xFF))), .logAccess f off]
    | some a => match data with
      | none => .emit (.readData (bytesAt b a len))
      | some bs => .setMem a bs

/-- HOST_BAR_ACCESS: a read or write of 1 byte or more through BAR2 (bar 1) or BAR4 (bar 2) of function f; a virtual
function's write while its partition is RUNNING is discarded and logged (R343). -/
def execHostBarAccess (f bar off len : Nat) (data : Option Bytes) (s : State) : Host.Outcome State Fault Refusal :=
  perform (isFunc f) (.read fun b =>
    .when (answers b f && (bar == 1 || bar == 2) && decide (1 ≤ len) && decide (off + len ≤ 2 ^ 36) &&
        data.all (fun d => d.length == len)) (
      if f ≠ 0 ∧ data.isSome ∧ (part b f).st = .running then
        .logAccess f (if bar = 1 then fld b (.mbxWinBase f) 47 36 * 2 ^ 36 + off else off)
      else if bar = 1 then .bar2 f off len data else .bar4 f off len data)) s

/-- PWR_BOOT_CLR: a write of PWR_BOOT (R413). -/
def execPwrBootClr (f : Nat) (value : Word) (s : State) : Host.Outcome State Fault Refusal :=
  perform (isFunc f) (.whenB (fun b => answers b f) (.bootClr f value.toNat)) s

/-- MSIX_ENABLE: MSI-X Enable of f is set. -/
def execMsixEnable (f : Nat) (s : State) : Host.Outcome State Fault Refusal :=
  perform (isFunc f) (.whenB (fun b => answers b f) (.msixOn f)) s

/-- MSIX_UNMASK: the mask bit of vector v of f is cleared. -/
def execMsixUnmask (f v : Nat) (s : State) : Host.Outcome State Fault Refusal :=
  perform (isFunc f && decide (v < 64)) (.whenB (fun b => answers b f) (.unmask f v)) s

/-- PTM_REQUEST: with PTM enabled on function 0, Sorrel sends a request (R341). -/
def execPtmRequest (s : State) : Host.Outcome State Fault Refusal :=
  perform true (.whenB (fun b => answers b 0 && b.ptm) (.emit .ptmRequest)) s

/-- PTM_RESPONSE: the master time less 160 ns times the beat count becomes CHK_UTC_OFFSET (R341). -/
def execPtmResponse (utc : DWord) (s : State) : Host.Outcome State Fault Refusal :=
  perform true (.whenB (fun b => answers b 0 && b.ptm)
    (.read fun b => .setReg .chkUtcOffset (utc.toNat + (2 ^ 64 - 160 * beat b % 2 ^ 64)))) s

/-! ## UCIe (R338, R339) -/

/-- UCIe module i carries link traffic. -/
def inLink (b : Block) (i : Nat) : Bool := flag b (.uciStatus i) 23

/-- Module i is active at a rate in the link, or down and out of it. -/
def Act.uciState (i rate : Nat) : Act :=
  Act.all [
    .whenB (fun b => decide (rate = 0) && inLink b i) (.count (.uciDowns i) 1),
    .setReg (.uciStatus i) (if rate = 0 then 0 else 2 * 2 ^ 28 + rate * 2 ^ 24 + 2 ^ 23)]

/-- UCIE_LINK_TRAINING: the host die trains the link; ok0 and ok1 say which modules trained every lane, at32 whether
32 GT/s succeeded. All trained modules run at one rate, 16 GT/s where 32 fails or a module's UCI_CFG selects it. -/
def execUcieLinkTraining (ok0 ok1 at32 : Bool) (s : State) : Host.Outcome State Fault Refusal :=
  perform true (.read fun b => .when (b.power.phase == .locked) (
    let slow := (ok0 && flag b (.uciCfg 0) 0) || (ok1 && flag b (.uciCfg 1) 0)
    let rate := if at32 && !slow then 2 else 1
    Act.all [.uciState 0 (if ok0 then rate else 0), .uciState 1 (if ok1 then rate else 0)])) s

/-- UCIE_LANE_FAILURE: module `mdl` leaves the link, which retrains on the other one alone; it rejoins at the next
training. -/
def execUcieLaneFailure (mdl : Nat) (s : State) : Host.Outcome State Fault Refusal :=
  perform (decide (mdl < 2)) (.whenB (fun b => inLink b mdl) (.uciState mdl 0)) s

end Sys2Proof.Machine
end

