-- ==== Sys2Proof/Machine/Power.lean ====
section
/-! DEFINITION. Supply, references, cooling, trips, boot (14_module_hw.md R391 to R401, 15_power_boot.md R405 to R413,
R418). -/

namespace Sys2Proof.Machine

/-! ## What a reset of the module leaves (12_host.md R366, 14_module_hw.md R396) -/

/-- A register that fuses, flash or the power-stage controller keep through a module reset. -/
def keptReg (r : Reg) : Bool :=
  match r with
  | .srlSerial => true
  | .pwrLastTrip => true
  | .pwrBoot => true
  | .pwrBootRsn => true
  | .secStatus => true
  | .secArb => true
  | .secKeyhash _ _ => true
  | .chkSession => true
  | .chkFenced => true
  | .chkLogSeq => true
  | _ => false

/-- Addresses that a reset keeps; a warm restart keeps the beat count too (15_power_boot.md R407). -/
def keptAddr (warm : Bool) (a : Nat) : Bool :=
  (Reg.ofAddr a).any fun r => keptReg r || (warm && r == .srlBeat)

/-- The last record that reached the flash log. -/
def lastLogged (l : List Bytes) : Nat := (l.getLast?.map recSeq).getD 0xFFFFFFFF

/-- Everything but what flash, fuses and the power stage keep is lost; the levels of the module's inputs are not its own, and
a warm restart leaves the root PLL as it is (15_power_boot.md R407). -/
def Act.resetModule (warm : Bool) : Act :=
  Act.all [
    .resetRegs (keptAddr warm),
    .resetMem (fun _ => false),
    .setFld .secStatus 2 0 0,
    .units (fun u =>
      let p : Power := { u.power with
        holdover := warm && u.power.holdover, watchdog := false, stage1 := false, entered := none,
        harts := List.replicate 4 (.startedAt 0), keepers := []
        session := none, dormantReq := none, wake := none, hotSensors := [], haltSensors := [], haltCoolant := false, halt := none, failed := [], rails := [], i3cAddr := none, i3cOpen := false }
      { Units.reset with
        freeCtr := u.freeCtr, outbox := u.outbox, power := p
        campion := { u.campion with buffer := [] }
        lpds := u.lpds.map fun x => (x.1, { Lpd.reset with trainFails := x.2.trainFails }) }),
    .read fun b => .setReg .chkLogSeq (lastLogged b.campion.log)]

/-! ## Conditions of the inputs (14_module_hw.md R400) -/

/-- A condition of PWR_IN_STATUS begins: status and latch. -/
def Act.inBegin (i : Nat) : Act := Act.all [.setFld .pwrInStatus i i 1, .setFld .pwrInLatch i i 1]

/-- The module runs: its monitor acts. -/
def monitors (b : Block) : Bool := b.power.phase == .locked

/-- The PWR_IN_STATUS bit and the input code of a reference: 0 REF100, 1 REF156_0, 2 REF156_1. -/
def refBit (n : Nat) : Nat := if n = 0 then 5 else n + 2
def refInput (n : Nat) : Nat := 0x101 + n

/-- A record of a lost or restored reference; the value is open, since no PWR_ register holds one (log 9). -/
def Act.logRef (input : Nat) : Act :=
  .read fun b => Act.all [.logEvent 0x37 input (Config.freeWord b.freeCtr).toNat 0, .bump]

/-- The condition of every reference that is lost begins where its status bit does not show it: at the loss, and again after
a reset of the registers; with REF100 lost the root PLL is in holdover (14_module_hw.md R394). -/
def Act.reassert : Act :=
  .read fun b => .each (b.power.refs.filter fun n => decide (n < 3) && !flag b .pwrInStatus (refBit n)) fun n => Act.all [
    .inBegin (refBit n),
    .when (n == 0) (.power fun p => { p with holdover := true }),
    .logRef (refInput n)]

/-! ## The boot record (R412) -/

/-- The failed-start count c. -/
def bootFails (b : Block) : Nat := fld b .pwrBoot 11 10

/-- A boot counts as a failed start with a reason. -/
def Act.failedStart (r : Nat) : Act :=
  .read fun b => Act.all [
    .power (fun p => { p with reason3 := fld b .pwrBootRsn 15 0 }),
    .setReg .pwrBootRsn (r * 2 ^ 16 + fld b .pwrBootRsn 31 16),
    .setFld (.telBoot 0) 15 0 r]

/-- A boot in progress has armed the watchdog, and so has counted itself. -/
def booting (b : Block) : Bool := b.power.phase == .locked && modState b == modBooting && b.power.watchdog

/-! ## Boot (R406) -/

/-- The slot a boot runs: the one tried first by the value of c, or the other where it is not valid (R412). -/
def chooseSlot (b : Block) (c : Nat) : Option Nat :=
  let pref := fld b .pwrBoot 17 17
  let first := if c = 1 then 1 - pref else pref
  if (bootable b (fwSlot b first)).isNone then some first
  else if (bootable b (fwSlot b (1 - first))).isNone then some (1 - first) else none

/-- Reason of a boot without a valid slot: 2 where a slot fails by its SVN alone (R413). -/
def noSlotReason (b : Block) : Nat :=
  if bootable b (fwSlot b 0) = some .rollback ∨ bootable b (fwSlot b 1) = some .rollback then 2 else 1

/-- TEL_BOOT_STAGE. -/
def Act.stage (n : Nat) : Act := .setFld (.telBoot 0) 31 28 n

/-- Stage 5: controller k is trained; a failure at two consecutive boots is permanent (13_memory.md R370, R376). -/
def Act.bootTrain (trained : List Nat) (k : Nat) : Act :=
  .read fun b =>
    let ok := trained.contains k
    let again := decide (1 ≤ (Machine.lpd b k).trainFails)
    Act.all [
      .trained k ok,
      .onLpd k (fun x => { x with trainFails := if ok then 0 else x.trainFails + 1 }),
      .when (!ok && again) (.fence 7 k 4)]

/-- Slots 0, 16, 32 and 48 form the host path on every controller (13_memory.md R371). -/
def Act.hostPath : Act := .ownSlots [0, 16, 32, 48] 0x80

/-- Stage 6: a unit that fails the march test is recorded and fenced. -/
def Act.marchFail (x : Nat × Nat) : Act :=
  .when ((x.1 == 2 || x.1 == 3) && unitExists x.1 x.2) (Act.all [
    .opt (coreOfUnit x.1 x.2) (fun c => .coreDetection c 0x0B),
    .detect x.1 x.2 0x0B,
    .read (fun b => .log { Tansy.none with uclass := x.1, unit := x.2, detector := 0x0B, disp := 5
                                           hist := histTotal b x.1 x.2 }),
    .fence x.1 x.2 5])

/-- Stage 7: fences shown, the trip cause logged as event 0x3A with its sensor or input (14_module_hw.md R401); of a reset
that no sensor and no supply input caused, that number is open (log 9). -/
def Act.bootHistory : Act :=
  .read fun b => Act.all [
    .each (b.campion.hist.filter fun h => h.fenced) (fun h => .showFence h.uclass h.unit),
    .logEvent 0x3A (b.power.tripInput.getD ((Config.freeWord b.freeCtr).toNat % 65536)) (rd b .pwrLastTrip) 0,
    .bump]

/-- Stage 8: fuses are burnt until the anti-rollback counter has reached the image's SVN (R411); then the boot record and the
module state. Where power fails first the counter has got as far as it has, and the boot goes no further. -/
def Act.bootDone (k : Nat) (burnt : Option Nat) : Act :=
  .read fun b =>
    let goal := max (arbCount b) (slotSvn (fwSlot b k))
    let got := match burnt with
      | some n => min goal (arbCount b + n)
      | none => goal
    Act.all [
      .setFld .secArb 7 0 got,
      .when (got == goal) (Act.all [
        .setFld .pwrBoot 11 10 0, .setFld .pwrBoot 17 17 k,
        .power (fun p => { p with watchdog := false }),
        .stage 0xF,
        .setReg (.telBootTime 0) (beat b),
        .setModState modOperational])]

/-- Stages 4 to 8 with slot k; `retry` is what follows a failed start. -/
def Act.runFirmware (x : BootIn) (k : Nat) (retry : Nat → Act) : Act :=
  let from7 : Act := Act.all [.stage 7, if x.hangs = 7 then .nop else Act.all [.bootHistory, .bootDone k x.burnt]]
  let from6 : Act := Act.all [.stage 6, if x.hangs = 6 then .nop else Act.all [.each x.bad .marchFail, from7]]
  let from5 : Act := Act.all [.stage 5, if x.hangs = 5 then .nop else Act.all [
    .hostPath,
    .each (List.range 16) (.bootTrain x.trained),
    .read fun b => if (List.range 16).any fun k => lpdState b k == lpdReady then from6 else retry 6]]
  Act.all [
    .setFld .pwrBoot 16 16 k, .stage 4,
    .read (fun b => .power fun p => { p with
      entered := some (k, entryOf b (fwSlot b k)), harts := List.replicate 4 (.startedAt (entryOf b (fwSlot b k))) }), .bump,
    if x.hangs = 4 then .nop else from5]

/-- MINIMAL: the ROM serves from here on; the latest failed start is reported, no watchdog waits (R413). -/
def Act.minimal : Act :=
  Act.all [
    .setFld .pwrBoot 16 16 0,
    .power (fun p => { p with watchdog := false }),
    .setModState modMinimal]

/-- A boot begins: a new power-on session, which the history's header names (11_integrity.md R329, R336), and stage 1. -/
def Act.bootStart : Act :=
  .read fun b =>
    let n := (rd b .chkSession + 1) % 2 ^ 32
    Act.all [
      .setReg .chkSession n,
      .campion (fun k => k.settle n k.current.head),
      .stage 1,
      .power fun p => { p with stage1 := true }]

/-- The boot in stage 1 as its hardware turns out to be, and each boot that follows a failed start by a warm restart (R406,
R407, R412). With no more given, the latest one stands in stage 1. -/
def Act.boot : List BootIn → Act
  | [] => .nop
  | x :: r =>
    let retry (why : Nat) : Act := Act.all [.failedStart why, .resetModule true, .reassert, .bootStart, Act.boot r]
    Act.all [
      .power (fun p => { p with stage1 := false }),
      if !x.stage1 then .setFld (.telBoot 0) 15 0 5
      else .read fun b =>
        let c := bootFails b
        Act.all [
          .power (fun p => { p with cBefore := c, watchdog := true }),
          .setFld .pwrBoot 11 10 (min 3 (c + 1)),
          .stage 2,
          if !x.stage2 then retry 4
          else Act.all [
            .setFld .secStatus 2 0 7,
            .stage 3,
            if c = 3 then .minimal
            else .read fun b => match chooseSlot b c with
              | none => retry (noSlotReason b)
              | some k => .runFirmware x k retry]]]

/-- The boot that follows root PLL lock, or a warm restart. -/
def Act.bootNow (l : List BootIn) : Act := .seq .bootStart (.boot l)

/-! ## Power-up (14_module_hw.md R395) -/

/-- POWER_ON: the standby domain starts. -/
def execPowerOn (s : State) : Host.Outcome State Fault Refusal :=
  perform true (.whenB (fun b => b.power.phase == .off) (.power fun p => { p with phase := .standby })) s

/-- MAIN_RAIL_START: steps 3 to 5. MRST_N low or REF100 lost holds the sequence at step 4; a trip that is latched, or whose
condition still stands, keeps the rails down (R397). -/
def execMainRailStart (s : State) (stands : Bool := false) : Host.Outcome State Fault Refusal :=
  perform true (.whenB (fun b => b.power.phase == .standby && b.power.trips.isEmpty && !stands && !b.power.mrstLow &&
      !b.power.refs.contains 0)
    (.power fun p => { p with phase := .rails, cause := 0 })) s

/-- ROOT_PLL_LOCK: step 6, with the first pulse of BSYNC (R391), and the boot. -/
def execRootPllLock (boots : List BootIn) (s : State) : Host.Outcome State Fault Refusal :=
  perform true (.whenB (fun b => b.power.phase == .rails) (Act.all [
    .setReg .srlBeat 0,
    .power (fun p => { p with phase := .locked, bsync := true }),
    .emit .bsync,
    .reassert,
    .bootNow boots])) s

/-- WATCHDOG_EXPIRY: a boot that has not reached OPERATIONAL is a failed start with reason 3, and the boot starts
again (R407). A boot that stands in stage 1 has armed no watchdog: there the command brings what that boot turns out to be,
and nothing expires (log 59). -/
def execWatchdogExpiry (boots : List BootIn) (s : State) : Host.Outcome State Fault Refusal :=
  perform true (.read fun b =>
    if b.power.stage1 then .boot boots
    else .when (booting b) (Act.all [.failedStart 3, .resetModule true, .reassert, .bootNow boots])) s

/-! ## Trips and resets (R396, R397) -/

/-- Bits of the latched PMBus status (log 23): STATUS_INPUT in [7:0], STATUS_TEMPERATURE in [15:8]. -/
def pmbVinOvFault : Nat := 7
def pmbVinOvWarn : Nat := 6
def pmbVinUvWarn : Nat := 5
def pmbVinUvFault : Nat := 4
def pmbOtFault : Nat := 15
def pmbOtWarn : Nat := 14

def Act.pmbLatch (i : Nat) : Act :=
  .power fun p => { p with pmbusStatus := p.pmbusStatus ||| BitVec.ofNat 32 (2 ^ i) }

/-- The rails are up. -/
def railsUp (b : Block) : Bool := b.power.phase == .rails || b.power.phase == .locked

/-- The cause of a trip or reset: with others since the rails were last up, the first in the order of R397 is the one kept.
`input` is what caused it (R401). -/
def Act.blame (cause : Nat) (input : Option Nat) : Act :=
  .read fun b => .when (b.power.cause == 0 || decide (cause < b.power.cause)) (Act.all [
    .setReg .pwrLastTrip cause,
    .power fun p => { p with cause := cause, tripInput := input }])

/-- The rails fall; a boot in progress does not count (15_power_boot.md R412). -/
def Act.railsDown : Act :=
  .read fun b => .when (railsUp b) (Act.all [
    .when (booting b) (.setFld .pwrBoot 11 10 b.power.cBefore),
    .resetModule false,
    .power fun p => { p with phase := .standby, bsync := false }])

/-- A trip: the rails fall, and it keeps them down. -/
def Act.tripDown (cause input : Nat) : Act :=
  Act.all [.railsDown, .blame cause (some input), .power fun p => { p with
    trips := if p.trips.contains cause then p.trips else p.trips ++ [cause] }]

/-- The standby domain is active. -/
def standbyOn (b : Block) : Bool := b.power.phase != .off

/-- The number of the VIN input (R401). -/
def vinInput : Nat := 0x100

/-- UNDERVOLTAGE_TRIP. -/
def execUndervoltageTrip (s : State) : Host.Outcome State Fault Refusal :=
  perform true (.whenB standbyOn (Act.all [.pmbLatch pmbVinUvFault, .tripDown 2 vinInput])) s

/-- OVERVOLTAGE_TRIP: latches. -/
def execOvervoltageTrip (s : State) : Host.Outcome State Fault Refusal :=
  perform true (.whenB standbyOn (Act.all [.pmbLatch pmbVinOvFault, .tripDown 1 vinInput])) s

/-- HARDWARE_TRIP of a junction, package or power-stage sensor: latches (R399). -/
def execHardwareTrip (sensor : Nat) (s : State) : Host.Outcome State Fault Refusal :=
  perform (decide (sensor < 92)) (.whenB (fun b => standbyOn b && decide (sensor < 90))
    (Act.all [.pmbLatch pmbOtFault, .tripDown 3 sensor])) s

/-- The module reset of MRST_N. -/
def Act.mrstReset : Act :=
  .whenB railsUp (Act.all [.railsDown, .blame 4 none])

/-- MRST_N has been low for some ns, and may have risen again (R396): below 1 microsecond nothing, from 10 on a reset, which
releases the latched trips (R397); a pulse between them is open (log 9). -/
def execMrstN (lowNs : Nat) (s : State) (risen : Bool := true) : Host.Outcome State Fault Refusal :=
  perform true (Act.all [
    .power (fun p => { p with mrstLow := !risen }),
    .whenB standbyOn (
      if lowNs < 1000 then .nop
      else if lowNs < 10000 then .when risen (.read fun b => Act.all [.bump, .when (Config.pulseResets b.freeCtr) .mrstReset])
      else Act.all [.mrstReset, .power fun p => { p with trips := p.trips.filter fun k => k == 2 }])]) s

/-- UNDERVOLTAGE_RESTART: VIN is back in the operating range (R397). -/
def execUndervoltageRestart (s : State) : Host.Outcome State Fault Refusal :=
  perform true (.whenB (fun b => b.power.phase == .standby)
    (.power fun p => { p with trips := p.trips.filter fun k => k != 2 })) s

/-- STANDBY_DOMAIN_OFF: VIN below 38 V (R392), so the rails have fallen by undervoltage; latched trips are released (R397), and
what the power-stage controller does not keep is gone. -/
def execStandbyDomainOff (s : State) : Host.Outcome State Fault Refusal :=
  perform true (.whenB standbyOn (Act.all [
    .whenB railsUp (Act.all [.railsDown, .blame 2 (some vinInput)]),
    .power fun p => { p with phase := .off, trips := [], cause := 0, pmbusStatus := 0, pmbusOpen := false }])) s

/-! ## Conditions (R400, R401) -/

/-- A warning as its input now stands: it begins with one record, or ends. -/
def Act.inWarn (i : Nat) (on : Bool) (code input value : Nat) : Act :=
  .whenB (fun b => flag b .pwrInStatus i != on)
    (if on then Act.all [.inBegin i, .logEvent code input value 0] else .setFld .pwrInStatus i i 0)

/-- SUPPLY_WARNING: VIN in 10 mV; 48 to 50 V and 60 to 63 V warn, 50 to 60 V ends a warning. -/
def execSupplyWarning (vin : BitVec 16) (s : State) : Host.Outcome State Fault Refusal :=
  perform true (.whenB monitors (
    let v := vin.toNat
    .when (decide (4800 ≤ v) && decide (v ≤ 6300)) (Act.all [
      .setReg .pwrVin v,
      .when (decide (v < 5000)) (.pmbLatch pmbVinUvWarn),
      .when (decide (6000 < v)) (.pmbLatch pmbVinOvWarn),
      .inWarn 7 (decide (v < 5000)) 0x36 0x100 v,
      .inWarn 6 (decide (6000 < v)) 0x36 0x100 v]))) s

/-- REF100_LOST (R394): holdover; while the rails start, they fall and the sequence waits (R395). -/
def execRef100Lost (s : State) : Host.Outcome State Fault Refusal :=
  perform true (Act.all [
    .power (fun p => { p with refs := if p.refs.contains 0 then p.refs else p.refs ++ [0] }),
    .whenB (fun b => b.power.phase == .rails) (.power fun p => { p with phase := .standby }),
    .whenB monitors .reassert]) s

/-- REF156_LOST: every port on edge die n goes down; no lane has failed (R394). -/
def execRef156Lost (n : Nat) (s : State) : Host.Outcome State Fault Refusal :=
  perform (decide (n < 2)) (Act.all [
    .power (fun p => { p with refs := if p.refs.contains (n + 1) then p.refs else p.refs ++ [n + 1] }),
    .whenB (fun b => monitors b && !refLost b n) (Act.all [
      .reassert,
      .read fun b => .each ((List.range 16).filter fun p => edgeOf p == n && portState b p != lnkOff) .portDown])]) s

/-- REFERENCE_RESTORED: tracking resumes, or the ports of the die may be brought up again (PORT_BRING_UP). -/
def execReferenceRestored (n : Nat) (s : State) : Host.Outcome State Fault Refusal :=
  perform (decide (n < 3)) (Act.all [
    .power (fun p => { p with refs := p.refs.filter fun k => k != n }),
    .whenB (fun b => monitors b && flag b .pwrInStatus (refBit n)) (Act.all [
      .setFld .pwrInStatus (refBit n) (refBit n) 0,
      .when (n == 0) (.power fun p => { p with holdover := false }),
      .logRef (refInput n)])]) s

/-! ## Temperatures (R399, R400) -/

/-- Warning threshold of a sensor in 1/16 °C; the LPDDR5X ones fall by 10 °C where the sensor has failed (R399). -/
def warnAt (b : Block) (i : Nat) : Int :=
  if i < 70 then 1520 else if i < 86 then (if b.power.failed.contains i then 1200 else 1360) else 1760

/-- Halt threshold of a sensor: 10 °C above its warning. -/
def haltAt (b : Block) (i : Nat) : Int := warnAt b i + 160

/-- TEMPERATURE_WARNING: a junction, package or power-stage sensor against its warning threshold; of a failed one, what
replaces its reading (R399). -/
def execTemperatureWarning (sensor : Nat) (value : BitVec 16) (s : State) : Host.Outcome State Fault Refusal :=
  perform (decide (sensor < 92)) (.whenB (fun b => monitors b && decide (sensor < 90)) (.seq (.sense sensor value) (.read fun b =>
    let hot := decide (warnAt b sensor ≤ signedOf (sensorReading b sensor) 16)
    let was := b.power.hotSensors.contains sensor
    Act.all [
      .when (hot && !was) (Act.all [
        .power (fun p => { p with hotSensors := p.hotSensors ++ [sensor] }),
        .inBegin 0,
        .when (decide (86 ≤ sensor)) (.pmbLatch pmbOtWarn),
        .logEvent 0x39 sensor (sensorReading b sensor) 0]),
      .when (!hot && was) (Act.all [
        .power (fun p => { p with hotSensors := p.hotSensors.filter fun i => i != sensor }),
        .whenB (fun b => b.power.hotSensors.isEmpty) (.setFld .pwrInStatus 0 0 0)])]))) s

/-- A halt begins: every RUNNING partition is to stop at its next step boundaries, whatever else pauses it, within 4 s of
its first halt or PAUSE (15_power_boot.md R418). -/
def Act.haltAll (event sensor value : Nat) : Act :=
  .read fun b => Act.all [
    .inBegin 8,
    .power (fun p => { p with halt := some (p.halt.getD (event, sensor, value)) }),
    .each ((owners b).filter fun f => (Machine.part b f).st == .running) fun f =>
      .onPart f fun p => { p.pauseFor .halt with halted := some (p.halted.getD (event, sensor, value)) }]

/-- THERMAL_HALT: a sensor at or above its halt threshold; of a failed one, what replaces its reading (R399). -/
def execThermalHalt (sensor : Nat) (value : BitVec 16) (s : State) : Host.Outcome State Fault Refusal :=
  perform (decide (sensor < 92)) (.whenB (fun b => monitors b && decide (sensor < 90) && !b.power.haltSensors.contains sensor)
    (.seq (.sense sensor value) (.read fun b =>
      .when (decide (haltAt b sensor ≤ signedOf (sensorReading b sensor) 16)) (Act.all [
        .power (fun p => { p with haltSensors := p.haltSensors ++ [sensor] }),
        .haltAll 0x39 sensor (sensorReading b sensor)])))) s

/-- A sensor's halt has not ended: its reading is not yet 10 °C below its halt threshold (R400). -/
def stillHot (b : Block) (i : Nat) : Bool := decide (haltAt b i - 160 < signedOf (sensorReading b i) 16)

/-- Inlet temperature and flow as the registers hold them. -/
def inletNow (b : Block) : Int := signedOf (fld b .pwrCool 31 16) 16
def flowNow (b : Block) : Nat := fld b .pwrFlow 15 0

/-- A coolant halt has not ended: its condition, or a coolant warning, is still active (R400). -/
def coolantBad (b : Block) : Bool :=
  decide (720 < inletNow b) || decide (flowNow b < 900) || flag b .pwrInStatus 2 || flag b .pwrInStatus 1 ||
    (b.power.failed.contains 90 && b.power.failed.contains 91)

/-- THERMAL_HALT_END: halts whose conditions have ended are dropped; with none left PWR_IN_HALT is 0, and no partition
resumes by itself (R400, 15_power_boot.md R418). -/
def execThermalHaltEnd (s : State) : Host.Outcome State Fault Refusal :=
  perform true (.whenB (fun b => monitors b && flag b .pwrInStatus 8) (.read fun b =>
    let left := b.power.haltSensors.filter (stillHot b)
    let cool := b.power.haltCoolant && coolantBad b
    Act.all [
      .power (fun p => { p with haltSensors := left, haltCoolant := cool }),
      .when (left.isEmpty && !cool) (Act.all [
        .setFld .pwrInStatus 8 8 0, .power fun p => { p with halt := none }])])) s

/-- The coolant readings; an inlet reading out of range shows that its sensor has failed (R399). -/
def Act.coolant (inlet flow : BitVec 16) : Act :=
  Act.all [if outOfRange inlet then .sensorFails 90 else .setFld .pwrCool 31 16 inlet.toNat, .setReg .pwrFlow flow.toNat]

/-- COOLANT_WARNING: inlet outside 15 to 40 °C, flow below 18 L/min, as they now stand. The flow has no sensor id in
R399: the record's is open (log 9). -/
def execCoolantWarning (inlet flow : BitVec 16) (s : State) : Host.Outcome State Fault Refusal :=
  perform true (.whenB monitors (.read fun b => Act.all [
    .coolant inlet flow,
    .when (!outOfRange inlet) (.inWarn 2 (decide (inlet.toInt < 240) || decide (640 < inlet.toInt)) 0x38 90 inlet.toNat),
    .inWarn 1 (decide (flow.toNat < 1800)) 0x38 ((Config.freeWord b.freeCtr).toNat % 65536) flow.toNat,
    .bump])) s

/-- COOLANT_HALT: inlet above 45 °C, flow below 9 L/min, or inlet and outlet sensors both failed. -/
def execCoolantHalt (inlet flow : BitVec 16) (sensorsFailed : Bool) (s : State) : Host.Outcome State Fault Refusal :=
  perform true (.read fun b =>
    let hot := !outOfRange inlet && decide (720 < inlet.toInt)
    let both := sensorsFailed || b.power.failed.contains 90 && b.power.failed.contains 91
    .when (monitors b && !b.power.haltCoolant && (hot || decide (flow.toNat < 900) || both)) (Act.all [
      .coolant inlet flow,
      .when both (.seq (.sensorFails 90) (.sensorFails 91)),
      .power (fun p => { p with haltCoolant := true }),
      (if hot ∨ both then .haltAll 0x38 90 (if both then 0x8000 else inlet.toNat)
       else .haltAll 0x38 ((Config.freeWord b.freeCtr).toNat % 65536) flow.toNat),
      .bump])) s

/-- SENSOR_FAILURE: a sensor has failed (R399). -/
def execSensorFailure (sensor : Nat) (s : State) : Host.Outcome State Fault Refusal :=
  perform (decide (sensor < 92)) (.whenB monitors (.sensorFails sensor)) s

/-! ## Beats (01_module.md R40) -/

/-- BEAT_BOUNDARY: every 256th core cycle of the root clock begins a beat (01_module.md R40); BSYNC pulses at every fourth
(R391), a wake takes its steps (15_power_boot.md R417), and a master without its lock takes it again (09_schedules.md R265). -/
def execBeatBoundary (readings : Option Sample) (s : State) : Host.Outcome State Fault Refusal :=
  perform true (.whenB (fun b => b.power.phase == .locked) (.read fun b => Act.all [
    .setReg .srlBeat ((beat b + 1) % 2 ^ 64),
    .whenB (fun b => b.power.bsync && beat b % 4 == 0) (.emit .bsync),
    .tickUnits,
    .leaveRefresh,
    .whenB (fun b => modState b == modOperational) .relockMaster,
    .opt readings .sample])) s

end Sys2Proof.Machine
end

