-- ==== Sys2Proof/Machine/Sideband.lean ====
section
/-! DEFINITION. The PMBus target in the power-stage controller and the I3C target in E0 (14_module_hw.md R402 to
R404). Layouts that PMBus 1.3 and SMBus 3.0 fix are PRESUMED from them (log 23). -/

namespace Sys2Proof.Machine

/-! ## PMBus (R402) -/

/-- The PMBus target answers: the standby domain is active. -/
def pmbus (b : Block) : Bool := b.power.phase != .off

/-- A PMBus command whose reply is computed from the block. -/
def Act.pmbReply (g : Block → Bytes) : Act := .whenB pmbus (.read fun b => .emit (.reply (g b)))

/-- STATUS_INPUT and STATUS_TEMPERATURE bytes. -/
def statusInput (b : Block) : Nat := b.power.pmbusStatus.toNat % 256
def statusTemp (b : Block) : Nat := b.power.pmbusStatus.toNat / 256 % 256

/-- STATUS_WORD: INPUT, POWER_GOOD# and OFF while the rails are down, VIN_UV_FAULT, TEMPERATURE. -/
def statusWord (b : Block) : Nat :=
  let down := (!railsUp b).toNat
  (statusInput b != 0).toNat * 2 ^ 13 + down * 2 ^ 11 + down * 2 ^ 6 + (bitOf (statusInput b) 4).toNat * 2 ^ 3 +
    (statusTemp b != 0).toNat * 2 ^ 2

/-- ALERT_N is low while a PMBus status bit or a bit of PWR_IN_LATCH is set (R404). -/
def alertLow (b : Block) : Bool := pmbus b && (b.power.pmbusStatus != 0 || rd b .pwrInLatch != 0)

/-- LINEAR11 of num / den: the smallest exponent whose rounded mantissa fits 11 signed bits (log 23). -/
def linear11From (num : Int) (den : Nat) : Nat → Int → Nat
  | 0, _ => 0
  | fuel + 1, e =>
    let x : Int := if e < 0 then num * 2 ^ (-e).toNat else num
    let d : Int := if e < 0 then den else den * 2 ^ e.toNat
    let m : Int := (2 * x + d) / (2 * d)
    if -1024 ≤ m ∧ m ≤ 1023 then codeOf e 5 * 2 ^ 11 + codeOf m 11 else linear11From num den fuel (e + 1)

/-- LINEAR11 of num / den, zero as 0x0000. -/
def linear11 (num : Int) (den : Nat) : Nat := if num = 0 then 0 else linear11From num den 32 (-16)

/-- A reading of a PWR_ register; its value is open while the module is OFF and the register cannot be read (log 9). -/
def pmbReading (b : Block) (r : Reg) (hi lo : Nat) : Nat :=
  if b.power.phase = .locked then fld b r hi lo else (Config.freeWord b.freeCtr).toNat % 65536

/-- A LINEAR11 reading, unsigned, in units of 1/den. -/
def Act.pmbLinear (r : Reg) (den : Nat) : Act :=
  .seq (.pmbReply fun b => leBytes (linear11 (pmbReading b r 15 0) den) 2) .bump

/-- Text of an SMBus block: its length, then its ASCII codes. -/
def block (s : Bytes) : Bytes := BitVec.ofNat 8 s.length :: s

/-- CLEAR_FAULTS: the latched PMBus status bits clear. -/
def execClearFaults (s : State) : Host.Outcome State Fault Refusal :=
  perform true (.whenB pmbus (.power fun p => { p with pmbusStatus := 0 })) s

/-- STATUS_WORD. -/
def execStatusWord (s : State) : Host.Outcome State Fault Refusal :=
  perform true (.pmbReply fun b => leBytes (statusWord b) 2) s

/-- STATUS_INPUT. -/
def execStatusInput (s : State) : Host.Outcome State Fault Refusal :=
  perform true (.pmbReply fun b => leBytes (statusInput b) 1) s

/-- STATUS_TEMPERATURE. -/
def execStatusTemperature (s : State) : Host.Outcome State Fault Refusal :=
  perform true (.pmbReply fun b => leBytes (statusTemp b) 1) s

/-- READ_VIN: PWR_VIN, 10 mV, in LINEAR11 volts. -/
def execReadVin (s : State) : Host.Outcome State Fault Refusal := perform true (.pmbLinear .pwrVin 100) s

/-- READ_IIN: PWR_IIN, 10 mA, in LINEAR11 amperes. -/
def execReadIin (s : State) : Host.Outcome State Fault Refusal := perform true (.pmbLinear .pwrIin 100) s

/-- READ_PIN: PWR_PIN in LINEAR11 watts. -/
def execReadPin (s : State) : Host.Outcome State Fault Refusal := perform true (.pmbLinear .pwrPin 1) s

/-- The hottest power stage, sensors 86 to 89. -/
def hottestStage (b : Block) : Nat := highest ((List.range 4).map fun i => pmbReading b (.pwrSensor (86 + i)) 15 0)

/-- READ_TEMPERATURE_1: the hottest power stage, in LINEAR11 degrees. -/
def execReadTemperature1 (s : State) : Host.Outcome State Fault Refusal :=
  perform true (.seq (.pmbReply fun b => leBytes (linear11 (signedOf (hottestStage b) 16) 16) 2) .bump) s

/-- READ_TEMPERATURE_2: the coolant inlet, in LINEAR11 degrees. -/
def execReadTemperature2 (s : State) : Host.Outcome State Fault Refusal :=
  perform true (.seq (.pmbReply fun b => leBytes (linear11 (signedOf (pmbReading b .pwrCool 31 16) 16) 16) 2) .bump) s

/-- PMBUS_REVISION: 0x33. -/
def execPmbusRevision (s : State) : Host.Outcome State Fault Refusal := perform true (.pmbReply fun _ => [0x33]) s

/-- MFR_ID: CELNINUM. -/
def execMfrId (s : State) : Host.Outcome State Fault Refusal :=
  perform true (.pmbReply fun _ => block [0x43, 0x45, 0x4C, 0x4E, 0x49, 0x4E, 0x55, 0x4D]) s

/-- MFR_MODEL: WRN-B3. -/
def execMfrModel (s : State) : Host.Outcome State Fault Refusal :=
  perform true (.pmbReply fun _ => block [0x57, 0x52, 0x4E, 0x2D, 0x42, 0x33]) s

/-- MFR_SERIAL: SRL_SERIAL as 16 hexadecimal digits. -/
def execMfrSerial (s : State) : Host.Outcome State Fault Refusal :=
  perform true (.pmbReply fun b => block (serialText b)) s

/-- The command codes the target supports. -/
def pmbSupported : List Nat := [0x03, 0x79, 0x7C, 0x7D, 0x88, 0x89, 0x97, 0x8D, 0x8E, 0x98, 0x99, 0x9A, 0x9E]

/-- PMBUS_UNSUPPORTED_COMMAND: any other code is answered with a NACK. -/
def execPmbusUnsupportedCommand (code : Nat) (s : State) : Host.Outcome State Fault Refusal :=
  perform true (.whenB (fun b => pmbus b && !pmbSupported.contains code) (.emit .nack)) s

/-- PMBUS_SCL_TIMEOUT: the bus is released and the transaction discarded (R400). -/
def execPmbusSclTimeout (s : State) : Host.Outcome State Fault Refusal :=
  perform true (.power fun p => { p with pmbusOpen := false }) s

/-! ## I3C (R403) -/

/-- The I3C target answers: from BOOTING onward. -/
def i3cUp (b : Block) : Bool := b.power.phase == .locked

/-- The target's static address. -/
def i3cStatic : BitVec 7 := 0x4A

/-- The TEL_ and PWR_ registers of 14_module_hw.md and 15_power_boot.md, as 32-bit words: register and word. None of them has
an RC field. -/
def telemetry : List (Reg × Nat) :=
  [(.telBoot 0, 0), (.telBootTime 0, 0), (.telBootTime 0, 1), (.telBoot 1, 0), (.telBootTime 1, 0), (.telBootTime 1, 1),
   (.pwrInStatus, 0), (.pwrInLatch, 0), (.pwrVin, 0), (.pwrIin, 0), (.pwrPin, 0), (.pwrCool, 0), (.pwrFlow, 0),
   (.pwrLastTrip, 0), (.pwrModstate, 0), (.pwrBoot, 0), (.pwrBootRsn, 0)] ++ (List.range 92).map fun i => (.pwrSensor i, 0)

/-- The word a private read at offset `off` returns: which one an offset names is open (log 9). -/
def i3cWord (b : Block) (off : Nat) : Nat :=
  let x := (telemetry[Config.i3cIndex off % telemetry.length]?).getD (.telBoot 0, 0)
  rd b x.1 / 2 ^ (32 * x.2) % 2 ^ 32

/-- SETDASA: a target without a dynamic address that is addressed at 0x4A takes one. -/
def execSetdasa (static dynamic : BitVec 7) (s : State) : Host.Outcome State Fault Refusal :=
  perform true (.whenB (fun b => i3cUp b && static == i3cStatic && b.power.i3cAddr.isNone)
    (.power fun p => { p with i3cAddr := some dynamic })) s

/-- I3C_PRIVATE_READ of 4 bytes at a 2-byte offset. -/
def execI3cPrivateRead (off : Nat) (s : State) : Host.Outcome State Fault Refusal :=
  perform true (.whenB (fun b => i3cUp b && b.power.i3cAddr.isSome && decide (off < 65536))
    (.read fun b => .emit (.reply (leBytes (i3cWord b off) 4)))) s

/-- I3C_PRIVATE_WRITE: refused with a NACK. -/
def execI3cPrivateWrite (_ : Nat) (_ : Bytes) (s : State) : Host.Outcome State Fault Refusal :=
  perform true (.whenB (fun b => i3cUp b && b.power.i3cAddr.isSome) (.emit .nack)) s

/-- I3C_IDLE_TIMEOUT: the target returns to idle and discards the transaction (R400). -/
def execI3cIdleTimeout (s : State) : Host.Outcome State Fault Refusal :=
  perform true (.power fun p => { p with i3cOpen := false }) s

end Sys2Proof.Machine
end

