-- ==== Sys2Proof/Machine/Spdm.lean ====
section
/-! DEFINITION. The SPDM responder behind the SPDM command (15_power_boot.md R419 to R421). The spec names DMTF SPDM 1.2
and does not print its message layouts; they are taken from DSP0274 1.2 (PRESUMED, log 15). -/

namespace Sys2Proof.Machine

/-! ## Requests -/

/-- Request codes of DSP0274. -/
def spGetVersion : Nat := 0x84
def spGetCapabilities : Nat := 0xE1
def spNegotiate : Nat := 0xE3
def spGetDigests : Nat := 0x81
def spGetCertificate : Nat := 0x82
def spChallenge : Nat := 0x83
def spGetMeasurements : Nat := 0xE0

/-- The requests of R420. -/
def spdmCodes : List Nat :=
  [spGetVersion, spGetCapabilities, spNegotiate, spGetDigests, spGetCertificate, spChallenge, spGetMeasurements]

/-- n bytes of a string, padded with 0. -/
def fixLen (n : Nat) (d : Bytes) : Bytes := (d ++ List.replicate n 0).take n

/-! ## What the responder holds -/

/-- The certificate chain of slot 0: its length, the hash of the root, the three certificates, of which the module's has
SRL_SERIAL as its subject serial number (R419). -/
def certChain (b : Block) : Bytes :=
  let certs := Config.certificate 0 ++ Config.certificate 1 ++ Config.certificate 2 ++ serialText b ++ Config.certificate 3
  leBytes (68 + certs.length) 2 ++ leBytes 0 2 ++ sha512 (Config.certificate 0) ++ certs

/-- The digest of a measurement index, none where it holds no value (R421). -/
def measureOf (b : Block) (i : Nat) : Option Bytes :=
  if i = 1 then some (fixLen 64 (Config.measurement 1))
  else if i = 2 then
    let s := fwSlot b (fld b .pwrBoot 16 16)
    some (if s.factory then fixLen 64 (Config.measurement 2) else sha512 (s.bytes 0 (headerSize + leNat (s.bytes 0x14 4))))
  else if i = 3 then
    some (sha512 (leBytes (fld b .secStatus 7 4) 1 ++ leBytes (arbCount b) 1 ++ (List.range 4).flatMap (keyHash b)))
  else if 0x11 ≤ i ∧ i ≤ 0x20 ∧ (part b (i - 0x10)).image.isSome then some (part b (i - 0x10)).measurement
  else none

/-- The indices function f may see that hold a value (R421). -/
def measureIndices (b : Block) (f : Nat) : List Nat :=
  ([1, 2, 3] ++ if f = 0 then (List.range 16).map (0x11 + ·) else [0x10 + f]).filter fun i => (measureOf b i).isSome

/-- The measurement block of an index, with the value type of R421's table. -/
def measureBlock (b : Block) (i : Nat) : Bytes :=
  leBytes i 1 ++ leBytes 1 1 ++ leBytes 67 2 ++ leBytes (if i ≤ 3 then i - 1 else 3) 1 ++ leBytes 64 2 ++
    (measureOf b i).getD []

/-! ## Errors -/

/-- Codes of the ERROR response. -/
def errInvalid : Nat := 0x01
def errUnexpected : Nat := 0x04
def errUnsupported : Nat := 0x07
def errVersion : Nat := 0x41

/-- The length a request must have; 0 where the message itself says. -/
def spdmLength (code : Nat) (p : Bytes) : Nat :=
  if code = spGetVersion ∨ code = spGetDigests then 4
  else if code = spGetCapabilities then 20
  else if code = spNegotiate then
    let n := leAt p 4 2
    if 32 ≤ n ∧ 32 + 4 * (leAt p 28 1 + leAt p 29 1) + 4 * leAt p 2 1 ≤ n then n else p.length + 1
  else if code = spGetCertificate then 8
  else if code = spChallenge then 36
  else if bitOf (leAt p 2 1) 0 then 37 else 4

/-- The fields of a request are ones the responder serves. -/
def spdmFields (b : Block) (f code : Nat) (p : Bytes) : Bool :=
  if code = spGetCapabilities then decide (42 ≤ leAt p 12 4) && decide (leAt p 12 4 ≤ leAt p 16 4)
  else if code = spGetCertificate then leAt p 2 1 == 0 && decide (leAt p 4 2 < (certChain b).length)
  else if code = spChallenge then leAt p 2 1 == 0 && (leAt p 3 1 == 0 || leAt p 3 1 == 1 || leAt p 3 1 == 0xFF)
  else if code = spGetMeasurements then
    (leAt p 3 1 == 0 || leAt p 3 1 == 0xFF || (measureIndices b f).contains (leAt p 3 1)) &&
      (!bitOf (leAt p 2 1) 0 || leAt p 36 1 == 0)
  else true

/-- The connection has come far enough, and not too far, for a request. -/
def spdmOrder (s : Spdm) (code : Nat) : Bool :=
  if code = spGetVersion then true
  else if code = spGetCapabilities then s.version && !s.caps
  else if code = spNegotiate then s.caps && !s.algs
  else s.algs

/-- The code and data of the ERROR response to a malformed or unsupported request (R420); none for one that is served. -/
def spdmError (b : Block) (f : Nat) (p : Bytes) : Option (Nat × Nat) :=
  let code := leAt p 1 1
  if p.length < 4 then some (errInvalid, 0)
  else if !spdmCodes.contains code then some (errUnsupported, code)
  else if leAt p 0 1 ≠ (if code = spGetVersion then 0x10 else 0x12) then some (errVersion, 0)
  else if p.length ≠ spdmLength code p then some (errInvalid, 0)
  else if !spdmOrder (func b f).spdm code then some (errUnexpected, 0)
  else if !spdmFields b f code p then some (errInvalid, 0)
  else none

/-! ## The command -/

/-- Any message is a payload of SPDM: R350 step 1 takes the message's own length. -/
def cmdSpdm : Cmd :=
  { code := 0x90, target := moduleTarget, payload := fun _ => true, func0 := false, mods := [modOperational]
    states := anyPState }

/-- The SPDM connection of f changes. -/
def Act.onSpdm (f : Nat) (g : Spdm → Spdm) : Act := .onFunc f fun s => { s with spdm := g s.spdm }

/-- A well-formed request of one code, in turn on its function's connection. -/
def Act.spdm (f m code : Nat) (k : Bytes → Act) : Act :=
  .read fun b => .opt (request b f m) fun r =>
    let p := reqPayload r
    .when (leAt p 1 1 == code && (spdmError b f p).isNone) (.command f m cmdSpdm fun p _ => k p)

/-- A message's header. -/
def spdmHeader (version code p1 p2 : Nat) : Bytes := leBytes version 1 ++ leBytes code 1 ++ leBytes p1 1 ++ leBytes p2 1

/-- The signature over a transcript, with its context string: the prefix of SPDM 1.2 filled to 100 bytes, then the hash. -/
def spdmSign (b : Block) (context : String) (transcript : Bytes) : Bytes :=
  let str (x : String) : Bytes := x.toList.map fun c => BitVec.ofNat 8 c.toNat
  let head' := (List.range 4).flatMap fun _ => str "dmtf-spdm-v1.2.*"
  let ctx := str context
  pssSign Config.identityModulus Config.identityExponent (fixLen 64 (Config.signSalt b.freeCtr))
    (head' ++ List.replicate (36 - ctx.length) 0 ++ ctx ++ sha512 transcript)

/-! ## The requests of R420 -/

/-- GET_VERSION: version 1.2 alone; the connection begins anew. -/
def execGetVersion (f m : Nat) (s : State) : Host.Outcome State Fault Refusal :=
  perform (isFunc f && isMbox m) (.spdm f m spGetVersion fun p =>
    let r := spdmHeader 0x10 0x04 0 0 ++ leBytes 0 1 ++ leBytes 1 1 ++ leBytes 0x1200 2
    Act.all [
      .onSpdm f (fun _ => { version := true, caps := false, algs := false, vca := p ++ r, certs := [], meas := [] }),
      .ok f m r]) s

/-- GET_CAPABILITIES: CERT_CAP, CHAL_CAP, and MEAS_CAP with signatures. -/
def execGetCapabilities (f m : Nat) (s : State) : Host.Outcome State Fault Refusal :=
  perform (isFunc f && isMbox m) (.spdm f m spGetCapabilities fun p =>
    let r := spdmHeader 0x12 0x61 0 0 ++ leBytes 0 1 ++ leBytes 10 1 ++ leBytes 0 2 ++ leBytes 0x16 4 ++
      leBytes 4080 4 ++ leBytes 4080 4
    Act.all [.onSpdm f (fun c => { c with caps := true, vca := c.vca ++ p ++ r }), .ok f m r]) s

/-- NEGOTIATE_ALGORITHMS: TPM_ALG_RSAPSS_4096 and TPM_ALG_SHA_512, where the request offers them. -/
def execNegotiateAlgorithms (f m : Nat) (s : State) : Host.Outcome State Fault Refusal :=
  perform (isFunc f && isMbox m) (.spdm f m spNegotiate fun p =>
    let asym := if bitOf (leAt p 8 4) 6 then 0x40 else 0
    let hash := if bitOf (leAt p 12 4) 2 then 4 else 0
    let spec := if bitOf (leAt p 6 1) 0 then 1 else 0
    let r := spdmHeader 0x12 0x63 0 0 ++ leBytes 36 2 ++ leBytes spec 1 ++ leBytes 0 1 ++ leBytes (8 * spec) 4 ++
      leBytes asym 4 ++ leBytes hash 4 ++ List.replicate 16 0
    Act.all [.onSpdm f (fun c => { c with algs := true, vca := c.vca ++ p ++ r }), .ok f m r]) s

/-- GET_DIGESTS: the digest of slot 0's chain. -/
def execGetDigests (f m : Nat) (s : State) : Host.Outcome State Fault Refusal :=
  perform (isFunc f && isMbox m) (.spdm f m spGetDigests fun p => .read fun b =>
    let r := spdmHeader 0x12 0x01 0 1 ++ sha512 (certChain b)
    Act.all [.onSpdm f (fun c => { c with certs := c.certs ++ p ++ r, meas := [] }), .ok f m r]) s

/-- GET_CERTIFICATE: a portion of slot 0's chain, at most what a message of 4,064 bytes holds. -/
def execGetCertificate (f m : Nat) (s : State) : Host.Outcome State Fault Refusal :=
  perform (isFunc f && isMbox m) (.spdm f m spGetCertificate fun p => .read fun b =>
    let d := ((certChain b).drop (leAt p 4 2)).take (min (leAt p 6 2) 4056)
    let r := spdmHeader 0x12 0x02 0 0 ++ leBytes d.length 2 ++ leBytes ((certChain b).length - leAt p 4 2 - d.length) 2 ++ d
    Act.all [.onSpdm f (fun c => { c with certs := c.certs ++ p ++ r, meas := [] }), .ok f m r]) s

/-- CHALLENGE: the chain's hash, a nonce, a summary of the measurements, and the signature over the connection so far. -/
def execChallenge (f m : Nat) (s : State) : Host.Outcome State Fault Refusal :=
  perform (isFunc f && isMbox m) (.spdm f m spChallenge fun p => .read fun b =>
    let which := if leAt p 3 1 = 0 then [] else if leAt p 3 1 = 1 then [1, 2, 3] else measureIndices b f
    let r := spdmHeader 0x12 0x03 0 1 ++ sha512 (certChain b) ++ fixLen 32 (Config.nonce b.freeCtr) ++
      (if leAt p 3 1 = 0 then [] else sha512 (which.flatMap (measureBlock b))) ++ leBytes 0 2
    let c := (func b f).spdm
    let sig := spdmSign b "responder-challenge_auth signing" (c.vca ++ c.certs ++ p ++ r)
    Act.all [.bump, .onSpdm f (fun c => { c with certs := [], meas := [] }), .ok f m (r ++ sig)]) s

/-- GET_MEASUREMENTS: the number of blocks, one block, or all the function may see, signed on request (R421). -/
def execGetMeasurements (f m : Nat) (s : State) : Host.Outcome State Fault Refusal :=
  perform (isFunc f && isMbox m) (.spdm f m spGetMeasurements fun p => .read fun b =>
    let op := leAt p 3 1
    let signed := bitOf (leAt p 2 1) 0
    let all := measureIndices b f
    let blocks := if op = 0 then [] else if op = 0xFF then all else [op]
    let recs := blocks.flatMap (measureBlock b)
    let r := spdmHeader 0x12 0x60 (if op = 0 then all.length else 0) 0 ++ leBytes blocks.length 1 ++
      leBytes recs.length 3 ++ recs ++ fixLen 32 (Config.nonce b.freeCtr) ++ leBytes 0 2
    let c := (func b f).spdm
    let sig := if signed then spdmSign b "responder-measurements signing" (c.vca ++ c.meas ++ p ++ r) else []
    Act.all [
      .bump,
      .onSpdm f (fun c => { c with certs := [], meas := if signed then [] else c.meas ++ p ++ r }),
      .ok f m (r ++ sig)]) s

/-- Every other SPDM request: an ERROR response inside a mailbox response with STATUS OK (R420). -/
def execSpdmUnsupportedRequest (f m : Nat) (s : State) : Host.Outcome State Fault Refusal :=
  perform (isFunc f && isMbox m) (.read fun b => .opt (request b f m) fun r =>
    .opt (spdmError b f (reqPayload r)) fun e =>
      .command f m cmdSpdm fun _ _ => Act.all [
        .onSpdm f (fun c => { c with meas := [] }),
        .ok f m (spdmHeader (if (func b f).spdm.version then 0x12 else 0x10) 0x7F e.1 e.2)]) s

end Sys2Proof.Machine
end

