-- ==== Sys2Proof/Machine/Dispatch.lean ====
section
/-! DEFINITION. Which meaning each command has: one arm per constructor of Instr. -/

namespace Sys2Proof.Machine

def exec (i : Instr) (s : State) : Host.Outcome State Fault Refusal :=
  match i with
  | .matmul c => Sys2Proof.Machine.execMatmul c s
  | .score c => Sys2Proof.Machine.execScore c s
  | .conv c => Sys2Proof.Machine.execConv c s
  | .poolMax c d => Sys2Proof.Machine.execPoolMax c d s
  | .poolAvg c d => Sys2Proof.Machine.execPoolAvg c d s
  | .resizeNearest c d => Sys2Proof.Machine.execResizeNearest c d s
  | .resizeBilinear c d => Sys2Proof.Machine.execResizeBilinear c d s
  | .normStats c d => Sys2Proof.Machine.execNormStats c d s
  | .normApply c d => Sys2Proof.Machine.execNormApply c d s
  | .normStatsApply c d => Sys2Proof.Machine.execNormStatsApply c d s
  | .normRecompute c d => Sys2Proof.Machine.execNormRecompute c d s
  | .convert c d => Sys2Proof.Machine.execConvert c d s
  | .elemAdd c d => Sys2Proof.Machine.execElemAdd c d s
  | .elemSub c d => Sys2Proof.Machine.execElemSub c d s
  | .elemMul c d => Sys2Proof.Machine.execElemMul c d s
  | .elemFma c d => Sys2Proof.Machine.execElemFma c d s
  | .elemMax c d => Sys2Proof.Machine.execElemMax c d s
  | .elemMin c d => Sys2Proof.Machine.execElemMin c d s
  | .elemAbs c d => Sys2Proof.Machine.execElemAbs c d s
  | .elemNeg c d => Sys2Proof.Machine.execElemNeg c d s
  | .elemCopysign c d => Sys2Proof.Machine.execElemCopysign c d s
  | .elemSelect c d => Sys2Proof.Machine.execElemSelect c d s
  | .elemCmpEq c d => Sys2Proof.Machine.execElemCmpEq c d s
  | .elemCmpLt c d => Sys2Proof.Machine.execElemCmpLt c d s
  | .elemCmpLe c d => Sys2Proof.Machine.execElemCmpLe c d s
  | .elemScale2 c d => Sys2Proof.Machine.execElemScale2 c d s
  | .elemRcp c d => Sys2Proof.Machine.execElemRcp c d s
  | .elemSqrt c d => Sys2Proof.Machine.execElemSqrt c d s
  | .elemRsqrt c d => Sys2Proof.Machine.execElemRsqrt c d s
  | .elemDiv c d => Sys2Proof.Machine.execElemDiv c d s
  | .elemExp c d => Sys2Proof.Machine.execElemExp c d s
  | .elemExp2 c d => Sys2Proof.Machine.execElemExp2 c d s
  | .elemLog c d => Sys2Proof.Machine.execElemLog c d s
  | .elemLog2 c d => Sys2Proof.Machine.execElemLog2 c d s
  | .elemSin c d => Sys2Proof.Machine.execElemSin c d s
  | .elemCos c d => Sys2Proof.Machine.execElemCos c d s
  | .elemTanh c d => Sys2Proof.Machine.execElemTanh c d s
  | .elemSigmoid c d => Sys2Proof.Machine.execElemSigmoid c d s
  | .elemSilu c d => Sys2Proof.Machine.execElemSilu c d s
  | .elemGelu c d => Sys2Proof.Machine.execElemGelu c d s
  | .reduceSum c d => Sys2Proof.Machine.execReduceSum c d s
  | .reduceMax c d => Sys2Proof.Machine.execReduceMax c d s
  | .reduceMin c d => Sys2Proof.Machine.execReduceMin c d s
  | .digest c d => Sys2Proof.Machine.execDigest c d s
  | .gather c d => Sys2Proof.Machine.execGather c d s
  | .scatter c d => Sys2Proof.Machine.execScatter c d s
  | .wait c => Sys2Proof.Machine.execWait c s
  | .signal c => Sys2Proof.Machine.execSignal c s
  | .barrier c => Sys2Proof.Machine.execBarrier c s
  | .stream c => Sys2Proof.Machine.execStream c s
  | .loop c => Sys2Proof.Machine.execLoop c s
  | .param c => Sys2Proof.Machine.execParam c s
  | .seqEnd c => Sys2Proof.Machine.execSeqEnd c s
  | .tileAccumulationStart c a => Sys2Proof.Machine.execTileAccumulationStart c a s
  | .accumulatorSwap c a => Sys2Proof.Machine.execAccumulatorSwap c a s
  | .drainRow c a d => Sys2Proof.Machine.execDrainRow c a d s
  | .drainRowToRing c a d => Sys2Proof.Machine.execDrainRowToRing c a s d
  | .drainQueueWrite c a d => Sys2Proof.Machine.execDrainQueueWrite c a d s
  | .accumulatorPreload c a => Sys2Proof.Machine.execAccumulatorPreload c a s
  | .invocationComplete c => Sys2Proof.Machine.execInvocationComplete c s
  | .knownAnswerTestComplete c unit outputs counters lastRow reported => Sys2Proof.Machine.execKnownAnswerTestComplete c unit outputs counters lastRow reported s
  | .yarrowEnd c x => Sys2Proof.Machine.execYarrowEnd c x s
  | .yarrowSetb c x => Sys2Proof.Machine.execYarrowSetb c x s
  | .yarrowSets c x => Sys2Proof.Machine.execYarrowSets c x s
  | .yarrowLoop c x => Sys2Proof.Machine.execYarrowLoop c x s
  | .yarrowEndl c x => Sys2Proof.Machine.execYarrowEndl c x s
  | .yarrowMove c x => Sys2Proof.Machine.execYarrowMove c x s
  | .yarrowRel c x => Sys2Proof.Machine.execYarrowRel c x s
  | .yarrowWait c x => Sys2Proof.Machine.execYarrowWait c x s
  | .yarrowSignal c x => Sys2Proof.Machine.execYarrowSignal c x s
  | .yarrowArrive c x => Sys2Proof.Machine.execYarrowArrive c x s
  | .yarrowFence c x => Sys2Proof.Machine.execYarrowFence c x s
  | .moveComplete c k d => Sys2Proof.Machine.execMoveComplete c k s d
  | .flitArrival c k taken d => Sys2Proof.Machine.execFlitArrival c k taken d s
  | .signalAtHome k => Sys2Proof.Machine.execSignalAtHome k s
  | .waitAtHome k => Sys2Proof.Machine.execWaitAtHome k s
  | .barrierArrival k => Sys2Proof.Machine.execBarrierArrival k s
  | .barrierReleaseBroadcast k => Sys2Proof.Machine.execBarrierReleaseBroadcast k s
  | .waiterResume k => Sys2Proof.Machine.execWaiterResume k s
  | .waitBoundExpiry => Sys2Proof.Machine.execWaitBoundExpiry s
  | .beatBoundary readings => Sys2Proof.Machine.execBeatBoundary readings s
  | .runStart f => Sys2Proof.Machine.execRunStart f s
  | .planExceeded f => Sys2Proof.Machine.execPlanExceeded f s
  | .energyWindowCheck metered => Sys2Proof.Machine.execEnergyWindowCheck metered s
  | .lpddrRequest ctl owner port addr len data => Sys2Proof.Machine.execLpddrRequest ctl owner port addr len data s
  | .lpddrSlotService ctl pos d => Sys2Proof.Machine.execLpddrSlotService ctl pos d s
  | .parCtrl c reg bit => Sys2Proof.Machine.execParCtrl c reg bit s
  | .replayComplete c unit d result => Sys2Proof.Machine.execReplayComplete c unit d s result
  | .arbitrationComplete f arbiter passed result => Sys2Proof.Machine.execArbitrationComplete f arbiter passed result s
  | .replacementAfterFencing f => Sys2Proof.Machine.execReplacementAfterFencing f s
  | .rollback f => Sys2Proof.Machine.execRollback f s
  | .tansyLogFlashWrite => Sys2Proof.Machine.execTansyLogFlashWrite s
  | .epochVerdict e => Sys2Proof.Machine.execEpochVerdict e s
  | .frameStart p => Sys2Proof.Machine.execFrameStart p s
  | .cellReceive p cell uncorrectable => Sys2Proof.Machine.execCellReceive p cell uncorrectable s
  | .slotPublish p channel => Sys2Proof.Machine.execSlotPublish p channel s
  | .marker p phErr beatJump => Sys2Proof.Machine.execMarker p phErr beatJump s
  | .markerTimeout => Sys2Proof.Machine.execMarkerTimeout s
  | .ack p => Sys2Proof.Machine.execAck p s
  | .nak p => Sys2Proof.Machine.execNak p s
  | .arrive p => Sys2Proof.Machine.execArrive p s
  | .releaseMessage p => Sys2Proof.Machine.execReleaseMessage p s
  | .credit p => Sys2Proof.Machine.execCredit p s
  | .epochClear p => Sys2Proof.Machine.execEpochClear p s
  | .poison p => Sys2Proof.Machine.execPoison p s
  | .echoReq p turnaround => Sys2Proof.Machine.execEchoReq p turnaround s
  | .echoRsp p now => Sys2Proof.Machine.execEchoRsp p now s
  | .lanes p => Sys2Proof.Machine.execLanes p s
  | .laneFailure p lane reason => Sys2Proof.Machine.execLaneFailure p lane reason s
  | .retrainComplete p ok good => Sys2Proof.Machine.execRetrainComplete p ok s good
  | .portBringUp p trainedLanes => Sys2Proof.Machine.execPortBringUp p trainedLanes s
  | .ethernetFrameReceive p frame => Sys2Proof.Machine.execEthernetFrameReceive p frame s
  | .teaselAckSegment p => Sys2Proof.Machine.execTeaselAckSegment p s
  | .teaselRetransmitTimeout h => Sys2Proof.Machine.execTeaselRetransmitTimeout h s
  | .teaselPageMessage h d => Sys2Proof.Machine.execTeaselPageMessage h d s
  | .exportEnd h => Sys2Proof.Machine.execExportEnd h s
  | .lookup f host => Sys2Proof.Machine.execLookup f host s
  | .attach f host => Sys2Proof.Machine.execAttach f host s
  | .publish f host => Sys2Proof.Machine.execPublish f host s
  | .release f host => Sys2Proof.Machine.execRelease f host s
  | .pin f host => Sys2Proof.Machine.execPin f host s
  | .unpin f host => Sys2Proof.Machine.execUnpin f host s
  | .flush f host => Sys2Proof.Machine.execFlush f host s
  | .getInfo f m => Sys2Proof.Machine.execGetInfo f m s
  | .getState f m => Sys2Proof.Machine.execGetState f m s
  | .readLog f m => Sys2Proof.Machine.execReadLog f m s
  | .fenceUnit f m => Sys2Proof.Machine.execFenceUnit f m s
  | .unfenceUnit f m => Sys2Proof.Machine.execUnfenceUnit f m s
  | .runSelftest f m fails => Sys2Proof.Machine.execRunSelftest f m fails s
  | .setPowerStateDormant f m => Sys2Proof.Machine.execSetPowerStateDormant f m s
  | .dormantEntryComplete f m => Sys2Proof.Machine.execDormantEntryComplete f m s
  | .setPowerStateOperational f m => Sys2Proof.Machine.execSetPowerStateOperational f m s
  | .wakeComplete bad => Sys2Proof.Machine.execWakeComplete s bad
  | .fwOpen f m => Sys2Proof.Machine.execFwOpen f m s
  | .fwWrite f m dma => Sys2Proof.Machine.execFwWrite f m dma s
  | .fwCommit f m => Sys2Proof.Machine.execFwCommit f m s
  | .fwAbort f m => Sys2Proof.Machine.execFwAbort f m s
  | .getVersion f m => Sys2Proof.Machine.execGetVersion f m s
  | .getCapabilities f m => Sys2Proof.Machine.execGetCapabilities f m s
  | .negotiateAlgorithms f m => Sys2Proof.Machine.execNegotiateAlgorithms f m s
  | .getDigests f m => Sys2Proof.Machine.execGetDigests f m s
  | .getCertificate f m => Sys2Proof.Machine.execGetCertificate f m s
  | .challenge f m => Sys2Proof.Machine.execChallenge f m s
  | .getMeasurements f m => Sys2Proof.Machine.execGetMeasurements f m s
  | .spdmUnsupportedRequest f m => Sys2Proof.Machine.execSpdmUnsupportedRequest f m s
  | .partitionCreate f m => Sys2Proof.Machine.execPartitionCreate f m s
  | .partitionDestroy f m => Sys2Proof.Machine.execPartitionDestroy f m s
  | .loadImage f m dma => Sys2Proof.Machine.execLoadImage f m dma s
  | .unloadImage f m => Sys2Proof.Machine.execUnloadImage f m s
  | .start f m => Sys2Proof.Machine.execStart f m s
  | .pause f m => Sys2Proof.Machine.execPause f m s
  | .pauseComplete f => Sys2Proof.Machine.execPauseComplete f s
  | .pauseTimeout f => Sys2Proof.Machine.execPauseTimeout f s
  | .resume f m => Sys2Proof.Machine.execResume f m s
  | .stop f m => Sys2Proof.Machine.execStop f m s
  | .checkpointSave f m => Sys2Proof.Machine.execCheckpointSave f m s
  | .checkpointRestore f m => Sys2Proof.Machine.execCheckpointRestore f m s
  | .setShapes f m => Sys2Proof.Machine.execSetShapes f m s
  | .prefixQuery f m => Sys2Proof.Machine.execPrefixQuery f m s
  | .kvExport f m => Sys2Proof.Machine.execKvExport f m s
  | .registerWrite f off n value => Sys2Proof.Machine.execRegisterWrite f off n value s
  | .registerReadClear f off n => Sys2Proof.Machine.execRegisterReadClear f off n s
  | .hostBarAccess f bar off len data => Sys2Proof.Machine.execHostBarAccess f bar off len data s
  | .lpdTrnGo f ctl value trained => Sys2Proof.Machine.execLpdTrnGo f ctl value trained s
  | .chkInjGo f c value => Sys2Proof.Machine.execChkInjGo f c value s
  | .pwrBootClr f value => Sys2Proof.Machine.execPwrBootClr f value s
  | .msixEnable f => Sys2Proof.Machine.execMsixEnable f s
  | .msixUnmask f v => Sys2Proof.Machine.execMsixUnmask f v s
  | .ptmRequest => Sys2Proof.Machine.execPtmRequest s
  | .ptmResponse utc => Sys2Proof.Machine.execPtmResponse utc s
  | .flr f => Sys2Proof.Machine.execFlr f s
  | .flrComplete f => Sys2Proof.Machine.execFlrComplete f s
  | .flrFunction0 clearVfEnable => Sys2Proof.Machine.execFlrFunction0 clearVfEnable s
  | .hotReset linkDisable => Sys2Proof.Machine.execHotReset linkDisable s
  | .ucieLinkTraining ok0 ok1 at32 => Sys2Proof.Machine.execUcieLinkTraining ok0 ok1 at32 s
  | .ucieLaneFailure mdl => Sys2Proof.Machine.execUcieLaneFailure mdl s
  | .powerOn => Sys2Proof.Machine.execPowerOn s
  | .mainRailStart stands => Sys2Proof.Machine.execMainRailStart s stands
  | .rootPllLock boots => Sys2Proof.Machine.execRootPllLock boots s
  | .watchdogExpiry boots => Sys2Proof.Machine.execWatchdogExpiry boots s
  | .undervoltageTrip => Sys2Proof.Machine.execUndervoltageTrip s
  | .overvoltageTrip => Sys2Proof.Machine.execOvervoltageTrip s
  | .hardwareTrip sensor => Sys2Proof.Machine.execHardwareTrip sensor s
  | .mrstN lowNs risen => Sys2Proof.Machine.execMrstN lowNs s risen
  | .undervoltageRestart => Sys2Proof.Machine.execUndervoltageRestart s
  | .supplyWarning vin => Sys2Proof.Machine.execSupplyWarning vin s
  | .ref100Lost => Sys2Proof.Machine.execRef100Lost s
  | .ref156Lost n => Sys2Proof.Machine.execRef156Lost n s
  | .referenceRestored n => Sys2Proof.Machine.execReferenceRestored n s
  | .temperatureWarning sensor value => Sys2Proof.Machine.execTemperatureWarning sensor value s
  | .thermalHalt sensor value => Sys2Proof.Machine.execThermalHalt sensor value s
  | .thermalHaltEnd => Sys2Proof.Machine.execThermalHaltEnd s
  | .coolantWarning inlet flow => Sys2Proof.Machine.execCoolantWarning inlet flow s
  | .coolantHalt inlet flow sensorsFailed => Sys2Proof.Machine.execCoolantHalt inlet flow sensorsFailed s
  | .sensorFailure sensor => Sys2Proof.Machine.execSensorFailure sensor s
  | .clearFaults => Sys2Proof.Machine.execClearFaults s
  | .statusWord => Sys2Proof.Machine.execStatusWord s
  | .statusInput => Sys2Proof.Machine.execStatusInput s
  | .statusTemperature => Sys2Proof.Machine.execStatusTemperature s
  | .readVin => Sys2Proof.Machine.execReadVin s
  | .readIin => Sys2Proof.Machine.execReadIin s
  | .readPin => Sys2Proof.Machine.execReadPin s
  | .readTemperature1 => Sys2Proof.Machine.execReadTemperature1 s
  | .readTemperature2 => Sys2Proof.Machine.execReadTemperature2 s
  | .pmbusRevision => Sys2Proof.Machine.execPmbusRevision s
  | .mfrId => Sys2Proof.Machine.execMfrId s
  | .mfrModel => Sys2Proof.Machine.execMfrModel s
  | .mfrSerial => Sys2Proof.Machine.execMfrSerial s
  | .pmbusUnsupportedCommand code => Sys2Proof.Machine.execPmbusUnsupportedCommand code s
  | .pmbusSclTimeout => Sys2Proof.Machine.execPmbusSclTimeout s
  | .setdasa static dynamic => Sys2Proof.Machine.execSetdasa static dynamic s
  | .i3cPrivateRead off => Sys2Proof.Machine.execI3cPrivateRead off s
  | .i3cPrivateWrite off data => Sys2Proof.Machine.execI3cPrivateWrite off data s
  | .i3cIdleTimeout => Sys2Proof.Machine.execI3cIdleTimeout s
  | .standbyDomainOff => Sys2Proof.Machine.execStandbyDomainOff s
  | .vfEnable numVfs => Sys2Proof.Machine.execVfEnable numVfs s

end Sys2Proof.Machine
end

