-- ==== Sys2Proof/WellFormed.lean ====
section
/-! DEFINITION. Which commands name units the module has (01_module.md R15, R17, R24). -/

namespace Sys2Proof

/-- A function that can own a partition: 1 to 16 (12_host.md R344). -/
def isVfN (f : Nat) : Bool := decide (1 ≤ f) && decide (f ≤ Config.numVfs)

/-- Every unit the command names exists. -/
def Instr.wf (i : Instr) : Bool :=
  match i with
  | .matmul c => decide (c < Config.numCores)
  | .score c => decide (c < Config.numCores)
  | .conv c => decide (c < Config.numCores)
  | .poolMax c _ => decide (c < Config.numCores)
  | .poolAvg c _ => decide (c < Config.numCores)
  | .resizeNearest c _ => decide (c < Config.numCores)
  | .resizeBilinear c _ => decide (c < Config.numCores)
  | .normStats c _ => decide (c < Config.numCores)
  | .normApply c _ => decide (c < Config.numCores)
  | .normStatsApply c _ => decide (c < Config.numCores)
  | .normRecompute c _ => decide (c < Config.numCores)
  | .convert c _ => decide (c < Config.numCores)
  | .elemAdd c _ => decide (c < Config.numCores)
  | .elemSub c _ => decide (c < Config.numCores)
  | .elemMul c _ => decide (c < Config.numCores)
  | .elemFma c _ => decide (c < Config.numCores)
  | .elemMax c _ => decide (c < Config.numCores)
  | .elemMin c _ => decide (c < Config.numCores)
  | .elemAbs c _ => decide (c < Config.numCores)
  | .elemNeg c _ => decide (c < Config.numCores)
  | .elemCopysign c _ => decide (c < Config.numCores)
  | .elemSelect c _ => decide (c < Config.numCores)
  | .elemCmpEq c _ => decide (c < Config.numCores)
  | .elemCmpLt c _ => decide (c < Config.numCores)
  | .elemCmpLe c _ => decide (c < Config.numCores)
  | .elemScale2 c _ => decide (c < Config.numCores)
  | .elemRcp c _ => decide (c < Config.numCores)
  | .elemSqrt c _ => decide (c < Config.numCores)
  | .elemRsqrt c _ => decide (c < Config.numCores)
  | .elemDiv c _ => decide (c < Config.numCores)
  | .elemExp c _ => decide (c < Config.numCores)
  | .elemExp2 c _ => decide (c < Config.numCores)
  | .elemLog c _ => decide (c < Config.numCores)
  | .elemLog2 c _ => decide (c < Config.numCores)
  | .elemSin c _ => decide (c < Config.numCores)
  | .elemCos c _ => decide (c < Config.numCores)
  | .elemTanh c _ => decide (c < Config.numCores)
  | .elemSigmoid c _ => decide (c < Config.numCores)
  | .elemSilu c _ => decide (c < Config.numCores)
  | .elemGelu c _ => decide (c < Config.numCores)
  | .reduceSum c _ => decide (c < Config.numCores)
  | .reduceMax c _ => decide (c < Config.numCores)
  | .reduceMin c _ => decide (c < Config.numCores)
  | .digest c _ => decide (c < Config.numCores)
  | .gather c _ => decide (c < Config.numCores)
  | .scatter c _ => decide (c < Config.numCores)
  | .wait c => decide (c < Config.numCores)
  | .signal c => decide (c < Config.numCores)
  | .barrier c => decide (c < Config.numCores)
  | .stream c => decide (c < Config.numCores)
  | .loop c => decide (c < Config.numCores)
  | .param c => decide (c < Config.numCores)
  | .seqEnd c => decide (c < Config.numCores)
  | .tileAccumulationStart c a => decide (c < Config.numCores) && decide (a < 2)
  | .accumulatorSwap c a => decide (c < Config.numCores) && decide (a < 2)
  | .drainRow c a _ => decide (c < Config.numCores) && decide (a < 2)
  | .drainRowToRing c a _ => decide (c < Config.numCores) && decide (a < 2)
  | .drainQueueWrite c a _ => decide (c < Config.numCores) && decide (a < 2)
  | .accumulatorPreload c a => decide (c < Config.numCores) && decide (a < 2)
  | .invocationComplete c => decide (c < Config.numCores)
  | .knownAnswerTestComplete c _ _ _ _ _ => decide (c < Config.numCores)
  | .yarrowEnd c x => decide (c < Config.numCores) && decide (x < 4)
  | .yarrowSetb c x => decide (c < Config.numCores) && decide (x < 4)
  | .yarrowSets c x => decide (c < Config.numCores) && decide (x < 4)
  | .yarrowLoop c x => decide (c < Config.numCores) && decide (x < 4)
  | .yarrowEndl c x => decide (c < Config.numCores) && decide (x < 4)
  | .yarrowMove c x => decide (c < Config.numCores) && decide (x < 4)
  | .yarrowRel c x => decide (c < Config.numCores) && decide (x < 4)
  | .yarrowWait c x => decide (c < Config.numCores) && decide (x < 4)
  | .yarrowSignal c x => decide (c < Config.numCores) && decide (x < 4)
  | .yarrowArrive c x => decide (c < Config.numCores) && decide (x < 4)
  | .yarrowFence c x => decide (c < Config.numCores) && decide (x < 4)
  | .moveComplete c _ _ => decide (c < Config.numCores)
  | .flitArrival c _ _ _ => decide (c < Config.numCores)
  | .signalAtHome _ => true
  | .waitAtHome _ => true
  | .barrierArrival _ => true
  | .barrierReleaseBroadcast _ => true
  | .waiterResume _ => true
  | .waitBoundExpiry => true
  | .beatBoundary _ => true
  | .runStart f => isVfN f
  | .planExceeded f => isVfN f
  | .energyWindowCheck _ => true
  | .lpddrRequest ctl _ port _ _ _ => decide (ctl < 16) && decide (port < 4)
  | .lpddrSlotService ctl pos _ => decide (ctl < 16) && decide (pos < 64)
  | .parCtrl c _ _ => decide (c < Config.numCores)
  | .replayComplete c unit _ _ => decide (c < Config.numCores) && decide (unit < 3)
  | .arbitrationComplete f arbiter _ _ => isVfN f && decide (arbiter < Config.numCores)
  | .replacementAfterFencing f => isVfN f
  | .rollback f => isVfN f
  | .tansyLogFlashWrite => true
  | .epochVerdict _ => true
  | .frameStart p => decide (p < 16)
  | .cellReceive p _ _ => decide (p < 16)
  | .slotPublish p _ => decide (p < 16)
  | .marker p _ _ => decide (p < 16)
  | .markerTimeout => true
  | .ack p => decide (p < 16)
  | .nak p => decide (p < 16)
  | .arrive p => decide (p < 16)
  | .releaseMessage p => decide (p < 16)
  | .credit p => decide (p < 16)
  | .epochClear p => decide (p < 16)
  | .poison p => decide (p < 16)
  | .echoReq p _ => decide (p < 16)
  | .echoRsp p _ => decide (p < 16)
  | .lanes p => decide (p < 16)
  | .laneFailure p lane _ => decide (p < 16) && decide (lane < 4)
  | .retrainComplete p _ _ => decide (p < 16)
  | .portBringUp p _ => decide (p < 16)
  | .ethernetFrameReceive p _ => decide (p < 16)
  | .teaselAckSegment p => decide (p < 16)
  | .teaselRetransmitTimeout h => decide (h < 128)
  | .teaselPageMessage h _ => decide (h < 128)
  | .exportEnd h => decide (h < 128)
  | .lookup f _ => isVfN f
  | .attach f _ => isVfN f
  | .publish f _ => isVfN f
  | .release f _ => isVfN f
  | .pin f _ => isVfN f
  | .unpin f _ => isVfN f
  | .flush f _ => isVfN f
  | .getInfo f m => decide (f ≤ Config.numVfs) && decide (m < 4)
  | .getState f m => decide (f ≤ Config.numVfs) && decide (m < 4)
  | .readLog f m => decide (f ≤ Config.numVfs) && decide (m < 4)
  | .fenceUnit f m => decide (f ≤ Config.numVfs) && decide (m < 4)
  | .unfenceUnit f m => decide (f ≤ Config.numVfs) && decide (m < 4)
  | .runSelftest f m _ => decide (f ≤ Config.numVfs) && decide (m < 4)
  | .setPowerStateDormant f m => decide (f ≤ Config.numVfs) && decide (m < 4)
  | .dormantEntryComplete f m => decide (f ≤ Config.numVfs) && decide (m < 4)
  | .setPowerStateOperational f m => decide (f ≤ Config.numVfs) && decide (m < 4)
  | .wakeComplete _ => true
  | .fwOpen f m => decide (f ≤ Config.numVfs) && decide (m < 4)
  | .fwWrite f m _ => decide (f ≤ Config.numVfs) && decide (m < 4)
  | .fwCommit f m => decide (f ≤ Config.numVfs) && decide (m < 4)
  | .fwAbort f m => decide (f ≤ Config.numVfs) && decide (m < 4)
  | .getVersion f m => decide (f ≤ Config.numVfs) && decide (m < 4)
  | .getCapabilities f m => decide (f ≤ Config.numVfs) && decide (m < 4)
  | .negotiateAlgorithms f m => decide (f ≤ Config.numVfs) && decide (m < 4)
  | .getDigests f m => decide (f ≤ Config.numVfs) && decide (m < 4)
  | .getCertificate f m => decide (f ≤ Config.numVfs) && decide (m < 4)
  | .challenge f m => decide (f ≤ Config.numVfs) && decide (m < 4)
  | .getMeasurements f m => decide (f ≤ Config.numVfs) && decide (m < 4)
  | .spdmUnsupportedRequest f m => decide (f ≤ Config.numVfs) && decide (m < 4)
  | .partitionCreate f m => decide (f ≤ Config.numVfs) && decide (m < 4)
  | .partitionDestroy f m => decide (f ≤ Config.numVfs) && decide (m < 4)
  | .loadImage f m _ => decide (f ≤ Config.numVfs) && decide (m < 4)
  | .unloadImage f m => decide (f ≤ Config.numVfs) && decide (m < 4)
  | .start f m => decide (f ≤ Config.numVfs) && decide (m < 4)
  | .pause f m => decide (f ≤ Config.numVfs) && decide (m < 4)
  | .pauseComplete f => isVfN f
  | .pauseTimeout f => isVfN f
  | .resume f m => decide (f ≤ Config.numVfs) && decide (m < 4)
  | .stop f m => decide (f ≤ Config.numVfs) && decide (m < 4)
  | .checkpointSave f m => decide (f ≤ Config.numVfs) && decide (m < 4)
  | .checkpointRestore f m => decide (f ≤ Config.numVfs) && decide (m < 4)
  | .setShapes f m => decide (f ≤ Config.numVfs) && decide (m < 4)
  | .prefixQuery f m => decide (f ≤ Config.numVfs) && decide (m < 4)
  | .kvExport f m => decide (f ≤ Config.numVfs) && decide (m < 4)
  | .registerWrite f _ _ _ => decide (f ≤ Config.numVfs)
  | .registerReadClear f _ _ => decide (f ≤ Config.numVfs)
  | .hostBarAccess f _ _ _ _ => decide (f ≤ Config.numVfs)
  | .lpdTrnGo f ctl _ _ => decide (f ≤ Config.numVfs) && decide (ctl < 16)
  | .chkInjGo f c _ => decide (f ≤ Config.numVfs) && decide (c < Config.numCores)
  | .pwrBootClr f _ => decide (f ≤ Config.numVfs)
  | .msixEnable f => decide (f ≤ Config.numVfs)
  | .msixUnmask f v => decide (f ≤ Config.numVfs) && decide (v < 64)
  | .ptmRequest => true
  | .ptmResponse _ => true
  | .flr f => isVfN f
  | .flrComplete f => isVfN f
  | .flrFunction0 _ => true
  | .hotReset _ => true
  | .ucieLinkTraining _ _ _ => true
  | .ucieLaneFailure mdl => decide (mdl < 2)
  | .powerOn => true
  | .mainRailStart _ => true
  | .rootPllLock _ => true
  | .watchdogExpiry _ => true
  | .undervoltageTrip => true
  | .overvoltageTrip => true
  | .hardwareTrip sensor => decide (sensor < 92)
  | .mrstN _ _ => true
  | .undervoltageRestart => true
  | .supplyWarning _ => true
  | .ref100Lost => true
  | .ref156Lost n => decide (n < 2)
  | .referenceRestored n => decide (n < 3)
  | .temperatureWarning sensor _ => decide (sensor < 92)
  | .thermalHalt sensor _ => decide (sensor < 92)
  | .thermalHaltEnd => true
  | .coolantWarning _ _ => true
  | .coolantHalt _ _ _ => true
  | .sensorFailure sensor => decide (sensor < 92)
  | .clearFaults => true
  | .statusWord => true
  | .statusInput => true
  | .statusTemperature => true
  | .readVin => true
  | .readIin => true
  | .readPin => true
  | .readTemperature1 => true
  | .readTemperature2 => true
  | .pmbusRevision => true
  | .mfrId => true
  | .mfrModel => true
  | .mfrSerial => true
  | .pmbusUnsupportedCommand _ => true
  | .pmbusSclTimeout => true
  | .setdasa _ _ => true
  | .i3cPrivateRead _ => true
  | .i3cPrivateWrite _ _ => true
  | .i3cIdleTimeout => true
  | .standbyDomainOff => true
  | .vfEnable _ => true

end Sys2Proof
end

