-- ==== Sys2Proof/Safety.lean ====
section
/-! DEFINITION. What a safe run is, and the words the statements use for what a command changes and leaves. -/

namespace Sys2Proof.Machine

/-! ## Runs -/

/-- The queue holds well-formed commands only. -/
def State.queueWf (s : State) : Bool := s.pending.all Instr.wf

/-- The step answers a next state. -/
def stepGoesOn (s : State) : Prop := ∃ t, step s = .next t

/-- Command i answers a next state: the queue is as it was and the block meets P. -/
def Runs (i : Instr) (s : State) (P : Block → Prop) : Prop := ∃ t, exec i s = .next t ∧ t.pending = s.pending ∧ P t.toBlock

/-! ## Frames -/

/-- Registers whose address lies in none of the windows (first address, length) keep their words. -/
def RegsKept (b b' : Block) (w : List (Nat × Nat)) : Prop :=
  ∀ r : Reg, (∀ x ∈ w, r.addr < x.1 ∨ x.1 + x.2 ≤ r.addr) → rd b' r = rd b r

/-- Bytes of scratch and LPDDR5X that lie in none of the windows keep their values. -/
def BytesKept (b b' : Block) (w : List (Nat × Nat)) : Prop :=
  ∀ a : Nat, (∀ x ∈ w, a < x.1 ∨ x.1 + x.2 ≤ a) → byteAt b' a = byteAt b a

/-- One register. -/
def Reg.window (r : Reg) : Nat × Nat := (r.addr, 1)

/-- The registers of a core, a function, a port, a controller, an object, a Teasel engine and the module's Campion
registers (01_module.md R34, R35). -/
def coreWindow (c : Nat) : Nat × Nat := (coreBase c, 0x10000)
def funcWindow (f : Nat) : Nat × Nat := (mbxBase + f * 0x10000, 0x10000)
def portWindow (p : Nat) : Nat × Nat := (lnkBase + p * 0x10000, 0x10000)
def ctlWindow (k : Nat) : Nat × Nat := (lpdBase + k * 0x10000, 0x10000)
def objWindow (o : Nat) : Nat × Nat := (synBase + 0x100000 + o * 0x10, 0x10)
def engineWindow (e : Nat) : Nat × Nat := (tslBase + e * 0x100000, 0x100000)
def chkWindow : Nat × Nat := (chkBase, 0x1000000)

/-- The runs of bytes of an output that lies in core c's scratch. -/
def putWindows (c : Nat) (ps : List (Nat × Bytes)) : List (Nat × Nat) := ps.map fun p => (scratchAt c p.1, p.2.length)

/-- Every core but c is as it was. -/
def OtherCoresKept (b b' : Block) (c : Nat) : Prop := ∀ d, d ≠ c → core b' d = core b d

/-! ## Entries of a step table (05_step_tables.md R155) -/

/-- The completion record bs of entry e is in SEQ_CREC and, where CREC names a granule, in scratch; SEQ_INVOC has
counted. -/
def RecordWritten (b b' : Block) (c : Nat) (e : BitVec 512) (bs : Bytes) : Prop :=
  rd b' (.seqInvoc c) = (rd b (.seqInvoc c) + 1) % 2 ^ 64 ∧
  (∀ w < 8, rd b' (.seqCrec c w) = leAt bs (4 * w) 4) ∧
  (ef e 63 48 ≠ 0xFFFF → scr b' c (ef e 63 48 * 32) 32 = bs)

/-- The record of a control entry: STATUS as given, every counter 0. -/
def ctlRecord (b : Block) (c : Nat) (e : BitVec 512) (status : Nat) : Bytes :=
  creBytes (seqEntry b c) (opcodeOf e) status 0 (rd b (.seqInvoc c) % 2 ^ 32) 0 Counters.zero

/-- The sequencer runs on at the entry that follows nx − 1 in the loops open in b (R144, R145). -/
def WentTo (b b' : Block) (c nx : Nat) : Prop :=
  let x := loopNext b c (core b c).loops nx
  (core b' c).loops = x.1 ∧ (core b' c).inv = none ∧ (core b' c).seqWaiting = false ∧
  (∀ p ∈ x.2.2, p.1 < 4 → rd b' (.seqLoop c p.1) = p.2 % 2 ^ 32) ∧
  seqEntry b' c = x.2.1 % 4096 ∧ seqState b' c = seqRunning ∧ flag b' (.coreStatus c) 0 = false

/-- The registers that completing an entry and going on write: SEQ_STATUS, CORE_STATUS, SEQ_INVOC, SEQ_CREC and the
four SEQ_LOOP, which follow one another. -/
def entryWindows (c : Nat) : List (Nat × Nat) :=
  [(Reg.seqStatus c).window, (Reg.coreStatus c).window, (Reg.seqInvoc c).window, ((Reg.seqCrec c 0).addr, 0x30)]

/-- The bytes a completion record is stored to. -/
def recordWindows (c : Nat) (e : BitVec 512) : List (Nat × Nat) :=
  if ef e 63 48 = 0xFFFF then [] else [(scratchAt c (ef e 63 48 * 32), 32)]

/-- Core c's ring n has one producer and one consumer, agent a, which publishes or releases now, among them
(06_streams.md R165). -/
def ringSound (b : Block) (c n : Nat) (a : Agent) (pub : Bool) : Bool :=
  !ringBroken ((core b c).withUser n (agentId b a) pub) n

/-- Every ring of core c that a signal of relative object o by agent a releases has that one consumer. -/
def slotsSound (b : Block) (c o : Nat) (a : Agent) : Bool := (freedRings b c o).all fun r => ringSound b c r a false

/-- The block after agent a has released n slots of every ring whose FREE object is o (06_streams.md R171, 10_links.md
R286). -/
def slotsReleased (b : Block) (a : Agent) (c f o n : Nat) : Block := (Act.releaseSlots a c f o n).run b

/-- How far a signal of relative object o by n moves HEAD of ring r (06_streams.md R171). -/
def headStep (b : Block) (c o n r : Nat) : Nat := if r ∈ freedRings b c o then n else 0

/-- HEAD of every ring of core c has moved by k; TAIL has not. -/
def HeadsMoved (b b' : Block) (c : Nat) (k : Nat → Nat) : Prop :=
  ∀ r < 16, ringHead b' c r = (ringHead b c r + k r) % 65536 ∧ ringTail b' c r = ringTail b c r

/-- STR_RING_PTR of the rings that a signal of relative object o releases. -/
def ringWindows (b : Block) (c o : Nat) : List (Nat × Nat) := (freedRings b c o).map fun r => (Reg.strRingPtr c r).window

/-- SIGOBJ of an entry is not signalled, or is a live object whose rings the sequencer may release. -/
def sigSound (b : Block) (c f : Nat) (e : BitVec 512) : Bool :=
  !bitOf e.toNat 47 || ((liveObj b f (ef e 46 32)).isSome && slotsSound b c (ef e 46 32) (.seq c))

/-- The block after SIGOBJ has released its slots; how far it moves HEAD; the registers it writes. -/
def sigReleased (b : Block) (c f : Nat) (e : BitVec 512) : Block :=
  if bitOf e.toNat 47 then slotsReleased b (.seq c) c f (ef e 46 32) 1 else b
def sigStep (b : Block) (c : Nat) (e : BitVec 512) (r : Nat) : Nat :=
  if bitOf e.toNat 47 then headStep b c (ef e 46 32) 1 r else 0
def sigWindows (b : Block) (c : Nat) (e : BitVec 512) : List (Nat × Nat) :=
  if bitOf e.toNat 47 then ringWindows b c (ef e 46 32) else []

/-- The signal an entry sends as it completes. -/
def sigMsgs (b : Block) (c f : Nat) (e : BitVec 512) : List SyncMsg :=
  if bitOf e.toNat 47 then (liveObj b f (ef e 46 32)).toList.map fun o => .sig o 1 (.seq c) (seqEntry b c) else []

/-- An entry has completed with record bs and its sequencer runs on at nx. -/
def EntryCompleted (b b' : Block) (c f : Nat) (e : BitVec 512) (bs : Bytes) (nx : Nat) : Prop :=
  RecordWritten b b' c e bs ∧ WentTo b b' c nx ∧ OtherCoresKept b b' c ∧
  b'.toUnits = { b.toUnits with
    cores := b'.cores, ports := (sigReleased b c f e).ports, syncNet := b.syncNet ++ sigMsgs b c f e } ∧
  core b' c = { core b c with
    loops := (loopNext b c (core b c).loops nx).1, inv := none, seqWaiting := false,
    ringRel := (core (sigReleased b c f e) c).ringRel } ∧
  HeadsMoved b b' c (sigStep b c e) ∧
  RegsKept b b' (entryWindows c ++ sigWindows b c e) ∧ BytesKept b b' (recordWindows c e)

/-! ## Array, pooling, resize and vector entries -/

/-- The entry has an opcode and SUBOP; an opcode and a function bit. -/
def isOp (op sub : Nat) (e : BitVec 512) : Bool := opcodeOf e == op && subopOf e == sub
def isBit (op bit : Nat) (v : Bool) (e : BitVec 512) : Bool := opcodeOf e == op && bitOf e.toNat bit == v

/-- The commands of the vector, pooling and resize entries, each with the entries it runs (05_step_tables.md R126,
R141, 07_image_ops.md R198, R201, 08_attention.md R212). -/
def workRows (c : Nat) (d : Option Det) : List (Instr × (BitVec 512 → Bool)) :=
  [(.normStats c d, isOp opNorm 0), (.normApply c d, isOp opNorm 1), (.normStatsApply c d, isOp opNorm 2),
   (.normRecompute c d, isOp opNorm 3), (.convert c d, isOp opConvert 0), (.elemAdd c d, isOp opElemwise 0),
   (.elemSub c d, isOp opElemwise 1), (.elemMul c d, isOp opElemwise 2), (.elemFma c d, isOp opElemwise 3),
   (.elemMax c d, isOp opElemwise 4), (.elemMin c d, isOp opElemwise 5), (.elemAbs c d, isOp opElemwise 6),
   (.elemNeg c d, isOp opElemwise 7), (.elemCopysign c d, isOp opElemwise 8),
   (.elemSelect c d, isOp opElemwise 9), (.elemCmpEq c d, isOp opElemwise 10),
   (.elemCmpLt c d, isOp opElemwise 11), (.elemCmpLe c d, isOp opElemwise 12),
   (.elemScale2 c d, isOp opElemwise 13), (.elemRcp c d, isOp opElemwise 14),
   (.elemSqrt c d, isOp opElemwise 15), (.elemRsqrt c d, isOp opElemwise 16),
   (.elemDiv c d, isOp opElemwise 17), (.elemExp c d, isOp opElemwise 18), (.elemExp2 c d, isOp opElemwise 19),
   (.elemLog c d, isOp opElemwise 20), (.elemLog2 c d, isOp opElemwise 21), (.elemSin c d, isOp opElemwise 22),
   (.elemCos c d, isOp opElemwise 23), (.elemTanh c d, isOp opElemwise 24),
   (.elemSigmoid c d, isOp opElemwise 25), (.elemSilu c d, isOp opElemwise 26),
   (.elemGelu c d, isOp opElemwise 27), (.reduceSum c d, isOp opReduce 0), (.reduceMax c d, isOp opReduce 1),
   (.reduceMin c d, isOp opReduce 2), (.digest c d, isOp opDigest 0), (.gather c d, isOp opGather 0),
   (.scatter c d, isOp opGather 1), (.poolMax c d, isBit opPool 468 false),
   (.poolAvg c d, isBit opPool 468 true), (.resizeNearest c d, isBit opResize 317 false),
   (.resizeBilinear c d, isBit opResize 317 true)]

/-- The commands of the array entries. -/
def tileRows (c : Nat) : List (Instr × (BitVec 512 → Bool)) :=
  [(.matmul c, fun e => opcodeOf e == opMatmul), (.score c, fun e => opcodeOf e == opScore),
   (.conv c, fun e => opcodeOf e == opConv)]

/-- The latched extents make the invocation run: no null repetition, no shape overrun, no zero extent (R145, R151,
R152). -/
def extentsRun (b : Block) (c : Nat) (e : BitVec 512) : Bool :=
  !nullRepetition b c && !shapeOverrun e (latch b c e).ext (latch b c e).extw && !zeroExtent (latch b c e).ext

/-- What n replay units from u on write, each computed on the block that the units before it left. -/
def unitPuts (c : Nat) (w : Work) : Nat → Nat → Block → List (Nat × Bytes)
  | 0, _, _ => []
  | n + 1, u, b => (w.unit b u).puts ++ unitPuts c w n (u + 1) ((Act.workUnit c w u false).run b)

/-- None of n replay units from u on finds an index or box out of range. -/
def unitsInRange (c : Nat) (w : Work) : Nat → Nat → Block → Bool
  | 0, _, _ => true
  | n + 1, u, b => (w.unit b u).fault.isNone && unitsInRange c w n (u + 1) ((Act.workUnit c w u false).run b)

/-- Runs of bytes in core c's scratch written one after another. -/
def putAll (c : Nat) (m : List Host.Cell) (ps : List (Nat × Bytes)) : List Host.Cell :=
  ps.foldl (fun m p => cellsPut m (scratchAt c p.1) p.2) m

/-- The rational number that an exact number stands for. -/
def Q.rat (q : Q) : Rat := (q.num : Rat) / (q.den : Rat) * (2 : Rat) ^ q.exp

/-- Value v stands for the rational number q. -/
def Val.stands (v : Val) (q : Rat) : Prop := v.isFinite = true ∧ v.toQ.rat = q

/-- The exact result of an ELEMWISE SUBOP on finite operands (04_core.md R118, R423, 05_step_tables.md R141): x, y and
the addend a, the sign of y, SELECT's flag and SCALE2's n. None where the result is no number of this kind or, for the
functions of R118 that have no rational value, is given by its error bound. -/
def elemRat (sub : Nat) (x y a : Rat) (yNeg : Bool) (pick : Nat) (n : Int) : Option Rat :=
  let mag : Rat := if x < 0 then -x else x
  match sub with
  | 0x00 => some (x + y)
  | 0x01 => some (x - y)
  | 0x02 => some (x * y)
  | 0x03 => some (x * y + a)
  | 0x04 => some (if x ≤ y then y else x)
  | 0x05 => some (if x ≤ y then x else y)
  | 0x06 => some mag
  | 0x07 => some (-x)
  | 0x08 => some (if yNeg then -mag else mag)
  | 0x09 => some (if pick = 0 then y else x)
  | 0x0D => if n.natAbs ≤ 4000 then some (x * (2 : Rat) ^ n) else none
  | 0x0E => if x = 0 then none else some (1 / x)
  | 0x11 => if y = 0 then none else some (x / y)
  | _ => none

/-- A comparison of finite operands: 0x0A EQ, 0x0B LT, 0x0C LE. -/
def elemHolds (sub : Nat) (x y : Rat) : Bool :=
  if sub = 0x0A then decide (x = y) else if sub = 0x0B then decide (x < y) else decide (x ≤ y)

/-- What one combining step of a REDUCE makes of two finite values, before it is rounded (04_core.md R119). -/
def reduceRat (sub : Nat) (x y : Rat) : Rat :=
  if sub = 0 then x + y else if sub = 1 then (if x ≤ y then y else x) else (if x ≤ y then x else y)

/-- A node of R119's tree: lane k at level 0; above it the pair of nodes 2k and 2k + 1, where both have elements. -/
def treeNode (step : OutVal → OutVal → OutVal) (lane : Nat → Option OutVal) : Nat → Nat → Option OutVal
  | 0, k => lane k
  | l + 1, k => match treeNode step lane l (2 * k), treeNode step lane l (2 * k + 1) with
    | some x, some y => some (step x y)
    | some x, none => some x
    | none, y => y

/-- Lane k of R119: the elements k, k + 32, k + 64 and so on, in that order, the first rounded by itself. -/
def laneSum (m : Mode) (sub k : Nat) (xs : List Val) : Option OutVal :=
  ((List.range xs.length).filter fun j => j % 32 == k).foldl (fun acc j =>
    let x := OutVal.clean ((xs[j]?).getD (.zero false))
    some (match acc with
      | none => redFirst m x
      | some y => redStep m sub y x)) none

/-- The registers that the first cycle of an invocation writes. -/
def latchWindows (c : Nat) (e : BitVec 512) : List (Nat × Nat) :=
  (Reg.coreStatus c).window :: (slotOf e).toList.map fun n => (Reg.coreSslotScale c n).window

/-- The Tansy buffer takes a record: each has its place by BEAT, UCLASS and UNIT, and SEQNO follows the order
(11_integrity.md R335). -/
def BufferTakes (b b' : Block) (body : Bytes) (seq : Nat) : Prop :=
  b'.campion.buffer = renumber (insertRec body b.campion.buffer) (b.campion.buffer.map recSeq ++ [seq])

/-- A record of an event code enters the Tansy buffer, where there is room. -/
def LogsOne (b b' : Block) (code : Nat) : Prop :=
  b.campion.buffer.length < 4096 → ∃ body, recDetector body = code ∧ BufferTakes b b' body ((rd b .chkLogSeq + 1) % 2 ^ 32)

/-! ## Mailboxes (12_host.md R347 to R350) -/

/-- Mailbox m of function f, which held a request, has its response: the page, STATUS and DONE, and it is idle. -/
def Responded (b b' : Block) (f m status detail : Nat) (payload : Bytes) : Prop :=
  ∃ r, request b f m = some r ∧ request b' f m = none ∧
    (∀ i < 0x400, rd b' (.mbxPage f (rspWord m + i)) = leAt (responseBytes b r status detail payload) (4 * i) 4) ∧
    rd b' (.mbxMb f m) = status * 2 ^ 24 + 4

/-- The registers a response writes. -/
def responseWindows (f m : Nat) : List (Nat × Nat) :=
  [((Reg.mbxPage f (rspWord m)).addr, 0x1000), (Reg.mbxMb f m).window, (Reg.msixPba f).window]

/-- A response and nothing else. -/
def OnlyResponded (b b' : Block) (f m status detail : Nat) (payload : Bytes) : Prop :=
  Responded b b' f m status detail payload ∧ RegsKept b b' (responseWindows f m) ∧ b'.mem = b.mem ∧
    func b' f = { func b f with latched := smDel (func b f).latched m } ∧ (∀ g, g ≠ f → func b' g = func b g) ∧
    b'.toUnits = { b.toUnits with funcs := b'.funcs, outbox := b'.outbox, service := b'.service } ∧
    (b'.service = b.service ∨ b'.service = { b.service with turn := f })

/-- Mailbox m of f executes request r of a command, its turn has come (R351, R352), and no status of R350 steps 1 to 4
applies. -/
def Accepts (b : Block) (f m : Nat) (c : Cmd) (r : Bytes) : Prop :=
  isFunc f = true ∧ isMbox m = true ∧ request b f m = some r ∧ reqCode r = c.code ∧
    waits b f m c.code = false ∧ c.refusal b f r = none

/-- No PAUSE of mailbox m of f is in execution. -/
def noPause (b : Block) (f m : Nat) : Prop := ∀ g, (part b g).pausing ≠ some (.command f m)

/-- The mailbox commands and their frames. -/
def mailRows (b : Block) (f m : Nat) : List (Instr × Cmd) :=
  [(.getInfo f m, cmdGetInfo), (.getState f m, cmdGetState), (.readLog f m, cmdReadLog), (.fenceUnit f m, cmdFenceUnit),
   (.unfenceUnit f m, cmdUnfenceUnit), (.runSelftest f m [], cmdRunSelftest), (.setPowerStateDormant f m, cmdSetPower),
   (.fwOpen f m, cmdFwOpen), (.fwWrite f m [], cmdFwWrite), (.fwCommit f m, cmdFwCommit), (.fwAbort f m, cmdFwAbort),
   (.partitionCreate f m, cmdCreate b), (.partitionDestroy f m, cmdDestroy), (.loadImage f m none, cmdLoadImage),
   (.unloadImage f m, cmdUnload), (.start f m, cmdStart), (.pause f m, cmdPause), (.resume f m, cmdResume),
   (.stop f m, cmdStop), (.setShapes f m, cmdSetShapes), (.prefixQuery f m, cmdPrefixQuery),
   (.kvExport f m, cmdKvExport)]

/-! ## Host accesses (00_scope.md R12, 12_host.md R342, R343) -/

/-- Registers that a write changes by its access codes alone: no command, no range, no reserved encoding. -/
def Reg.plain : Reg → Bool
  | .mbxMb _ _ | .mbxPage _ _ | .msixTable _ _ | .synObjState _ | .synObjCfg _ | .lnkCfg _ | .chkUtcOffset | .chkInject _
  | .pwrBoot | .lpdTrnOvr _ | .coreSslotScale _ _ | .lnkEthSeg _ | .tslRate _ _ | .lpdScrub _ | .mbxWinBase _ => false
  | _ => true

/-- A function writes a register that it reaches: its own, and not a core frame of its own while it is RUNNING. -/
def reaches (b : Block) (f : Nat) (r : Reg) : Bool :=
  !(decide (mbxBase ≤ r.addr) && decide (r.addr < synBase) && (r.addr - mbxBase) / 0x10000 != f) &&
    !(f != 0 && (frameCore r.addr).isSome && (part b f).st == .running)

/-- The block is as it was but for the record of an access. -/
def OnlyLogged (b b' : Block) (code : Nat) : Prop :=
  LogsOne b b' code ∧ (∀ r : Reg, r.addr ≠ Reg.chkLogSeq.addr → r.addr ≠ Reg.chkLogDropped.addr →
      (∀ g, r.addr ≠ (Reg.mbxEvent g).addr ∧ r.addr ≠ (Reg.msixPba g).addr) → rd b' r = rd b r) ∧
    b'.mem = b.mem ∧ b'.cores = b.cores ∧ b'.parts = b.parts ∧ b'.ports = b.ports ∧ b'.funcs = b.funcs

/-! ## The module: trips, monitor, sideband (14_module_hw.md R394 to R403, 15_power_boot.md R406, R407) -/

/-- The registers that a record of the module writes. -/
def logWindows : List (Nat × Nat) := [Reg.chkLogSeq.window, Reg.chkLogDropped.window]

/-- The registers that a monitored condition and its record write. -/
def monitorWindows : List (Nat × Nat) := logWindows ++ [Reg.pwrInStatus.window, Reg.pwrInLatch.window]

/-- Nothing but some registers, the power unit, the record buffer and the free counter changes. -/
def OnlyMonitored (b b' : Block) (w : List (Nat × Nat)) : Prop :=
  RegsKept b b' (w ++ monitorWindows) ∧ b'.mem = b.mem ∧
    b'.toUnits = { b.toUnits with power := b'.power, campion := b'.campion, freeCtr := b'.freeCtr } ∧
    b'.campion.hist = b.campion.hist ∧ b'.campion.log = b.campion.log

/-- Every partition, unit and register but those of flash, fuses and the power stage is as after reset, the registers w
apart. -/
def ModuleLost (b b' : Block) (w : List Reg) : Prop :=
  b'.mem = [] ∧ b'.parts = [] ∧ b'.cores = [] ∧ b'.objs = [] ∧ b'.syncNet = [] ∧ b'.funcs = [] ∧ b'.vfs = 0 ∧
    b'.ports = [] ∧ b'.exports = [] ∧ b'.dirs = [] ∧ b'.campion.buffer = [] ∧ b'.campion.hist = b.campion.hist ∧ b'.campion.log = b.campion.log ∧
    b'.power.slotA = b.power.slotA ∧ b'.power.slotB = b.power.slotB ∧
    ∀ r : Reg, Reg.ofAddr r.addr = some r → r ∉ w →
      (keptReg r = false → rd b' r = r.resetVal.toNat) ∧
      (keptReg r = true → r ∉ [.pwrLastTrip, .pwrBoot, .secStatus, .chkLogSeq] → rd b' r = rd b r)

/-- The partitions that a halt stops: every RUNNING one pauses, with the halt noted that began first. -/
def HaltBegins (b b' : Block) (event sensor value : Nat) : Prop :=
  flag b' .pwrInStatus 8 = true ∧ flag b' .pwrInLatch 8 = true ∧ haltActive b' = true ∧
    b'.power.halt = some (b.power.halt.getD (event, sensor, value)) ∧
    ∀ f, part b' f = if isVf f = true ∧ (part b f).st = .running then
      { (part b f).pauseFor .halt with halted := some ((part b f).halted.getD (event, sensor, value)) } else part b f

/-- An answer of the PMBus or I3C target, and nothing else. -/
def OnlyReplied (b b' : Block) (x : Output) : Prop :=
  b'.outbox = b.outbox ++ [x] ∧ b'.regs = b.regs ∧ b'.mem = b.mem ∧
    b'.toUnits = { b.toUnits with outbox := b'.outbox, freeCtr := b'.freeCtr }

/-! ## Faults of a run (04_core.md R123, 06_streams.md R167, R168, R181) -/

/-- Agent a of function f's partition, standing at pos, has a fault of a cause: its unit stops and records it, it is the
partition's recorded fault where that is the first, it enters the log under its event code, and the partition is FAULTED. -/
def AgentFaults (b b' : Block) (a : Agent) (f pos cause code : Nat) : Prop :=
  (match a with
    | .seq c | .drain c _ => seqState b' c = seqFaulted ∧
        (seqState b c ≠ seqFaulted → rd b' (.seqFault c) = (cause * 2 ^ 24 + pos) % 2 ^ 32)
    | .ctx c x => ctxActive b' c x = false ∧ ctxWaiting b' c x = false ∧ flag b' (.strStatus c) (4 + x) = true ∧
        (rd b (.strFault c) = 0 →
          rd b' (.strFault c) = (cause * 2 ^ 24 + x * 2 ^ 22 + pos / 32 * 2 ^ 16 + pos % 32) % 2 ^ 32)
    | _ => True) ∧
  (part b' f).fault.isSome = true ∧ ((part b f).fault = none → fld b' (.mbxFunc f) 7 0 = cause % 256) ∧
  ((part b f).st = .running → (part b' f).st = .faulted ∧ (part b' f).pausing = none) ∧
  (b'.campion.buffer.length < 4096 → ∃ r ∈ b'.campion.buffer, recDetector r = code)

/-- An agent of function f's partition that stands on a core: its sequencer, or a context of its stream engine. -/
def coreAgent (b : Block) (a : Agent) (f : Nat) : Prop :=
  isFunc f = true ∧ a.func b = some f ∧
    ∃ c, isCore c = true ∧ (a = .seq c ∨ ∃ x, isCtx x = true ∧ a = .ctx c x)

/-- The operations of the directory engine, each with its OP and what it answers to a request (08_attention.md R237). -/
def dirRows (b : Block) (f : Nat) (host : Bool) (r : Bytes) : List (Instr × Nat × DirAnswer) :=
  [(.lookup f host, 1, dirLookup b f r), (.attach f host, 2, dirAttach b f r), (.publish f host, 3, dirPublish b f r),
   (.release f host, 4, dirRelease b f r), (.pin f host, 5, dirPin b f r true), (.unpin f host, 6, dirPin b f r false),
   (.flush f host, 7, dirFlush b f r host)]

/-! ## Invariants -/

/-- Memory is canonical; registers are sorted by address, and each one listed belongs to a register, differs from its
reset value and fits its width. -/
def Block.Inv (b : Block) : Prop :=
  Memory.wf b.mem = true ∧ smSorted b.regs = true ∧
    ∀ e ∈ b.regs, ∃ r : Reg, r.addr = e.1 ∧ e.2 ≠ r.resetVal ∧ e.2.toNat < 2 ^ r.width

/-- No plot is in the partitions of two functions (12_host.md R344), and none in a partition that does not exist. -/
def Block.PlotsApart (b : Block) : Prop :=
  (∀ f g : Nat, f ≠ g → ∀ p : Nat, ¬ ((part b f).plots.getLsbD p = true ∧ (part b g).plots.getLsbD p = true)) ∧
    ∀ f : Nat, (part b f).plots ≠ 0 → isVf f = true ∧ (part b f).st ≠ .empty

end Sys2Proof.Machine
end

