-- ==== Sys2Proof/Certificates/Slice0/Obligations.lean ====
section
/-! DEFINITION. The statements for the provers. -/

open Sys2Proof Sys2Proof.Machine

/-- WAIT and BARRIER are held. -/
def Obligations.WaitAndBarrierEntriesHold : Prop :=
  ∀ (c : Nat) (s : State) (f o : Nat) (e : BitVec 512), isCore c = true →
    let b := s.toBlock
    liveObj b f (ctlObj e) = some o →
    let held (m : SyncMsg) (t : Block) : Prop :=
      t.syncNet = b.syncNet ++ [m] ∧ seqState t c = seqWaits ∧ seqEntry t c = seqEntry b c ∧
      core t c = { core b c with seqWaiting := true, entryBeat := beat b } ∧ OtherCoresKept b t c ∧
      t.toUnits = { b.toUnits with cores := t.cores, syncNet := t.syncNet } ∧
      RegsKept b t [(Reg.seqStatus c).window] ∧ t.mem = b.mem
    (readyOp b c opWait = some (f, e) → Runs (.wait c) s
      (held (.wait o { agent := .seq c, n := ctlAmount e, left := some (objBound b o + 1) }))) ∧
    (readyOp b c opBarrier = some (f, e) → Runs (.barrier c) s
      (held (.arr o { agent := .seq c, n := 1, left := some (objBound b o + 1) })))

/-- A SIGNAL entry sends its message, moves HEAD of every ring whose FREE object it signals, and completes. -/
def Obligations.SignalEntrySendsAndCompletes : Prop :=
  ∀ (c : Nat) (s : State) (f o : Nat) (e : BitVec 512), isCore c = true →
    let b := s.toBlock
    readyOp b c opSignal = some (f, e) → liveObj b f (ctlObj e) = some o → slotsSound b c (ctlObj e) (.seq c) = true →
    sigSound b c f e = true →
    let b2 := sigReleased (slotsReleased b (.seq c) c f (ctlObj e) (ctlAmount e)) c f e
    Runs (.signal c) s fun t =>
      RecordWritten b t c e (ctlRecord b c e 0) ∧ WentTo b t c (seqEntry b c + 1) ∧
      t.toUnits = { b.toUnits with
        cores := t.cores, ports := b2.ports,
        syncNet := b.syncNet ++ [.sig o (ctlAmount e) (.seq c) (seqEntry b c)] ++ sigMsgs b c f e } ∧
      core t c = { core b c with
        loops := (core t c).loops, inv := none, seqWaiting := false, ringRel := (core b2 c).ringRel } ∧
      HeadsMoved b t c (fun r => headStep b c (ctlObj e) (ctlAmount e) r + sigStep b c e r) ∧
      OtherCoresKept b t c ∧ RegsKept b t (entryWindows c ++ ringWindows b c (ctlObj e) ++ sigWindows b c e) ∧
      BytesKept b t (recordWindows c e)

/-- A STREAM entry starts its program in the lowest free context and completes; with four contexts active it is a schedule
overrun of its sequencer (R167). -/
def Obligations.StreamEntryStartsItsProgram : Prop :=
  ∀ (c : Nat) (s : State) (f x : Nat) (e : BitVec 512), isCore c = true →
    let b := s.toBlock
    readyOp b c opStream = some (f, e) →
    (freeCtxOf b c = none → isFunc f = true → Runs (.stream c) s fun t =>
      AgentFaults b t (.seq c) f (seqEntry b c) 2 0x20 ∧ rd t .synOverruns = satAdd (rd b .synOverruns) 1 32 ∧
      (∀ y < 4, ctxProg t c y = ctxProg b c y ∧ ctxPc t c y = ctxPc b c y) ∧ (core t c).inv = none ∧
      seqEntry t c = seqEntry b c ∧ (∀ g, g ≠ f → part t g = part b g) ∧ t.mem = b.mem) ∧
    (freeCtxOf b c = some x → sigSound b c f e = true →
    Runs (.stream c) s fun t =>
      rd t (.strCtx c x) = 2 ^ 31 + ef e 69 64 * 2 ^ 24 ∧
      flag t (.strStatus c) x = true ∧ flag t (.strStatus c) (4 + x) = false ∧
      ctxOf (core t c) x = { CtxState.reset with
        args := [BitVec.ofNat 32 (ef e 127 96), BitVec.ofNat 32 (ef e 159 128), BitVec.ofNat 32 (ef e 191 160),
                 BitVec.ofNat 32 (ef e 223 192)] } ∧
      (∀ y, y ≠ x → ctxOf (core t c) y = ctxOf (core b c) y) ∧
      RecordWritten b t c e (ctlRecord b c e 0) ∧ WentTo b t c (seqEntry b c + 1) ∧
      t.toUnits = { b.toUnits with
        cores := t.cores, ports := (sigReleased b c f e).ports, syncNet := b.syncNet ++ sigMsgs b c f e } ∧
      core t c = { core b c with
        loops := (core t c).loops, inv := none, seqWaiting := false, ctxs := (core t c).ctxs,
        ringRel := (core (sigReleased b c f e) c).ringRel } ∧
      HeadsMoved b t c (sigStep b c e) ∧ OtherCoresKept b t c ∧
      RegsKept b t (entryWindows c ++ [(Reg.strCtx c x).window, (Reg.strStatus c).window] ++ sigWindows b c e) ∧
      BytesKept b t (recordWindows c e))

/-- A PARAM entry writes its word to the shape set or to scratch, and completes. -/
def Obligations.ParamEntryWritesItsWord : Prop :=
  ∀ (c : Nat) (s : State) (f : Nat) (e : BitVec 512), isCore c = true →
    let b := s.toBlock
    readyOp b c opParam = some (f, e) → sigSound b c f e = true →
    let w := if ef e 65 64 = 0 then ef e 103 72 else scrWord b c (ef e 90 72 * 4 + paramIdx b c e * ef e 119 104)
    let toScratch := bitOf e.toNat 66
    let dst := scratchAt c (ef e 145 127 * 4)
    Runs (.param c) s fun t =>
      (toScratch = false → rd t (.seqRs c (ef e 126 123) (ef e 122 120)) = w) ∧
      (toScratch = true → (∀ x ∈ recordWindows c e, dst + 4 ≤ x.1 ∨ x.1 + x.2 ≤ dst) →
        bytesAt t dst 4 = leBytes w 4) ∧
      RecordWritten b t c e (ctlRecord b c e 0) ∧ WentTo b t c (seqEntry b c + 1) ∧
      t.toUnits = { b.toUnits with
        cores := t.cores, ports := (sigReleased b c f e).ports, syncNet := b.syncNet ++ sigMsgs b c f e } ∧
      core t c = { core b c with
        loops := (core t c).loops, inv := none, seqWaiting := false,
        ringRel := (core (sigReleased b c f e) c).ringRel } ∧
      HeadsMoved b t c (sigStep b c e) ∧ OtherCoresKept b t c ∧
      RegsKept b t (entryWindows c ++ sigWindows b c e ++
        if toScratch then [] else [(Reg.seqRs c (ef e 126 123) (ef e 122 120)).window]) ∧
      BytesKept b t (recordWindows c e ++ if toScratch then [(dst, 4)] else [])

/-- A LOOP entry within its planned count opens its loop with index 0, or passes over its range. -/
def Obligations.LoopEntryOpensOrPassesOver : Prop :=
  ∀ (c : Nat) (s : State) (f : Nat) (e : BitVec 512), isCore c = true →
    let b := s.toBlock
    let i := seqEntry b c
    let planned := ef e 79 64
    let len := ef e 91 80
    let n := if bitOf e.toNat 93 then rd b (.seqRs c (ef e 19 16) 0) else planned
    let depth := (core b c).loops.length
    readyOp b c opLoop = some (f, e) → sigSound b c f e = true → n ≤ planned → 1 ≤ planned → 1 ≤ len →
    ((n ≠ 0 ∨ bitOf e.toNat 92 = true) → Runs (.loop c) s fun t =>
      RecordWritten b t c e (ctlRecord b c e (if n = 0 then 1 else 0)) ∧
      (depth < 4 → rd t (.seqLoop c depth) = n * 65536) ∧ seqEntry t c = (i + 1) % 4096 ∧ seqState t c = seqRunning ∧
      t.toUnits = { b.toUnits with
        cores := t.cores, ports := (sigReleased b c f e).ports, syncNet := b.syncNet ++ sigMsgs b c f e } ∧
      core t c = { core b c with
        loops := { entry := i, len := len, count := planned, keep := bitOf e.toNat 92 } :: (core b c).loops,
        inv := none, seqWaiting := false, ringRel := (core (sigReleased b c f e) c).ringRel } ∧
      HeadsMoved b t c (sigStep b c e) ∧ OtherCoresKept b t c ∧
      RegsKept b t (entryWindows c ++ sigWindows b c e) ∧ BytesKept b t (recordWindows c e)) ∧
    ((n = 0 ∧ bitOf e.toNat 92 = false) → Runs (.loop c) s fun t =>
      EntryCompleted b t c f e (ctlRecord b c e 1) (i + len + 1))

/-- An END entry stops its sequencer at END's index; the run is over when it was the last. -/
def Obligations.EndEntryStopsItsSequencer : Prop :=
  ∀ (c : Nat) (s : State) (f : Nat) (e : BitVec 512), isCore c = true →
    let b := s.toBlock
    readyOp b c opEnd = some (f, e) → sigSound b c f e = true →
    let last := (coresOf b f).all fun d =>
      (d == c || (core b d).ended) && (List.range 4).all fun x => !ctxActive b d x
    Runs (.seqEnd c) s fun t =>
      RecordWritten b t c e (ctlRecord b c e 0) ∧
      seqState t c = seqStopped ∧ seqEntry t c = seqEntry b c ∧
      core t c = { core b c with ended := true, ringRel := (core (sigReleased b c f e) c).ringRel } ∧
      HeadsMoved b t c (sigStep b c e) ∧ OtherCoresKept b t c ∧ (∀ g, g ≠ f → part t g = part b g) ∧
      (part t f).st = (if last then .loaded else .running) ∧
      (last = true → fld t (.mbxFunc f) 28 26 = 2 ∧ flag t (.mbxEvent f) 0 = true) ∧
      (last = false →
        t.toUnits = { b.toUnits with
          cores := t.cores, ports := (sigReleased b c f e).ports, syncNet := b.syncNet ++ sigMsgs b c f e } ∧
        RegsKept b t ([(Reg.seqStatus c).window, (Reg.seqInvoc c).window, ((Reg.seqCrec c 0).addr, 0x20)] ++
          sigWindows b c e) ∧
        BytesKept b t (recordWindows c e))

/-- INVOCATION_COMPLETE, its planned duration over, writes the record with the invocation's counts, publishes to the slot
the amax and the scale it used, and the sequencer goes on; a zero extent publishes and counts nothing. -/
def Obligations.InvocationCompleteWritesTheRecord : Prop :=
  ∀ (c : Nat) (s : State) (f : Nat) (i : Invocation), isCore c = true →
    let b := s.toBlock
    let e := i.entry
    let cnt := if i.zero then Counters.zero else i.cnt
    let slot := if i.zero then none else slotOf e
    let stored := slot.bind fun _ => (srecOf e).map (scratchAt c)
    (core b c).inv = some i → ownerOfCore b c = some f → workOver (core b c) i = true →
    (core b c).vecReplay = none → i.startBeat + natAt (core b c).durs i.index / 256 ≤ beat b → agentMayGo b f = true →
    seqState b c ≠ seqFaulted → sigSound b c f e = true →
    Runs (.invocationComplete c) s fun t =>
      RecordWritten b t c e (creBytes (seqEntry b c) (opcodeOf e) (if i.zero then 1 else 0)
        ((arithOf e).keep i.flags) (rd b (.seqInvoc c) % 2 ^ 32) i.skipped i.cnt) ∧
      WentTo b t c (i.index + 1) ∧
      (∀ n, slot = some n → rd t (.coreSslotAmax c n) = (amaxWord i.amax).toNat ∧ flag t (.coreSslotCfg c n) 7 = true) ∧
      (∀ a, stored = some a → (∀ x ∈ recordWindows c e, a + 8 ≤ x.1 ∨ x.1 + x.2 ≤ a) →
        bytesAt t a 8 = leBytes i.scale.toNat 4 ++ leBytes (amaxWord i.amax).toNat 4) ∧
      rd t (.coreCnvSat c) = satAdd (rd b (.coreCnvSat c)) cnt.sat 32 ∧
      rd t (.coreCnvFlush c) = satAdd (rd b (.coreCnvFlush c)) cnt.flush 32 ∧
      rd t (.coreCnvNan c) = satAdd (rd b (.coreCnvNan c)) cnt.nan 32 ∧
      rd t (.coreCnvOvf c) = satAdd (rd b (.coreCnvOvf c)) cnt.ovf 32 ∧
      t.toUnits = { b.toUnits with
        cores := t.cores, ports := (sigReleased b c f e).ports, syncNet := b.syncNet ++ sigMsgs b c f e } ∧
      core t c = { core b c with
        loops := (core t c).loops, inv := none, seqWaiting := false,
        ringRel := (core (sigReleased b c f e) c).ringRel } ∧
      HeadsMoved b t c (sigStep b c e) ∧ OtherCoresKept b t c ∧
      RegsKept b t (entryWindows c ++ sigWindows b c e ++ [((Reg.coreCnvSat c).addr, 0x10)] ++
        (slot.toList.map fun n => ((Reg.coreSslotAmax c n).addr, 5))) ∧
      BytesKept b t (recordWindows c e ++ stored.toList.map fun a => (a, 8))

/-- Every pooling, resize and vector entry that is to run writes the bytes of its replay units in order and has its
invocation in progress with the work done. A unit of ELEMWISE writes, to its row of Z, the exact results of its operands by
writeOut's two ways of R117; one of REDUCE what R119's lanes and tree make of its elements; one of GATHER or SCATTER moves a
row as it is stored. -/
def Obligations.UnitEntriesRunToTheirLastUnit : Prop :=
  ∀ (c : Nat) (s : State) (f : Nat) (e : BitVec 512), isCore c = true →
    let b := s.toBlock
    let w := workOf c (latch b c e)
    let b1 := (Act.latchWork c (latch b c e)).run b
    ∀ row ∈ workRows c none, row.2 e = true → readyEntry b c = some (f, e) → extentsRun b c e = true →
    (core b c).vecArmed = false → unitsInRange c w w.count 0 b1 = true →
    Runs row.1 s fun t =>
      (∃ j, (core t c).inv = some j ∧ j.workDone = true ∧ j.entry = e ∧ j.index = seqEntry b c ∧
        j.invoc = rd b (.seqInvoc c) ∧ j.startBeat = beat b) ∧
      flag t (.coreStatus c) 0 = true ∧
      (∀ n, slotOf e = some n → rd t (.coreSslotScale c n) = (startScale b c e).toNat) ∧
      t.mem = putAll c b.mem (unitPuts c w w.count 0 b1) ∧
      BytesKept b t (putWindows c (unitPuts c w w.count 0 b1)) ∧
      RegsKept b t (latchWindows c e) ∧ OtherCoresKept b t c ∧
      t.toUnits = { b.toUnits with cores := t.cores, freeCtr := t.freeCtr } ∧
      ∀ (u : Nat) (v : Block),
        let i := latch b c e
        let n := natAt i.ext 1
        let m := arithOf e
        let sub := subopOf e
        let bat := u / natAt i.ext 0
        let r := u % natAt i.ext 0
        let nth (l : List Val) (k : Nat) : Val := (l[k]?).getD (.zero false)
        let x (k : Nat) : Val := nth (xRow v c i bat r allColumns).vals k
        let y (k : Nat) : Val := nth (yRow v c i bat r allColumns).vals k
        let a (k : Nat) : Val := nth (addendRow v c i bat r).vals k
        let z := vecZ c e bat
        (opcodeOf e = opElemwise → ¬(0x0A ≤ sub ∧ sub ≤ 0x0C) →
          ∃ vs : List OutVal, (w.unit v u).puts = rowPuts z r 0 (writeOut i vs) ∧ vs.length = n ∧ (w.unit v u).fault = none ∧
            ∀ k < n, (x k).isFinite = true → (y k).isFinite = true → (a k).isFinite = true → ∀ q,
              elemRat sub (x k).toQ.rat (y k).toQ.rat (a k).toQ.rat (y k).sign (selectFlag v c e bat r k)
                (scaleInt v c e bat r k) = some q → ∃ o, vs[k]? = some o ∧ o.v.stands q) ∧
        (opcodeOf e = opElemwise → 0x0A ≤ sub → sub ≤ 0x0C →
          ∃ bs : Bytes, (w.unit v u).puts = [(z.base + r * z.row, bs)] ∧ bs.length = 4 * n ∧ ∀ k < n,
            ((x k).isNaN = true ∨ (y k).isNaN = true → leAt bs (4 * k) 4 = 0) ∧
            ((x k).isFinite = true → (y k).isFinite = true →
              leAt bs (4 * k) 4 = (elemHolds sub (x k).toQ.rat (y k).toQ.rat).toNat)) ∧
        (opcodeOf e = opReduce → sub ≤ 2 →
          (bitOf e.toNat 380 = false → (w.unit v u).puts = rowPuts z r 0 (writeOut i
            (treeNode (redStep m sub) (fun k => laneSum m sub k (xRow v c i bat r allColumns).vals) 5 0).toList)) ∧
          (bitOf e.toNat 380 = true → natAt i.ext 0 ≠ 0 → (w.unit v u).puts = rowPuts (vecZ c e u) 0 0 (writeOut i
            ((List.range n).filterMap fun j => treeNode (redStep m sub) (fun k => laneSum m sub k
              ((List.range (natAt i.ext 0)).map fun r => nth (xRow v c i u r allColumns).vals j)) 5 0))) ∧
          ∀ p q : OutVal, p.v.isFinite = true → q.v.isFinite = true → ∃ o : Val,
            o.stands (reduceRat sub p.v.toQ.rat q.v.toQ.rat) ∧ (redStep m sub p q).v = (rnd m o).v) ∧
        (opcodeOf e = opGather → sub ≤ 1 → sameFormat e = true →
          let j := signedOf (scrWord v c (auxAt e + r * 4)) 32
          let limit := signedOf (ef e 307 276) 32
          let f := vecX c e bat
          let src := if sub = 0 then j.toNat else r
          let dst := if sub = 0 then r else j.toNat
          (j < 0 ∨ limit ≤ j → (w.unit v u).fault.isSome = true ∧ (w.unit v u).puts = []) ∧
          (0 ≤ j → j < limit → (w.unit v u).fault = none ∧
            (w.unit v u).puts = (z.base + dst * z.row, scr v c (f.base + src * f.row) (n * fmtBits f.fmt / 8)) ::
              match z.xbase, f.xbase with
              | some p, some q => [(p + dst * z.xrow, scr v c (q + src * f.xrow) (n / 16))]
              | _, _ => []))

/-- MATMUL, SCORE and CONV that are to run have their arrays ready for their first tiles. -/
def Obligations.ArrayEntriesArmTheirArrays : Prop :=
  ∀ (c : Nat) (s : State) (f : Nat) (e : BitVec 512), isCore c = true →
    let b := s.toBlock
    let i := latch b c e
    ∀ row ∈ tileRows c, row.2 e = true → readyEntry b c = some (f, e) → extentsRun b c e = true →
    Runs row.1 s fun t =>
      (core t c).inv = some i ∧ flag t (.coreStatus c) 0 = true ∧
      (∀ a, a < 2 → usesArr e a = true → (core t c).arr a = { ArrState.reset with
        next := firstTile i a, live := readySet b c e (firstTile i a), armed := ((core b c).arr a).armed } ∧
        fld t (.arrStatus c a) 7 6 = 0) ∧
      (∀ a, a < 2 → usesArr e a = false → (core t c).arr a = (core b c).arr a ∧
        rd t (.arrStatus c a) = rd b (.arrStatus c a)) ∧
      (∀ n, slotOf e = some n → rd t (.coreSslotScale c n) = (startScale b c e).toNat) ∧
      RegsKept b t (latchWindows c e ++ [(Reg.arrStatus c 0).window, (Reg.arrStatus c 1).window]) ∧
      t.mem = b.mem ∧ OtherCoresKept b t c ∧ t.toUnits = { b.toUnits with cores := t.cores }

/-- R65: a zero extent does no work and completes with STATUS 0x01, a shape overrun writes a record with STATUS 0x02 and
faults its sequencer with cause 0x01; neither touches the scale slot, nor any byte but the record's. -/
def Obligations.ZeroExtentsAndOverrunsLeaveTheSlot : Prop :=
  ∀ (c : Nat) (d : Option Det) (s : State) (f : Nat) (e : BitVec 512), isCore c = true →
    let b := s.toBlock
    let i := latch b c e
    readyEntry b c = some (f, e) →
    let stops (t : Block) : Prop :=
      (∀ w < 8, rd t (.seqCrec c w) = leAt (ctlRecord b c e 2) (4 * w) 4) ∧
      rd t (.seqInvoc c) = rd b (.seqInvoc c) ∧ seqState t c = seqFaulted ∧
      rd t (.seqFault c) = 2 ^ 24 + seqEntry b c ∧ (core t c).inv = none ∧ (part t f).st = .faulted ∧
      (∀ r : Reg, frameAt c + 0x400 ≤ r.addr → r.addr < frameAt c + 0x800 → rd t r = rd b r) ∧
      BytesKept b t (recordWindows c e)
    (∀ row ∈ workRows c d ++ tileRows c, row.2 e = true →
      (shapeOverrun e i.ext i.extw = false → (nullRepetition b c = true ∨ zeroExtent i.ext = true) →
        Runs row.1 s fun t =>
          core t c = { core b c with inv := some { i with zero := true } } ∧ flag t (.coreStatus c) 0 = true ∧
          RegsKept b t [(Reg.coreStatus c).window] ∧ t.mem = b.mem ∧ OtherCoresKept b t c ∧
          t.toUnits = { b.toUnits with cores := t.cores } ∧
          ∀ u : State, (core u.toBlock c).inv = some { i with zero := true } → (core u.toBlock c).vecReplay = none →
            ownerOfCore u.toBlock c = some f → i.startBeat + natAt (core u.toBlock c).durs i.index / 256 ≤ beat u.toBlock →
            agentMayGo u.toBlock f = true → seqState u.toBlock c ≠ seqFaulted → sigSound u.toBlock c f e = true →
            Runs (.invocationComplete c) u fun v =>
              EntryCompleted u.toBlock v c f e (ctlRecord u.toBlock c e 1) (i.index + 1) ∧
              (∀ r : Reg, frameAt c + 0x400 ≤ r.addr → r.addr < frameAt c + 0x800 → rd v r = rd u.toBlock r)) ∧
      (shapeOverrun e i.ext i.extw = true → Runs row.1 s stops)) ∧
    (opcodeOf e = opLoop → ef e 79 64 < loopCount b c e → Runs (.loop c) s stops)

/-- TILE_ACCUMULATION_START, ACCUMULATOR_SWAP and ACCUMULATOR_PRELOAD move an array's sets as 04_core.md states; a tile
whose shadow set is not free is held. -/
def Obligations.ArraySetsMove : Prop :=
  ∀ (c a : Nat) (s : State) (i : Invocation), isCore c = true → isArr a = true →
    let b := s.toBlock
    let x := (core b c).arr a
    (core b c).inv = some i → x.replay = none →
    let frame (t : Block) : Prop := t.mem = b.mem ∧ OtherCoresKept b t c ∧ (core t c).arr (1 - a) = (core b c).arr (1 - a) ∧
      t.toUnits = { b.toUnits with cores := t.cores }
    let shown (t : Block) (state : Nat) (free : Bool) : Prop :=
      fld t (.arrStatus c a) 7 6 = state ∧ flag t (.arrStatus c a) 4 = free
    (x.next.isSome = true → shadowFree (some i) a x = false → Runs (.tileAccumulationStart c a) s (· = b)) ∧
    (∀ tile, x.next = some tile → x.liveTile = none → shadowFree (some i) a x = true →
      (isSkipped i tile = false → Runs (.tileAccumulationStart c a) s fun t =>
        (core t c).arr a = { x with
          next := tileAfter i a tile, liveTile := some tile, live := (accumulate b c i tile x.live).1,
          liveCnt := (accumulate b c i tile x.live).2 } ∧
        (core t c).inv = some i ∧ shown t 1 true ∧
        rd t (.arrAccCyc c a) = satAdd (rd b (.arrAccCyc c a)) (accCycles i) 64 ∧
        RegsKept b t [(Reg.arrStatus c a).window, (Reg.arrAccCyc c a).window] ∧ frame t) ∧
      (isSkipped i tile = true → Runs (.tileAccumulationStart c a) s fun t =>
        (core t c).arr a = { x with
          next := tileAfter i a tile, liveTile := some tile, liveCnt := Counters.zero } ∧
        (core t c).inv = some { i with skipped := satAdd i.skipped 1 32 } ∧ shown t 1 true ∧
        RegsKept b t [(Reg.arrStatus c a).window] ∧ frame t)) ∧
    (x.liveTile.isSome = true → shadowReady i a x = false → Runs (.accumulatorSwap c a) s (· = b)) ∧
    (∀ tile, x.liveTile = some tile → shadowFree (some i) a x = true → shadowReady i a x = true →
      Runs (.accumulatorSwap c a) s fun t =>
        (core t c).arr a = { x with
          live := x.shadow, liveTile := none, liveCnt := Counters.zero, shadow := x.live, shadowTile := some tile,
          shadowCnt := x.liveCnt, drained := 0, preloaded := 0 } ∧
        flag t (.arrStatus c a) 5 = !flag b (.arrStatus c a) 5 ∧ shown t (if x.next.isSome then 2 else 3) false ∧
        RegsKept b t [(Reg.arrStatus c a).window] ∧ frame t) ∧
    (∀ tile, shadowNext i a x = some tile → hasPreload i.entry = true → x.preloaded < 32 →
      (x.shadowTile.isSome = true → x.preloaded < x.drained) →
      Runs (.accumulatorPreload c a) s fun t =>
        ((core t c).arr a).preloaded = x.preloaded + 1 ∧
        ((((core t c).arr a).shadow[x.preloaded]?).getD []) = preRow b c i.entry tile x.preloaded ∧
        (∀ r, r ≠ x.preloaded → ((((core t c).arr a).shadow[r]?).getD []) = (x.shadow[r]?).getD []) ∧
        flag t (.arrStatus c a) 4 = (x.shadowTile.isNone && (x.drained == 0 || x.preloaded == 31)) ∧
        RegsKept b t [(Reg.arrStatus c a).window] ∧ frame t)

/-- DRAIN_ROW, DRAIN_QUEUE_WRITE and DRAIN_ROW_TO_RING take a row through the drain queue to scratch or to its ring, where
no check fires; one that does suppresses the write, and a replay of the tile begins. -/
def Obligations.DrainedRowsReachTheirPlace : Prop :=
  ∀ (c a : Nat) (s : State) (i : Invocation), isCore c = true → isArr a = true →
    let b := s.toBlock
    let x := (core b c).arr a
    (core b c).inv = some i → x.replay = none →
    let replayed (t : Block) (tile : Tile) (code : Nat) : Prop :=
      (∃ r, ((core t c).arr a).replay = some r ∧ r.attempt = 1 ∧ r.tile = tile ∧ r.pend.length = 1) ∧
      ((core t c).arr a).queue = x.queue ∧ ((core t c).arr a).drained = x.drained ∧ ((core t c).arr a).liveTile = none ∧
      (∀ u, x.liveTile = some u → ((core t c).arr a).next = some u) ∧ fld t (.chkStatus c) 1 0 = 1 ∧
      fld t (.chkStatus c) 15 8 = code ∧ rd t (.chkReplays c) = satAdd (rd b (.chkReplays c)) 1 64 ∧
      rd t (.chkDetections c) = satAdd (rd b (.chkDetections c)) 1 64 ∧ rd t .chkUncontained = rd b .chkUncontained ∧
      t.mem = b.mem ∧ OtherCoresKept b t c ∧ t.parts = b.parts
    (∀ (tile : Tile) (y : Det), x.shadowTile = some tile → x.queue.length < 64 → x.armed = false → detFires y = true →
      (y.code = 0x04 ∧ x.drained = 0 ∨ y.code ∈ [0x01, 0x02] ∧ detByte y 0 = x.drained ∧ detByte y 1 < 32 ∧
        detByte y 2 = rowExpected b c i tile x y) → Runs (.drainRow c a (some y)) s fun t => replayed t tile y.code) ∧
    (∀ (q : QRow) (r : List QRow) (y : Det), x.queue = q :: r → y.code = 0x05 → detByte y 0 = q.row → detByte y 1 < 32 →
      detByte y 2 = wordParity (rowWord i q (detByte y 1)) → detByte y 3 = 1 - detByte y 2 →
      (ef i.entry 314 314 = 0 → Runs (.drainQueueWrite c a (some y)) s fun t => replayed t q.tile 0x05) ∧
      (ef i.entry 314 314 = 1 → x.ringWait = 2 → (ownerOfCore b c).isSome = true →
        Runs (.drainRowToRing c a (some y)) s fun t => replayed t q.tile 0x05)) ∧
    (∀ (tile : Tile) (d : Option Det), x.shadowTile = some tile → x.queue.length < 64 → x.armed = false →
      d.filter (rowFires b c i tile x) = none →
      Runs (.drainRow c a d) s fun t =>
        let o := rowOut b c i tile x.shadow x.drained
        ((core t c).arr a).queue = x.queue ++ [{ tile := tile, row := x.drained, puts := arrayPuts c i tile x.drained o }] ∧
        ((core t c).arr a).drained = x.drained + 1 ∧
        ((core t c).arr a).shadowTile = (if x.drained = 31 then none else some tile) ∧
        (core t c).inv = some (i.take (if x.drained = 0 then o.tally.add (Tally.counts x.shadowCnt) else o.tally)) ∧
        RegsKept b t [(Reg.arrStatus c a).window] ∧ t.mem = b.mem ∧ OtherCoresKept b t c ∧
        t.toUnits = { b.toUnits with cores := t.cores }) ∧
    (∀ (q : QRow) (r : List QRow) (d : Option Det), x.queue = q :: r → ef i.entry 314 314 = 0 →
      d.filter (queueFires i q) = none →
      Runs (.drainQueueWrite c a d) s fun t =>
        ((core t c).arr a).queue = r ∧ t.mem = putAll c b.mem q.puts ∧ BytesKept b t (putWindows c q.puts) ∧
        rd t (.arrTiles c a) = (if q.row = 31 then satAdd (rd b (.arrTiles c a)) 1 64 else rd b (.arrTiles c a)) ∧
        RegsKept b t [(Reg.arrStatus c a).window, (Reg.arrTiles c a).window] ∧ OtherCoresKept b t c ∧
        t.toUnits = { b.toUnits with cores := t.cores }) ∧
    (∀ (q : QRow) (r : List QRow) (d : Option Det) (f o : Nat), x.queue = q :: r → ef i.entry 314 314 = 1 →
      ownerOfCore b c = some f → d.filter (queueFires i q) = none →
      let n := ef i.entry 101 98
      (x.ringWait = 0 → liveObj b f (ringFree b c n) = some o → Runs (.drainRowToRing c a d) s fun t =>
        t.syncNet = b.syncNet ++ [.wait o { agent := .drain c a, n := 1, left := some (objBound b o + 1) }] ∧
        ((core t c).arr a) = { x with ringWait := 1 } ∧ RegsKept b t [] ∧ t.mem = b.mem ∧ OtherCoresKept b t c ∧
        t.toUnits = { b.toUnits with
          cores := t.cores, syncNet := t.syncNet }) ∧
      (x.ringWait = 2 → liveObj b f (ringFull b c n) = some o → ringSound b c n (.drain c a) true = true →
        Runs (.drainRowToRing c a d) s fun t =>
        let ps := q.puts.map fun p => (slotAt b c n (ringTail b c n) + p.1, p.2)
        t.mem = putAll c b.mem ps ∧ BytesKept b t (putWindows c ps) ∧
        ringTail t c n = (ringTail b c n + 1) % 65536 ∧ ringHead t c n = ringHead b c n ∧
        t.syncNet = b.syncNet ++ [.sig o 1 (.drain c a) (seqEntry b c)] ∧
        ((core t c).arr a).queue = r ∧ ((core t c).arr a).ringWait = 0 ∧
        RegsKept b t [(Reg.arrStatus c a).window, (Reg.arrTiles c a).window, (Reg.strRingPtr c n).window] ∧
        OtherCoresKept b t c ∧ t.toUnits = { b.toUnits with
          cores := t.cores, syncNet := t.syncNet }))

/-- A known-answer test runs its unit's next vector; one whose signature agrees and that reports the inverted bit has
passed, any other is a detection that fences its unit. -/
def Obligations.KnownAnswerTestsPassOrFence : Prop :=
  ∀ (c u : Nat) (outputs counters : Bytes) (lastRow : Nat) (reported : Option Nat) (s : State), isCore c = true → u < 5 →
    let b := s.toBlock
    let k := natAt (core b c).katRun u % 256
    let agrees := katSignature u k = crc32c (outputs ++ counters) ∧ reported = some lastRow
    hasUnit c u = true → katDue b c u = true →
    let ran (t : Block) : Prop :=
      rd t (.chkKatRuns c) = satAdd (rd b (.chkKatRuns c)) 1 64 ∧ natAt (core t c).katTry u = beat b ∧
      natAt (core t c).katRun u = natAt (core b c).katRun u + 1 ∧
      flag t (.chkStatus c) 3 = ((partnersOf c).find? fun k => !flag b (.coreStatus k) 1).isNone ∧ t.mem = b.mem
    (agrees → Runs (.knownAnswerTestComplete c u outputs counters lastRow reported) s fun t =>
        ran t ∧ natAt (core t c).katAt u = beat b ∧ (∀ v, v ≠ u → natAt (core t c).katAt v = natAt (core b c).katAt v) ∧
        (u = 0 → rd t (.chkKatLastA0 c) = beat b) ∧ (u = 1 → rd t (.chkKatLastA1 c) = beat b) ∧
        RegsKept b t [((Reg.chkKatRuns c).addr, 0x28), (Reg.chkStatus c).window] ∧
        OtherCoresKept b t c ∧ t.toUnits = { b.toUnits with cores := t.cores }) ∧
    (¬ agrees → b.campion.hist.length < 131072 → Runs (.knownAnswerTestComplete c u outputs counters lastRow reported) s fun t =>
        ran t ∧ rd t (.chkDetections c) = satAdd (rd b (.chkDetections c)) 1 64 ∧ fld t (.chkStatus c) 15 8 = 0x0B ∧
        isFenced t (katUnit c u).1 (katUnit c u).2 = true)

/-- SETB, SETS, LOOP and ENDL of a stream program set the address registers, strides and loop counts R178 names. That SETB's
base wraps at 2^50 is the model's choice (log 42). -/
def Obligations.YarrowRegisterInstructionsSetTheirRegisters : Prop :=
  ∀ (c x : Nat) (s : State) (f : Nat) (i : DWord), isCore c = true → isCtx x = true →
    let b := s.toBlock
    let k := ctxOf (core b c) x
    let l := yf i 54 52
    let arg (n : Nat) : Nat := ((k.args[n]?).getD 0).toNat
    let sets (t : Block) (k' : CtxState) (pc : Nat) : Prop :=
      ctxOf (core t c) x = k' ∧ ctxPc t c x = pc % 32 ∧ (∀ y, y ≠ x → ctxOf (core t c) y = ctxOf (core b c) y) ∧
      ctxActive t c x = true ∧ ctxProg t c x = ctxProg b c x ∧ RegsKept b t [(Reg.strCtx c x).window] ∧
      t.mem = b.mem ∧ OtherCoresKept b t c ∧ t.toUnits = { b.toUnits with cores := t.cores }
    (readyCtx b c x ySetb = some (f, i) → Runs (.yarrowSetb c x) s fun t =>
      sets t { k with
        kind := putAt k.kind 0 (yf i 57 55) (yf i 54 53),
        base := putAt k.base 0 (yf i 57 55)
          ((yf i 49 0 + if yf i 50 50 = 1 then arg (yf i 52 51) * 16 else 0) % 2 ^ 50) } (ctxPc b c x + 1)) ∧
    (readyCtx b c x ySets = some (f, i) → Runs (.yarrowSets c x) s fun t =>
      sets t { k with
        stride := putAt k.stride [] (yf i 57 55)
          (putAt ((k.stride[yf i 57 55]?).getD []) 0 l (signedOf (yf i 31 0) 32)) } (ctxPc b c x + 1)) ∧
    (readyCtx b c x yLoop = some (f, i) →
      let n := if yf i 18 18 = 1 then arg (yf i 17 16) % 65536 else yf i 15 0
      Runs (.yarrowLoop c x) s fun t =>
        sets t { k with
          lc := putAt k.lc 0 l 0, lim := putAt k.lim 0 l n, active := putAt k.active false l (n != 0) }
          (if n = 0 then yf i 28 24 + 1 else ctxPc b c x + 1)) ∧
    (readyCtx b c x yEndl = some (f, i) → Runs (.yarrowEndl c x) s fun t =>
      if natAt k.lc l + 1 < natAt k.lim l then sets t { k with lc := putAt k.lc 0 l (natAt k.lc l + 1) } (yf i 28 24)
      else sets t { k with lc := putAt k.lc 0 l 0, active := putAt k.active false l false } (ctxPc b c x + 1))

/-- WAIT, ARRIVE, SIGNAL, REL, FENCE and END of a stream program. -/
def Obligations.YarrowSynchronisationInstructions : Prop :=
  ∀ (c x : Nat) (s : State) (f o : Nat) (i : DWord), isCore c = true → isCtx x = true →
    let b := s.toBlock
    let obj := yf i 46 32
    let held (t : Block) (m : SyncMsg) : Prop :=
      t.syncNet = b.syncNet ++ [m] ∧ ctxWaiting t c x = true ∧ ctxPc t c x = ctxPc b c x ∧
      ctxOf (core t c) x = { ctxOf (core b c) x with waiting := true } ∧ RegsKept b t [(Reg.strCtx c x).window] ∧
      t.mem = b.mem ∧ OtherCoresKept b t c ∧ t.toUnits = { b.toUnits with
        cores := t.cores, syncNet := t.syncNet }
    let sent (t : Block) (q n : Nat) : Prop :=
      let b1 := slotsReleased b (.ctx c x) c f q n
      ctxPc t c x = (ctxPc b c x + 1) % 32 ∧ ctxWaiting t c x = false ∧ HeadsMoved b t c (headStep b c q n) ∧
      t.toUnits = { b.toUnits with
        cores := t.cores, ports := b1.ports,
        syncNet := b.syncNet ++ [.sig o n (.ctx c x) (ctxProg b c x * 32 + ctxPc b c x)] } ∧
      core t c = { core b c with ringRel := (core b1 c).ringRel } ∧ OtherCoresKept b t c ∧
      RegsKept b t ((Reg.strCtx c x).window :: ringWindows b c q) ∧ t.mem = b.mem
    let deferred (t : Block) : Prop :=
      ctxWaiting t c x = true ∧ ctxPc t c x = ctxPc b c x ∧ RegsKept b t [(Reg.strCtx c x).window] ∧ t.mem = b.mem ∧
      t.toUnits = b.toUnits
    (liveObj b f obj = some o →
      (readyCtx b c x yWait = some (f, i) → Runs (.yarrowWait c x) s fun t =>
        held t (.wait o { agent := .ctx c x, n := yf i 15 0, left := some (objBound b o + 1) })) ∧
      (readyCtx b c x yArrive = some (f, i) → ctxMoves (core b c) x = [] → Runs (.yarrowArrive c x) s fun t =>
        held t (.arr o { agent := .ctx c x, n := 1, left := some (objBound b o + 1) })) ∧
      (readyCtx b c x ySignal = some (f, i) → ctxMoves (core b c) x = [] → slotsSound b c obj (.ctx c x) = true →
        Runs (.yarrowSignal c x) s fun t => sent t obj (yf i 15 0))) ∧
    (readyCtx b c x yRel = some (f, i) → ctxMoves (core b c) x = [] →
      let r := yf i 3 0
      ringSlots b c r ≠ 0 → liveObj b f (ringFree b c r) = some o → slotsSound b c (ringFree b c r) (.ctx c x) = true →
      Runs (.yarrowRel c x) s fun t =>
        ringHead t c r = (ringHead b c r + 1) % 65536 ∧ ringTail t c r = ringTail b c r ∧ sent t (ringFree b c r) 1) ∧
    (readyCtx b c x yFence = some (f, i) → ctxMoves (core b c) x = [] →
      Runs (.yarrowFence c x) s fun t =>
        ctxPc t c x = (ctxPc b c x + 1) % 32 ∧ ctxWaiting t c x = false ∧ RegsKept b t [(Reg.strCtx c x).window] ∧
        t.mem = b.mem ∧ t.toUnits = b.toUnits) ∧
    (readyCtx b c x yEnd = some (f, i) → ctxMoves (core b c) x = [] →
      Runs (.yarrowEnd c x) s fun t =>
        rd t (.strCtx c x) = 0 ∧ flag t (.strStatus c) x = false ∧ ctxOf (core t c) x = CtxState.reset ∧
        t.mem = b.mem ∧ OtherCoresKept b t c) ∧
    (ctxMoves (core b c) x ≠ [] →
      (readyCtx b c x ySignal = some (f, i) → Runs (.yarrowSignal c x) s deferred) ∧
      (readyCtx b c x yArrive = some (f, i) → Runs (.yarrowArrive c x) s deferred) ∧
      (readyCtx b c x yRel = some (f, i) → Runs (.yarrowRel c x) s deferred) ∧
      (readyCtx b c x yFence = some (f, i) → Runs (.yarrowFence c x) s deferred) ∧
      (readyCtx b c x yEnd = some (f, i) → Runs (.yarrowEnd c x) s deferred))

/-- A checked MOVE is in flight; its flits reach the inbound queue in order, and its context goes on with the last of
them; it completes by writing its bytes. That it carries the bytes read at its issue, and that a MOVE over a flow retires as
its last flit arrives, is the model's reading (log 42). A MOVE that fails its address check or its translation moves nothing
and faults its context; a flit that finds the inbound queue full is an overrun of the receiving core's stream engine. -/
def Obligations.MovesCarryTheirBytes : Prop :=
  (∀ (c x : Nat) (s : State) (f : Nat) (i : DWord) (k : Checked), isCore c = true → isCtx x = true →
    let b := s.toBlock
    readyCtx b c x yMove = some (f, i) → checkMove b f c x i = .ok k → badIn b k.reads = [] →
    Runs (.yarrowMove c x) s fun t =>
      (core t c).moves = (core b c).moves ++ [{ ctx := x, pc := ctxPc b c x, flow := yf i 50 39, dst := k.dst, dstCore := k.dstCore,
                                                data := k.data, done := 0, pub := yf i 51 51 == 1, beat := beat b,
                                                pages := k.used.map fun m => (m.va, m.size), src := k.src, spoilt := [] }] ∧
      ctxPc t c x = ctxPc b c x ∧
      t.mem = b.mem ∧ RegsKept b t [(Reg.xltWalks f).window] ∧ OtherCoresKept b t c ∧
      (k.used = [] → RegsKept b t [] ∧ t.lpds = b.lpds) ∧
      t.toUnits = { b.toUnits with cores := t.cores, lpds := t.lpds, freeCtr := t.freeCtr }) ∧
  (∀ (c x : Nat) (s : State) (f : Nat) (i : DWord) (e : MoveFault), isCore c = true → isCtx x = true →
    let b := s.toBlock
    readyCtx b c x yMove = some (f, i) → checkMove b f c x i = .error e → isFunc f = true →
    Runs (.yarrowMove c x) s fun t =>
      (match e with
        | .address _ => AgentFaults b t (.ctx c x) f (posOf b (.ctx c x)) 3 0x21
        | .xlt v z w _ _ => AgentFaults b t (.ctx c x) f (posOf b (.ctx c x)) 4 0x22 ∧
          ((part b f).fltOpen = true → rd t (.xltFltVa f) = codeOf v 64 % 2 ^ 64 ∧ fld t (.xltFltInfo f) 31 28 = z.kind % 16 ∧
            fld t (.xltFltInfo f) 25 25 = w.toNat)) ∧
      (core t c).moves = (core b c).moves ∧ (core t c).inq = (core b c).inq ∧ OtherCoresKept b t c ∧
      (∀ g, g ≠ f → part t g = part b g) ∧ t.mem = b.mem) ∧
  (∀ (c n taken : Nat) (d : Option Det) (s : State) (f : Nat) (m : Move) (a : Nat), isCore c = true → isCtx m.ctx = true →
    let b := s.toBlock
    let q := (core b m.dstCore).inq
    let flit := (m.data.drop (64 * m.done)).take 64
    let sent := { m with done := m.done + 1, beat := if m.done = 0 then beat b else m.beat }
    (core b c).moves[n]? = some m → ownerOfCore b c = some f → isCore m.dstCore = true → m.flow ≠ noFlow →
    moveAddr b c n m (64 * m.done) = some a → m.left = false → inOrder b c n m = true → fired d = none →
    (64 ≤ q.length - taken → isFunc f = true → Runs (.flitArrival c n taken d) s fun t =>
      (core t m.dstCore).inq = q.drop taken ∧ (rd b (.strFault m.dstCore) = 0 → rd t (.strFault m.dstCore) = 2 * 2 ^ 24) ∧
      rd t .synOverruns = satAdd (rd b .synOverruns) 1 32 ∧ (part t f).fault.isSome = true ∧
      ((part b f).st = .running → (part t f).st = .faulted) ∧
      t.mem = (q.take taken).foldl (fun y z => cellsPut y z.1 z.2) b.mem) ∧
    (taken ≤ q.length + 1 → q.length - taken < 64 → m.spoilt.contains m.done = false →
    Runs (.flitArrival c n taken d) s fun t =>
      let left := if taken ≤ q.length then q.drop taken ++ [(a, flit)] else []
      (core t m.dstCore).inq = left ∧ (core t c).moves[n]? = some sent ∧
      t.mem = ((q ++ [(a, flit)]).take taken).foldl (fun y z => cellsPut y z.1 z.2) b.mem ∧
      rd t (.strInqHwm m.dstCore) = max (rd b (.strInqHwm m.dstCore)) left.length ∧
      ctxPc t c m.ctx = (if sent.left = true ∧ ctxActive b c m.ctx = true then (ctxPc b c m.ctx + 1) % 32 else ctxPc b c m.ctx) ∧
      RegsKept b t [(Reg.strInqHwm m.dstCore).window, (Reg.strCtx c m.ctx).window] ∧
      t.toUnits = { b.toUnits with cores := t.cores })) ∧
  (∀ (c n : Nat) (d : Option Det) (s : State) (f : Nat) (m : Move) (a : Nat), isCore c = true →
    let b := s.toBlock
    let bytes := m.data.drop (64 * m.done)
    (core b c).moves[n]? = some m → ownerOfCore b c = some f → m.dst = .scratch a → isCtx m.ctx = true →
    inOrder b c n m = true → (∀ o ∈ (core b c).moves.take n, o.ctx ≠ m.ctx) → fired d = none →
    (core b m.dstCore).inq = [] → ctxWaiting b c m.ctx = false → m.spoilt = [] →
    Runs (.moveComplete c n d) s fun t =>
      t.mem = cellsPut b.mem (a + 64 * m.done) bytes ∧ BytesKept b t [(a + 64 * m.done, bytes.length)] ∧
      (core t c).moves = dropAt (core b c).moves n ∧ rd t (.strMoves c) = satAdd (rd b (.strMoves c)) 1 64 ∧
      ctxPc t c m.ctx = (if m.unretired = true ∧ ctxActive b c m.ctx = true then (ctxPc b c m.ctx + 1) % 32
        else ctxPc b c m.ctx) ∧
      RegsKept b t [(Reg.strCtx c m.ctx).window, (Reg.strMoves c).window] ∧ OtherCoresKept b t c ∧
      t.toUnits = { b.toUnits with cores := t.cores })

/-- A SIGNAL at its home serves the wait queue from its head; a WAIT is released or joins the queue; a SIGNAL that would take
the count above 65,535 is a schedule overrun of its agent (R167). -/
def Obligations.SemaphoresServeTheirQueueFromTheHead : Prop :=
  ∀ (i o n : Nat) (a : Agent) (pos : Nat) (w : Waiter) (s : State),
    let b := s.toBlock
    let q := (obj b o).queue
    let frame (t : Block) : Prop := RegsKept b t [objWindow o] ∧ t.mem = b.mem ∧ (∀ p, p ≠ o → obj t p = obj b p) ∧
      t.toUnits = { b.toUnits with
        objs := t.objs, syncNet := t.syncNet }
    objType b o = 1 →
    (∀ f : Nat, b.syncNet[i]? = some (.sig o n a pos) → 65535 < semCount b o + n → coreAgent b a f →
      Runs (.signalAtHome i) s fun t =>
        AgentFaults b t a f pos 2 0x20 ∧ rd t .synOverruns = satAdd (rd b .synOverruns) 1 32 ∧
        semCount t o = semCount b o ∧ (∀ g, g ≠ f → part t g = part b g) ∧ t.mem = b.mem) ∧
    ((obj b o).held = [] →
    (b.syncNet[i]? = some (.sig o n a pos) → semCount b o + n ≤ 65535 → ∃ k : Nat,
      k ≤ q.length ∧ ((q.take k).map (·.n)).sum ≤ semCount b o + n ∧
      (∀ v, q[k]? = some v → semCount b o + n < ((q.take k).map (·.n)).sum + v.n) ∧
      Runs (.signalAtHome i) s fun t =>
        semCount t o = semCount b o + n - ((q.take k).map (·.n)).sum ∧ (obj t o).queue = q.drop k ∧
        rd t (.synObjWaiters o) = (q.length - k) % 65536 ∧
        t.syncNet = dropAt b.syncNet i ++ (q.take k).map (fun v => .rel v.agent) ∧ frame t) ∧
    (b.syncNet[i]? = some (.wait o w) → q = [] → w.n ≤ semCount b o → Runs (.waitAtHome i) s fun t =>
      semCount t o = semCount b o - w.n ∧ (obj t o).queue = [] ∧
      t.syncNet = dropAt b.syncNet i ++ [.rel w.agent] ∧ frame t) ∧
    (b.syncNet[i]? = some (.wait o w) → (q ≠ [] ∨ semCount b o < w.n) → Runs (.waitAtHome i) s fun t =>
      semCount t o = semCount b o ∧ (obj t o).queue = q ++ [w] ∧ rd t (.synObjWaiters o) = (q.length + 1) % 65536 ∧
      t.syncNet = dropAt b.syncNet i ∧ frame t))

/-- Arrivals of a plot are combined into one at the home; the last one completes the generation and its release is
broadcast. A second arrival of an agent within a generation is its schedule overrun (R167). -/
def Obligations.BarriersCombineAndRelease : Prop :=
  ∀ (i o p n : Nat) (w : Waiter) (s : State),
    let b := s.toBlock
    let x := obj b o
    let frame (t : Block) : Prop := RegsKept b t [objWindow o] ∧ t.mem = b.mem ∧ (∀ q, q ≠ o → obj t q = obj b q) ∧
      t.toUnits = { b.toUnits with
        objs := t.objs, syncNet := t.syncNet }
    (b.syncNet[i]? = some (.arr o w) → objType b o = 2 → (∀ v ∈ x.held, v.agent ≠ w.agent) →
      let plot := (w.agent.core.map plotOf).getD 0
      let k := smGetD x.localCnt plot 0 + 1
      Runs (.barrierArrival i) s fun t =>
        (obj t o).held = x.held ++ [w] ∧ smGetD (obj t o).localCnt plot 0 = k ∧ (obj t o).queue = x.queue ∧
        barArrived t o = barArrived b o ∧ barGen t o = barGen b o ∧
        t.syncNet = dropAt b.syncNet i ++ (if k = smGetD x.shares plot 0 then [.comb o plot k] else []) ∧ frame t) ∧
    (∀ f : Nat, b.syncNet[i]? = some (.arr o w) → objType b o = 2 → (∃ v ∈ x.held, v.agent = w.agent) →
      coreAgent b w.agent f → Runs (.barrierArrival i) s fun t =>
        AgentFaults b t w.agent f (posOf b w.agent) 2 0x20 ∧ rd t .synOverruns = satAdd (rd b .synOverruns) 1 32 ∧
        barGen t o = barGen b o ∧ barCount t o = barCount b o ∧ (∀ g, g ≠ f → part t g = part b g) ∧ t.mem = b.mem) ∧
    (b.syncNet[i]? = some (.comb o p n) → x.home = none → barArrived b o + n < barCount b o →
      Runs (.barrierArrival i) s fun t =>
        barArrived t o = barArrived b o + n ∧ barGen t o = barGen b o ∧ obj t o = x ∧
        t.syncNet = dropAt b.syncNet i ∧ frame t) ∧
    (b.syncNet[i]? = some (.comb o p n) → x.home = none → x.ports = [] → barCount b o ≤ barArrived b o + n →
      Runs (.barrierArrival i) s fun t =>
        barArrived t o = 0 ∧ barGen t o = 1 - barGen b o ∧ barCount t o = barCount b o ∧
        (obj t o).held = x.held.map (fun v => { v with left := none }) ∧
        t.syncNet = dropAt b.syncNet i ++ (x.shares.filter fun y => y.2 != 0).map (fun y => .bcast o y.1) ∧ frame t) ∧
    (b.syncNet[i]? = some (.bcast o p) →
      let here (v : Waiter) : Bool := v.agent.core.map plotOf == some p
      Runs (.barrierReleaseBroadcast i) s fun t =>
        (obj t o).held = x.held.filter (fun v => !here v) ∧ smGetD (obj t o).localCnt p 0 = 0 ∧
        t.syncNet = dropAt b.syncNet i ++ (x.held.filter here).map (fun v => .rel v.agent) ∧ frame t)

/-- A release lets its agent go on: a held entry completes, a context goes to its next instruction, a drain path,
receiver or directory engine takes its slot. -/
def Obligations.ReleasesResumeTheirAgents : Prop :=
  ∀ (i : Nat) (s : State),
    let b := s.toBlock
    (∀ (c f : Nat) (e : BitVec 512), isCore c = true → b.syncNet[i]? = some (.rel (.seq c)) → entryAt b c = some e →
      ownerOfCore b c = some f → agentMayGo b f = true → (core b c).seqWaiting = true → seqState b c = seqWaits →
      sigSound b c f e = true →
      Runs (.waiterResume i) s fun t =>
        RecordWritten b t c e (ctlRecord b c e 0) ∧ WentTo b t c (seqEntry b c + 1) ∧ OtherCoresKept b t c ∧
        t.toUnits = { b.toUnits with
          cores := t.cores, ports := (sigReleased b c f e).ports, syncNet := dropAt b.syncNet i ++ sigMsgs b c f e } ∧
        core t c = { core b c with
          loops := (core t c).loops, inv := none, seqWaiting := false,
          ringRel := (core (sigReleased b c f e) c).ringRel } ∧
        HeadsMoved b t c (sigStep b c e) ∧ RegsKept b t (entryWindows c ++ sigWindows b c e) ∧
        BytesKept b t (recordWindows c e)) ∧
    (∀ (c x : Nat), isCore c = true → isCtx x = true → b.syncNet[i]? = some (.rel (.ctx c x)) →
      (ctxOf (core b c) x).waiting = true → ctxWaiting b c x = true →
      Runs (.waiterResume i) s fun t =>
        ctxWaiting t c x = false ∧ ctxPc t c x = (ctxPc b c x + 1) % 32 ∧
        ctxOf (core t c) x = { ctxOf (core b c) x with waiting := false } ∧ OtherCoresKept b t c ∧
        t.toUnits = { b.toUnits with
          cores := t.cores, syncNet := dropAt b.syncNet i } ∧
        RegsKept b t [(Reg.strCtx c x).window] ∧ t.mem = b.mem) ∧
    (∀ (c a : Nat), isArr a = true → b.syncNet[i]? = some (.rel (.drain c a)) → ((core b c).arr a).ringWait = 1 →
      Runs (.waiterResume i) s fun t =>
        (core t c).arr a = { (core b c).arr a with ringWait := 2 } ∧ OtherCoresKept b t c ∧
        t.syncNet = dropAt b.syncNet i ∧ RegsKept b t [] ∧ t.mem = b.mem) ∧
    (∀ (p ch k : Nat) (r : RxChan), b.syncNet[i]? = some (.rel (.bind p ch)) → (port b p).rx[k]? = some r →
      r.channel = ch → r.wait = 1 → (∀ y ∈ (port b p).rx.take k, y.channel ≠ ch ∨ y.wait ≠ 1) →
      Runs (.waiterResume i) s fun t =>
        port t p = { port b p with rx := (port b p).rx.set k { r with wait := 2 } } ∧ (∀ q, q ≠ p → port t q = port b q) ∧
        t.toUnits = { b.toUnits with ports := t.ports, syncNet := dropAt b.syncNet i } ∧ RegsKept b t [] ∧ t.mem = b.mem) ∧
    (∀ f : Nat, b.syncNet[i]? = some (.rel (.dir f)) → (dir b f).qwait = 1 →
      Runs (.waiterResume i) s fun t =>
        dir t f = { dir b f with qwait := 2 } ∧ t.syncNet = dropAt b.syncNet i ∧ RegsKept b t [] ∧ t.mem = b.mem)

/-- A wait or arrival that outlives its bound, at its home or on its way there, is a schedule overrun of its agent, logged
and counted; each partition concerned stops and cancels all its other waits, each of them logged; no other partition
changes. That waits and arrivals still on their way are pending too, and that a satisfied one is not, is the model's reading
(log 24). -/
def Obligations.ExpiredWaitsFaultTheirPartition : Prop :=
  ∀ s : State,
    let b := s.toBlock
    let late (w : Waiter) : Prop := ∃ o, w ∈ expiredAt b o
    let stops (f : Nat) : Prop := isVf f = true ∧ (part b f).st = .running ∧
      ∃ o, expiredAt b o ≠ [] ∧ ownerOfPlot b (o / 512) = some f
    Runs .waitBoundExpiry s fun t =>
      let logged (code o : Nat) : Prop := t.campion.buffer.length < 4096 →
        ∃ r ∈ t.campion.buffer, recDetector r = code ∧ leAt r 0x50 8 = o % 2 ^ 64
      rd t .synOverruns = satAdd (rd b .synOverruns) ((lateObjs b).map fun o => (expiredAt b o).length).sum 32 ∧
      (∀ o w, w ∈ expiredAt b o → logged 0x20 o) ∧
      (∀ w c, late w → (w.agent = .seq c ∨ ∃ a, w.agent = .drain c a) → isCore c = true →
        seqState t c = seqFaulted ∧ (seqState b c ≠ seqFaulted → rd t (.seqFault c) = 2 * 2 ^ 24 + seqEntry b c)) ∧
      (∀ w c x, late w → w.agent = .ctx c x → isCore c = true → isCtx x = true →
        ctxActive t c x = false ∧ ctxWaiting t c x = false ∧ flag t (.strStatus c) x = false ∧
        flag t (.strStatus c) (4 + x) = true ∧ rd t (.strFault c) ≠ 0) ∧
      (∀ w f, late w → w.agent.func b = some f → isFunc f = true →
        (part t f).fault.isSome = true ∧ ((part b f).fault = none → fld t (.mbxFunc f) 7 0 = 2)) ∧
      (∀ f, stops f →
        (part t f).st = .faulted ∧ (part t f).pausing = none ∧
        (∀ x ∈ pendingWaits b f, x.2.expired = false →
          logged 0x24 x.1 ∧ ((part b f).cancelled < 65535 → (part b f).cancelled < (part t f).cancelled)) ∧
        (∀ o ∈ objsOf b f, (obj t o).queue = [] ∧ (obj t o).held = (obj b o).done ∧ (objType b o = 2 → barArrived t o = 0)) ∧
        (∀ m ∈ t.syncNet, m.isPending (fun o => ownerOfPlot b (o / 512) == some f) = false) ∧
        (∀ c ∈ coresOf b f, (core b c).inv = none → released b (.seq c) = false →
          seqState t c ≠ seqRunning ∧ seqState t c ≠ seqWaits)) ∧
      (∀ o, (∀ f, ownerOfPlot b (o / 512) = some f → ¬ stops f) →
        (obj t o).queue = (obj b o).queue.filter (fun w => !w.expired) ∧
        (obj t o).held = (obj b o).held.filter (fun w => !w.expired)) ∧
      (∀ f, ¬ stops f → (∀ w, late w → w.agent.func b ≠ some f) → part t f = part b f) ∧ t.mem = b.mem

/-- The beat counter counts, and readings enter their registers; a run starts at its start beat; a plan exceeded and an
energy window exceeded are logged. -/
def Obligations.BeatsRunsAndWindows : Prop :=
  ∀ (s : State),
    let b := s.toBlock
    (b.power.phase = .locked → Runs (.beatBoundary none) s fun t =>
      let next := (beat b + 1) % 2 ^ 64
      let wakes := ∃ x, b.power.wake = some x ∧ next = refreshEnd x.1
      let relocks := modState b = modOperational ∧ domState b = 3 ∧ fld b .srlDomStatus 15 8 = 0xFF ∧ anyActive b = false
      beat t = next ∧ t.mem = b.mem ∧
      RegsKept b t (Reg.srlBeat.window :: Reg.srlDomStatus.window :: (Reg.mbxEvent 0).window :: (Reg.msixPba 0).window ::
        (List.range 16).map fun k => (Reg.lpdStatus k).window) ∧
      (¬wakes → ¬relocks → RegsKept b t [Reg.srlBeat.window] ∧
        t.outbox = b.outbox ++ (if b.power.bsync = true ∧ next % 4 = 0 then [.bsync] else [])) ∧
      (∀ k < 16, lpdState t k = if wakes ∧ lpdState b k = lpdSelfRefresh then lpdReady else lpdState b k) ∧
      domState t = (if relocks then 2 else domState b) ∧
      (∀ f, (part b f).st = .running → (part b f).started = true → (part t f).beatsRun = (part b f).beatsRun + 1) ∧
      (∀ f, (part t f).st = (part b f).st ∧ (part t f).image = (part b f).image) ∧ t.cores = b.cores ∧
      t.lock.sinceMarker = b.lock.sinceMarker + 1) ∧
    (∀ m : Sample, b.power.phase = .locked → (m.sensors.map (·.1)).Nodup → (m.rails.map (·.1)).Nodup →
      Runs (.beatBoundary (some m)) s fun t =>
        beat t = (beat b + 1) % 2 ^ 64 ∧ rd t .pwrVin = m.vin.toNat ∧ rd t .pwrIin = m.iin.toNat ∧
        rd t .pwrPin = m.pin.toNat ∧ rd t .pwrCool = m.cool.toNat ∧ rd t .pwrFlow = m.flow.toNat ∧
        (∀ x ∈ m.sensors, x.1 < 92 →
          (b.power.failed.contains x.1 = true → rd t (.pwrSensor x.1) = rd b (.pwrSensor x.1)) ∧
          (b.power.failed.contains x.1 = false → outOfRange x.2 = false → rd t (.pwrSensor x.1) = x.2.toNat ∧
            t.power.failed.contains x.1 = false) ∧
          (b.power.failed.contains x.1 = false → outOfRange x.2 = true →
            rd t (.pwrSensor x.1) = 0x8000 ∧ t.power.failed.contains x.1 = true)) ∧
        (∀ n < 92, (∀ x ∈ m.sensors, x.1 ≠ n) → rd t (.pwrSensor n) = rd b (.pwrSensor n)) ∧
        (∀ x ∈ m.rails, x.1 < 64 → smGet t.power.rails x.1 = some x.2) ∧
        (∀ p, (∀ x ∈ m.rails, x.1 ≠ p) → smGet t.power.rails p = smGet b.power.rails p) ∧
        t.mem = b.mem ∧ t.cores = b.cores) ∧
    (∀ f : Nat, isVf f = true → (part b f).st = .running → (part b f).started = false →
      beat b = (part b f).startBeat → Runs (.runStart f) s fun t =>
        (part t f).started = true ∧ (∀ g, g ≠ f → part t g = part b g) ∧
        (∀ c ∈ coresOf b f, seqState t c = seqRunning ∧ seqEntry t c = 0) ∧
        RegsKept b t ((coresOf b f).map fun c => (Reg.seqStatus c).window) ∧ t.mem = b.mem ∧ t.cores = b.cores) ∧
    (∀ (f : Nat) (im : Image), isVf f = true → (part b f).st = .running → (part b f).started = true →
      (part b f).planLogged = false → (part b f).image = some im → im.planBeats < (part b f).beatsRun →
      Runs (.planExceeded f) s fun t =>
        (part t f).planLogged = true ∧ (part t f).st = .running ∧ LogsOne b t 0x3B ∧ t.mem = b.mem ∧ t.cores = b.cores) ∧
    (∀ metered : Nat, modState b = 3 → beat b % 64 = 0 → allowedEnergy b < 10 * metered →
      Runs (.energyWindowCheck metered) s fun t =>
        rd t .pwrExcess = satAdd (rd b .pwrExcess) 1 32 ∧ flag t (.mbxEvent 0) 3 = true ∧ LogsOne b t 0x32 ∧
        t.mem = b.mem ∧ t.cores = b.cores ∧ t.parts = b.parts)

/-- A request to an LPDDR5X controller is queued, a write visible at once; a slot carries at most its bytes, its owner's
requests in their order, and a read that it completes answers; a controller trained again has its trims. Inside a checkpoint
area the bytes are open, and a write makes its generations unusable (log 52). -/
def Obligations.LpddrControllersServeRequests : Prop :=
  ∀ (k : Nat) (s : State), isCtl k = true →
    let b := s.toBlock
    let frame (t : Block) : Prop := (∀ j, j ≠ k → lpd t j = lpd b j) ∧ t.cores = b.cores ∧ t.parts = b.parts
    (∀ (owner port addr len : Nat) (data : Option Bytes), port < 4 → lpdState b k = lpdReady → 64 ≤ len → len ≤ 4096 →
      ctlAt k ≤ addr → addr + len ≤ ctlAt k + ctlBytes → mayQueue b owner addr len data.isSome = true → owner ≠ 0x83 →
      owner ≠ 0x84 → (∀ d, data = some d → d.length = len) →
      (areaOf b addr len ≠ [] → Runs (.lpddrRequest k owner port addr len data) s fun t =>
        (∃ q, (lpd t k).queue = (lpd b k).queue ++ [q] ∧ q.owner = owner ∧ q.addr = addr ∧ q.len = len ∧ q.left = len ∧
          q.write = data.isSome ∧ (data = none → q.data.length = len)) ∧
        (∀ d, data = some d → bytesAt t addr len = d ∧ BytesKept b t [(addr, len)] ∧
          ∀ f ∈ areaOf b addr len, (part t f).ckpts = [] ∧ (part t f).st = (part b f).st) ∧
        (data = none → t.mem = b.mem ∧ t.parts = b.parts) ∧ RegsKept b t [] ∧ (∀ j, j ≠ k → lpd t j = lpd b j) ∧
        t.cores = b.cores) ∧
      (areaOf b addr len = [] → Runs (.lpddrRequest k owner port addr len data) s fun t =>
        (lpd t k).queue = (lpd b k).queue ++ [{ owner := owner, addr := addr, len := len, write := data.isSome, left := len,
                                                data := if data.isSome then [] else bytesAt b addr len }] ∧
        (∀ d, data = some d → bytesAt t addr len = d ∧ BytesKept b t [(addr, len)]) ∧
        (data = none → t.mem = b.mem ∧ lpd t k = { lpd b k with queue := (lpd t k).queue }) ∧
        RegsKept b t [] ∧ frame t)) ∧
    (∀ port addr len : Nat, port < 4 → lpdState b k = lpdReady → 64 ≤ len → len ≤ 4096 → scrubDue b k addr = true →
      addr + len ≤ ctlAt k + ctlBytes → Runs (.lpddrRequest k 0x83 port addr len none) s fun t =>
        lpd t k = { lpd b k with
          queue := (lpd b k).queue ++ [{ owner := 0x83, addr := addr, len := len, write := false, left := len,
                                         data := storedBytes b addr len }]
          scrubAt := ((lpd b k).scrubAt + len) % ctlBytes
          scrubFrom := if (lpd b k).scrubAt = 0 then some (beat b) else (lpd b k).scrubFrom } ∧
        t.mem = b.mem ∧ RegsKept b t [] ∧ frame t) ∧
    (∀ (pos : Nat) (q : LpdReq), pos < 64 → lpdState b k = lpdReady → (lpd b k).queue = [q] → q.write = true →
      1 ≤ q.owner → q.owner < 17 → slotOwner b k pos = q.owner → slotNow b k pos = true →
      Runs (.lpddrSlotService k pos none) s fun t =>
        lpd t k = { lpd b k with
          queue := if q.left ≤ 512 then [] else [{ q with left := q.left - 512 }], nextSlot := beat b / 3 * 64 + pos + 1 } ∧
        slotNow t k pos = false ∧
        rd t (.lpdWrBytes k) = satAdd (rd b (.lpdWrBytes k)) (min 512 q.left) 64 ∧
        RegsKept b t [(Reg.lpdWrBytes k).window] ∧ t.mem = b.mem ∧ frame t) ∧
    (∀ pos o : Nat, pos < 64 → lpdState b k = lpdReady → 1 ≤ o → o < 17 → slotOwner b k pos = o → slotNow b k pos = true →
      (∀ q ∈ (lpd b k).queue, 1 ≤ q.left) → (∃ q ∈ (lpd b k).queue, q.owner = o) → (lpd b k).bad = [] →
      Runs (.lpddrSlotService k pos none) s fun t =>
        let mine (l : List LpdReq) : List LpdReq := l.filter fun q => q.owner == o
        let total := ((mine (lpd b k).queue).map (·.left)).sum
        (lpd t k).queue.filter (fun q => q.owner != o) = (lpd b k).queue.filter (fun q => q.owner != o) ∧
        ((mine (lpd t k).queue).map (·.left)).sum + min 512 total = total ∧
        (∃ j, j ≤ (mine (lpd b k).queue).length ∧
          (mine (lpd t k).queue).map (·.addr) = ((mine (lpd b k).queue).drop j).map (·.addr) ∧
          (mine (lpd t k).queue).tail = ((mine (lpd b k).queue).drop j).tail ∧
          t.outbox = b.outbox ++ (((mine (lpd b k).queue).take j).filter fun q => !q.write && q.data.length == q.len).map
            fun q => .lpdData k q.data) ∧
        (∃ m n, m + n = min 512 total ∧ rd t (.lpdRdBytes k) = satAdd (rd b (.lpdRdBytes k)) m 64 ∧
          rd t (.lpdWrBytes k) = satAdd (rd b (.lpdWrBytes k)) n 64 ∧
          ((∀ q ∈ mine (lpd b k).queue, q.write = false) → n = 0)) ∧
        (lpd t k).nextSlot = beat b / 3 * 64 + pos + 1 ∧ slotNow t k pos = false ∧
        RegsKept b t [(Reg.lpdRdBytes k).window, (Reg.lpdWrBytes k).window] ∧ t.mem = b.mem ∧ frame t) ∧
    (∀ (pos : Nat) (d : Option Det), pos < 64 → slotNow b k pos = false → Runs (.lpddrSlotService k pos d) s fun t => t = b) ∧
    (∀ (value : Word) (ok : Bool), answers b 0 = true → value.getLsbD 30 = true → isFenced b 7 k = false →
      (∀ g ∈ owners b, (part b g).chunks.any (fun x => x.1 == k) = false) → Runs (.lpdTrnGo 0 k value ok) s fun t =>
        rd t (.lpdTrnOvr k) = value.toNat % 2 ^ 23 + value.toNat / 2 ^ 31 * 2 ^ 31 ∧
        lpdState t k = (if ok then lpdReady else lpdFailed) ∧ fld t (.lpdStatus k) 27 20 = (if ok then 0xFF else 0) ∧
        RegsKept b t [(Reg.lpdTrnOvr k).window, (Reg.lpdStatus k).window] ∧ t.mem = b.mem ∧ t.toUnits = b.toUnits)

/-- A control-parity error is an uncontained detection of the core, from the start of its entry on; a replay that passes is
contained, and its records say so; one that fails is followed by a second, and that one by an arbitration; an armed
injection reaches its unit, and a discarded one is logged (event 0x21 is the model's reading, log 18). -/
def Obligations.DetectionsAndReplays : Prop :=
  ∀ (c : Nat) (s : State), isCore c = true →
    let b := s.toBlock
    let contained (t : Block) : Prop := rd t .chkUncontained = rd b .chkUncontained ∧ t.parts = b.parts
    (∀ reg bit : Nat, Runs (.parCtrl c reg bit) s fun t =>
      rd t (.chkDetections c) = satAdd (rd b (.chkDetections c)) 1 64 ∧ fld t (.chkStatus c) 15 8 = 0x0C ∧
      rd t .chkUncontained = satAdd (rd b .chkUncontained) 1 64 ∧ t.mem = b.mem ∧
      (∀ f, ownerOfCore b c = some f → (part b f).image.isSome = true →
        (part t f).taint = some (((part b f).taint.map fun q => min q (entryStart b c)).getD (entryStart b c)))) ∧
    (∀ (a : Nat) (r : Replay) (d : Option Det) (result : Bytes), a < 2 → ((core b c).arr a).replay = some r →
      fired d = none → (∀ x ∈ r.pend, x.2 = false) → Runs (.replayComplete c a d result) s fun t =>
        (core t c).arr a = { (core b c).arr a with replay := none } ∧ fld t (.chkStatus c) 1 0 = 0 ∧ contained t ∧
        (∀ x ∈ r.pend, x.1.length = 124 → t.campion.buffer.length < 4096 → ∃ y ∈ t.campion.buffer,
          leAt y 0x4D 1 = (if r.injected then 8 else if harmless (recDetector x.1) then 0 else 1) ∧ ∀ i, 8 ≤ i → i < 124 → i ≠ 0x4D → leAt y i 1 = leAt x.1 i 1) ∧
        t.campion.hist = b.campion.hist ∧ t.mem = b.mem ∧ OtherCoresKept b t c) ∧
    (∀ (a : Nat) (r : Replay) (d : Option Det) (result : Bytes), a < 2 → ((core b c).arr a).replay = some r →
      fired d = none → (∃ x ∈ r.pend, x.2 = true) → (∀ x ∈ r.pend, (recUnit x.1).1 ≠ 7) →
      b.campion.hist.length + r.pend.length ≤ 131072 →
      Runs (.replayComplete c a d result) s fun t =>
        (core t c).arr a = { (core b c).arr a with replay := none } ∧ fld t (.chkStatus c) 1 0 = 0 ∧
        (∀ x ∈ r.pend, x.2 = true → isFenced t (recUnit x.1).1 (recUnit x.1).2 = true) ∧ rd t .chkUncontained = rd b .chkUncontained ∧
        (∀ f, (part t f).taint = (part b f).taint ∧ (part t f).st = (part b f).st) ∧ t.mem = b.mem ∧ OtherCoresKept b t c) ∧
    (∀ (r : Replay) (i : Invocation) (d : Option Det) (result : Bytes), (core b c).vecReplay = some r →
      (core b c).inv = some i → (core b c).vecArmed = false → (∀ x ∈ r.pend, x.2 = false) →
      let b1 := (Act.replayPassed c 2 r).run b
      let w := workOf c i
      (∀ y : Det, y.code = 0x03 → detFires y = true → i.units < y.unit → y.unit < w.count → w.replayable = true →
        unitsInRange c w (y.unit - i.units) i.units b1 = true → Runs (.replayComplete c 2 (some y) result) s fun t =>
          (∃ r', (core t c).vecReplay = some r' ∧ r'.attempt = 1 ∧ r'.tile = w.tile y.unit ∧ r'.pend.length = 1) ∧
          (∃ j, (core t c).inv = some j ∧ j.units = y.unit ∧ j.entry = i.entry) ∧ fld t (.chkStatus c) 1 0 = 1 ∧
          rd t (.chkDetections c) = satAdd (rd b (.chkDetections c)) 1 64 ∧ contained t ∧
          t.mem = putAll c b.mem (unitPuts c w (y.unit - i.units) i.units b1) ∧ OtherCoresKept b t c) ∧
      (fired d = none →
      unitsInRange c w (w.count - i.units) i.units b1 = true → Runs (.replayComplete c 2 d result) s fun t =>
        (core t c).vecReplay = none ∧ fld t (.chkStatus c) 1 0 = 0 ∧ contained t ∧
        (∃ j, (core t c).inv = some j ∧ j.workDone = true ∧ j.entry = i.entry) ∧
        t.mem = putAll c b.mem (unitPuts c w (w.count - i.units) i.units b1) ∧ OtherCoresKept b t c)) ∧
    (∀ (a : Nat) (r : Replay) (d : Det) (result : Bytes), a < 3 → replayOf (core b c) a = some r → r.attempt < 2 →
      fired (some d) = some d → replayReport c a d = true → laterUnit b c a d = false → Runs (.replayComplete c a (some d) result) s fun t =>
        (∃ r', replayOf (core t c) a = some r' ∧ r'.attempt = r.attempt + 1 ∧ r'.pend.length = r.pend.length + 1 ∧
          r'.tile = r.tile ∧ r'.injected = r.injected) ∧
        fld t (.chkStatus c) 1 0 = r.attempt + 1 ∧ rd t (.chkReplays c) = satAdd (rd b (.chkReplays c)) 1 64 ∧
        rd t (.chkDetections c) = satAdd (rd b (.chkDetections c)) 1 64 ∧ fld t (.chkStatus c) 15 8 = d.code ∧
        contained t ∧ t.mem = b.mem ∧ OtherCoresKept b t c) ∧
    (∀ (a : Nat) (r : Replay) (d : Det) (result : Bytes), a < 3 → replayOf (core b c) a = some r → 2 ≤ r.attempt →
      fired (some d) = some d → replayReport c a d = true → laterUnit b c a d = false → Runs (.replayComplete c a (some d) result) s fun t =>
        (∃ r', (core t c).escalated = some r' ∧ r'.pend.length = r.pend.length + 1 ∧ r'.tile = r.tile) ∧
        (core t c).kept = result ∧ (core t c).arbTried = 0 ∧ (∀ j < 3, replayOf (core t c) j = none) ∧ (core t c).inv = none ∧
        fld t (.chkStatus c) 2 0 = 4 ∧ rd t (.chkReplays c) = rd b (.chkReplays c) ∧
        rd t (.chkDetections c) = satAdd (rd b (.chkDetections c)) 1 64 ∧
        ((∀ j < 3, j ≠ a → replayOf (core b c) j = none) → rd t .chkUncontained = satAdd (rd b .chkUncontained)
          ((r.pend.filter fun x => !harmless (recDetector x.1)).length + (!harmless d.code).toNat) 64) ∧
        seqState t c = seqFaulted ∧ (seqState b c ≠ seqFaulted → rd t (.seqFault c) = 5 * 2 ^ 24 + seqEntry b c) ∧
        (∀ (f : Nat) (i : Invocation), ownerOfCore b c = some f → (part b f).image.isSome = true → (core b c).inv = some i →
          agentMayGo t f = false ∧
          (part t f).taint = some (((part b f).taint.map fun q => min q i.startBeat).getD i.startBeat)) ∧
        t.mem = b.mem ∧ OtherCoresKept b t c) ∧
    (∀ value : Word, answers b 0 = true → mayInject b c = true → Runs (.chkInjGo 0 c value) s fun t =>
      let u := value.toNat / 2 % 4
      let go := value.getLsbD 0
      (∀ a < 2, (core t c).arr a = { (core b c).arr a with armed := ((core b c).arr a).armed || (go && u == a) }) ∧
      (core t c).vecArmed = ((core b c).vecArmed || (go && u == 2)) ∧ RegsKept b t [] ∧ t.mem = b.mem ∧
      OtherCoresKept b t c ∧ t.toUnits = { b.toUnits with cores := t.cores }) ∧
    (∀ (f : Nat) (value : Word), isFunc f = true → answers b f = true → (f ≠ 0 ∨ mayInject b c = false) →
      Runs (.chkInjGo f c value) s (OnlyLogged b · 0x21))

/-- An arbitration decides which unit is at fault, and that unit is fenced: the core where the arbiter's bits are the kept
ones, the replayed unit where they differ. -/
def Obligations.ArbitrationsFenceTheUnitAtFault : Prop :=
  ∀ (f c k : Nat) (rest : List Nat) (r : Replay) (result : Bytes) (s : State), isVf f = true → isCore c = true →
    isCore k = true →
    let b := s.toBlock
    escalatedCore b f = some c → (core b c).escalated = some r → (arbitersOf b f c).drop (core b c).arbTried = k :: rest →
    b.campion.hist.length < 131072 →
    let decided (t : Block) : Prop :=
      (core t c).escalated = none ∧ (core t c).kept = [] ∧ flag t (.chkStatus c) 2 = false ∧ t.mem = b.mem
    (result = (core b c).kept → Runs (.arbitrationComplete f k true result) s fun t => isFenced t 2 c = true ∧ decided t) ∧
    (result ≠ (core b c).kept → Runs (.arbitrationComplete f k true result) s fun t =>
      isFenced t r.uclass r.uid = true ∧ decided t) ∧
    (rest ≠ [] → Runs (.arbitrationComplete f k false result) s fun t =>
      (core t c).arbTried = (core b c).arbTried + 1 ∧ (core t c).escalated = some r ∧ RegsKept b t [] ∧ t.mem = b.mem) ∧
    (rest = [] → Runs (.arbitrationComplete f k false result) s fun t =>
      decided t ∧ ((part b f).st ≠ .empty → (part t f).st = .faulted))

/-- A rollback or re-placement without a checkpoint that qualifies leaves the partition FAULTED, which for a re-placement is
the model's choice (log 43); with one it becomes PAUSED on the checkpoint's count of beats, and the generation's transfer
waits at its controllers. -/
def Obligations.RollbacksRestoreOrFault : Prop :=
  ∀ (f : Nat) (s : State), isVf f = true →
    let b := s.toBlock
    let p := part b f
    let transfers (t : Block) (gen : Nat) : Prop := ∀ x ∈ p.chunks.take (plotList p.plots).length,
      ∃ y ∈ (lpd t x.1).queue, y.owner = 0x100 + f ∧ y.addr = chunkAt x + gen % 2 * 2 ^ 29 ∧ y.len = 536576000 ∧ y.write = false
    ((p.taint.isSome = true ∨ p.poisonedBy.isSome = true) → escalatedCore b f = none → p.st ≠ .empty →
      (latestCkpt p (rollbackOk p) = none → Runs (.rollback f) s fun t =>
        (part t f).st = .faulted ∧ (part t f).taint = none ∧ (part t f).poisonedBy = none ∧ t.mem = b.mem) ∧
      (∀ (k : Ckpt) (im : Image) (v : Nat), latestCkpt p (rollbackOk p) = some k → p.image = some im →
        validVariant b f im = some v → memoryLost b p = false → Runs (.rollback f) s fun t =>
        (part t f).st = .paused ∧ (part t f).variant = v ∧ (part t f).beatsRun = k.beatsRun ∧
        (part t f).taint = none ∧ (part t f).poisonedBy = none ∧ (part t f).image = some im ∧ transfers t k.gen)) ∧
    (p.replace = true → p.st ≠ .running → p.st ≠ .empty → p.taint = none → p.poisonedBy = none →
      ∀ im, p.image = some im →
      (latestCkpt p (fun _ => true) = none → Runs (.replacementAfterFencing f) s fun t =>
        (part t f).st = .faulted ∧ (part t f).replace = false ∧ t.mem = b.mem) ∧
      (∀ (k : Ckpt) (v : Nat), latestCkpt p (fun _ => true) = some k → validVariant b f im = some v →
        memoryLost b p = false → Runs (.replacementAfterFencing f) s fun t =>
        (part t f).st = .paused ∧ (part t f).variant = v ∧ (part t f).beatsRun = k.beatsRun ∧ (part t f).replace = false ∧ transfers t k.gen))

/-- The buffered Tansy records go to the flash log in order, which gives up its oldest sector when it is full; the region's
current header tells of it, and a header that is written is valid and of the next generation (R336). -/
def Obligations.TansyRecordsReachTheFlashLog : Prop :=
  ∀ s : State,
    let b := s.toBlock
    Runs .tansyLogFlashWrite s fun t =>
      t.campion.buffer = [] ∧ t.campion.hist = b.campion.hist ∧
      (b.campion.log.length + b.campion.buffer.length ≤ 491456 →
        t.campion.log = b.campion.log ++ b.campion.buffer) ∧
      (b.campion.log.length = 491456 → ∀ r, b.campion.buffer = [r] → t.campion.log = b.campion.log.drop 32 ++ [r]) ∧
      (b.campion.current.gen + 1 < 2 ^ 32 →
        let h := t.campion.current
        h.entries = b.campion.hist.length ∧ h.session = b.campion.current.session ∧
        h.tail = (h.head + (t.campion.log.length - 1) / 32) % 15358 ∧
        (h ≠ b.campion.current → h.magic = 0x54434831 ∧ h.crc = (crc32c h.words).toNat ∧ h.gen = b.campion.current.gen + 1)) ∧
      RegsKept b t [] ∧ t.mem = b.mem ∧ t.toUnits = { b.toUnits with campion := t.campion }

/-- ACK, NAK, LANES, ECHO_REQ, ECHO_RSP and CREDIT take effect at their receiver. -/
def Obligations.LinkMessagesTakeEffect : Prop :=
  ∀ (p : Nat) (m : CtlMsg) (s : State), isPort p = true →
    let b := s.toBlock
    let x := port b p
    let rest := x.inbox.erase m
    let frame (t : Block) (w : List (Nat × Nat)) : Prop := RegsKept b t w ∧ t.mem = b.mem ∧
      (∀ q, q ≠ p → port t q = port b q) ∧ t.toUnits = { b.toUnits with ports := t.ports }
    let now := m.arg1 % 2 ^ 32
    (nextMsg b p 2 = some m → Runs (.ack p) s fun t =>
      let left := x.replayBuf.filter fun y => frameBefore now y.1
      port t p = { x with
        inbox := rest, replayBuf := left, nakCounts := x.nakCounts.filter (fun y => frameBefore now y.1),
        lastProgress := if left.length = x.replayBuf.length then x.lastProgress else beat b } ∧ frame t []) ∧
    (nextMsg b p 3 = some m → Runs (.nak p) s fun t =>
      let again := ((x.replayBuf.filter fun y => !frameBefore y.1 now).flatMap (·.2)).map asReplay
      port t p = { x with
        inbox := rest, replayQ := again, nakCounts := smPut x.nakCounts now (smGetD x.nakCounts now 0 + 1) } ∧
      portState t p = (if portState b p = lnkUp ∧ again ≠ [] then lnkReplaying else portState b p) ∧
      fld t (.lnkStatus p) 31 24 = fld b (.lnkStatus p) 31 24 ∧ fld t (.lnkStatus p) 19 0 = fld b (.lnkStatus p) 19 0 ∧
      frame t [(Reg.lnkStatus p).window]) ∧
    (nextMsg b p 11 = some m → carries b p = false → Runs (.lanes p) s fun t =>
      port t p = { x with inbox := rest, peerLanes := some (m.arg0 % 16, m.arg0 / 16 % 16) } ∧ frame t []) ∧
    (nextMsg b p 11 = some m → carries b p = true → Runs (.lanes p) s fun t =>
      port t p = { x with
        inbox := rest, peerLanes := some (m.arg0 % 16, m.arg0 / 16 % 16), downSince := beat b
        msgs := x.msgs ++ if x.retest then [] else [{ mtype := 11, id := 0, arg1 := 0, beat := beat b
                                                      arg0 := x.lanesOk.toNat + fld b (.lnkStatus p) 27 24 * 16 }] } ∧
      portState t p = lnkRetraining ∧ fld t (.lnkStatus p) 31 24 = fld b (.lnkStatus p) 31 24 ∧
      fld t (.lnkStatus p) 19 0 = fld b (.lnkStatus p) 19 0 ∧ frame t [(Reg.lnkStatus p).window]) ∧
    (∀ turn : Nat, nextMsg b p 9 = some m → Runs (.echoReq p turn) s fun t =>
      port t p = { x with
        inbox := rest,
        msgs := x.msgs ++ [{ mtype := 10, id := m.id, arg0 := turn % 2 ^ 32, arg1 := m.arg1, beat := beat b }] } ∧
      frame t []) ∧
    (∀ cycles : Nat, nextMsg b p 10 = some m →
      let delays := x.echoes ++ [cycles - m.arg1 - m.arg0]
      (delays.length < 16 → Runs (.echoRsp p cycles) s fun t =>
        port t p = { x with inbox := rest, echoes := delays } ∧ frame t []) ∧
      (16 ≤ delays.length → Runs (.echoRsp p cycles) s fun t =>
        port t p = { x with inbox := rest, echoes := [] } ∧
        (∀ top, top ∈ delays → (∀ d ∈ delays, d ≤ top) → top ≤ 2 ^ 32 →
          rd t (.lnkDelay p) = (top + 1) / 2 ∧ portLd t p = min 255 (1 + ((top + 1) / 2 + 640 + 255) / 256)) ∧
        frame t [(Reg.lnkDelay p).window, (Reg.lnkStatus p).window])) ∧
    (∀ (r : TxRec) (o : Nat), nextMsg b p 6 = some m →
      ((portPlan b p).bind fun l => l.tx.find? fun r => r.channel == m.id && r.channel != ctlChannel) = some r →
      physObj b x.func r.send = some o → Runs (.credit p) s fun t =>
        port t p = { x with inbox := rest } ∧ t.syncNet = b.syncNet ++ [.sig o m.arg0 (.port p) 0] ∧
        RegsKept b t [] ∧ t.mem = b.mem ∧ (∀ q, q ≠ p → port t q = port b q) ∧ t.cores = b.cores ∧ t.parts = b.parts)

/-- A port sends each of its frames once: so many cells as its profile and width give, the control cell first, then
the cells to be replayed; a message for which the control cell has no room waits. What a frame carries and keeps with 40 frames
unacknowledged is the model's reading (log 45). -/
def Obligations.FramesAreSentOnce : Prop :=
  ∀ (p : Nat) (s : State), isPort p = true →
    let b := s.toBlock
    let x := port b p
    let full := beat b / 4
    let n := cellsPerFrame (portProfile b p) (portWidth b p)
    carries b p = true → beat b % 4 = 0 → x.txFrame ≤ full → 1 ≤ portWidth b p → portWidth b p ≤ 4 →
    (∀ i ∈ x.txq, i.data ≠ []) →
    Runs (.frameStart p) s fun t =>
      ∃ cs : List Bytes, t.outbox = b.outbox ++ cs.zipIdx.map (fun c => .cell p (cellLane b p c.2) c.1) ∧ cs.length = n ∧
        cs.head?.map cellType = some 1 ∧ (cs.drop 1).take (min (n - 1) x.replayQ.length) = x.replayQ.take (n - 1) ∧
        (x.replayQ = [] → ∀ c ∈ cs, cellOk c = true ∧ cellReplay c = false ∧ cellFrame c = full % 2 ^ 32) ∧
        (port t p).txFrame = full + 1 ∧
        (port t p).replayBuf =
          x.replayBuf ++ [(full % 2 ^ 32, cs.filter fun c => cellType c != 0 && !cellReplay c)] ∧
        (40 ≤ x.replayBuf.length → (port t p).txq = x.txq ∧ (port t p).tslBytes = 0) ∧
        (port t p).echoLeft = (if x.replayQ = [] then x.echoLeft - 1 else x.echoLeft) ∧
        (∀ m ∈ x.msgs, m ∈ (port t p).msgs ∨ (cs.head?.any fun c => (cellMsgs 0 c).any fun y =>
          y.mtype == m.mtype % 256 && y.id == m.id % 65536) = true) ∧
        (port t p).inbox = x.inbox ∧ (port t p).rx = x.rx ∧ (port t p).held = x.held ∧
        (portState b p = lnkUp → portState t p = lnkUp) ∧
        RegsKept b t [((Reg.lnkTxCells p).addr, 1), (Reg.lnkReplays p).window, (Reg.tslBytes (edgeOf p)).window,
          (Reg.lnkStatus p).window] ∧
        t.mem = b.mem ∧ (∀ q, q ≠ p → port t q = port b q) ∧
        t.toUnits = { b.toUnits with
          outbox := t.outbox, ports := t.ports }

/-- No byte of a slot is lost, repeated or moved past another of its channel on its way from the transmit queue into
data cells. -/
def Obligations.CellsCarryTheTransmitQueueInOrder : Prop :=
  ∀ (p ch : Nat) (s : State), isPort p = true →
    let b := s.toBlock
    let x := port b p
    carries b p = true → beat b % 4 = 0 → x.txFrame ≤ beat b / 4 → x.replayQ = [] → ch < 4096 →
    (∀ i ∈ x.txq, i.teasel = none ∧ i.channel < 4096) →
    Runs (.frameStart p) s fun t =>
      ∃ cs : List Bytes, t.outbox = b.outbox ++ cs.zipIdx.map (fun c => .cell p (cellLane b p c.2) c.1) ∧
        (cs.filter fun c => cellType c == 2 && cellChannel c == ch).flatMap cellPayload ++
          ((port t p).txq.filter fun i => i.channel == ch).flatMap (·.data) =
        (x.txq.filter fun i => i.channel == ch).flatMap (·.data)

/-- A good cell in order is accepted, once: its messages wait, its data joins its slot; a bad one is NAKed, and what follows
it is discarded until its frame comes again. Ahead of replayed cells the frame's own control cell waits (log 46). -/
def Obligations.CellsAreAcceptedOrNaked : Prop :=
  ∀ (p : Nat) (c : Bytes) (s : State), isPort p = true →
    let b := s.toBlock
    let x := port b p
    let f := cellFrame c
    let n := cellsPerFrame (portProfile b p) (portWidth b p)
    let pos := if n ≤ x.rxPos then 0 else x.rxPos
    let others (t : Block) : Prop := t.mem = b.mem ∧ (∀ q, q ≠ p → port t q = port b q) ∧ t.cores = b.cores ∧
      t.parts = b.parts ∧ (port t p).txq = x.txq ∧ (port t p).held = x.held ∧ (port t p).rxPos = pos + 1
    let e := if noticed x.poisoned (beat b) (cellEpoch c) = true then cellEpoch c + 65536 else cellEpoch c
    let joined (l : List Nat) : List Nat :=
      if portProfile b p = 2 ∨ l.contains e ∨ noticed x.cleared (beat b) (cellEpoch c) = true then l else l ++ [e]
    let fresh := cellReplay c = true → x.again f x.rxSkip = false
    let sub := if cellReplay c then ((x.rxSeen.find? fun y => y.1 == c).map (·.2)).getD 3 else cellBeat b p pos
    let waits := x.rxReplay = true ∧ pos = 0 ∧ cellReplay c = false ∧ cellType c = 1
    carries b p = true → c.length = 400 →
    (cellOk c = true → x.badFrame = none → waits → Runs (.cellReceive p c false) s fun t =>
      port t p = { x with rxPos := 1, rxAhead := some c } ∧ t.syncNet = b.syncNet ∧ RegsKept b t [] ∧ others t) ∧
    (∀ a : Bytes, cellOk c = true → x.badFrame = none → x.rxReplay = true → x.rxAhead = some a → cellType a = 1 →
      cellReplay a = false → cellReplay c = false → ¬waits → cellType c = 0 → Runs (.cellReceive p c false) s fun t =>
        (port t p).inbox = x.inbox ++ cellMsgs (dueBeat b p (cellFrame a) 0) a ∧ (port t p).rx = x.rx ∧
        (port t p).rxReplay = false ∧ (port t p).rxAhead = none ∧ (port t p).rxFrame = f ∧ t.syncNet = b.syncNet ∧
        RegsKept b t [Reg.srlDomLate.window] ∧ others t) ∧
    (∀ g : Nat, cellOk c = true → x.badFrame = some g → ¬(cellReplay c = true ∧ cellType c = 1 ∧ f = g) →
      Runs (.cellReceive p c false) s fun t =>
        (port t p).badFrame = some g ∧ (port t p).inbox = x.inbox ∧ (port t p).rx = x.rx ∧ (port t p).msgs = x.msgs ∧
        (port t p).ackFrame = x.ackFrame ∧ t.syncNet = b.syncNet ∧
        rd t (.lnkRxBad p) = satAdd (rd b (.lnkRxBad p)) 1 64 ∧ RegsKept b t [(Reg.lnkRxBad p).window] ∧ others t) ∧
    (cellOk c = true → x.badFrame = some f → cellReplay c = true → cellType c = 1 → x.again f 0 = false →
      Runs (.cellReceive p c false) s fun t =>
        (port t p).badFrame = none ∧ (port t p).rxReplay = true ∧
        (port t p).inbox = x.inbox ++ cellMsgs (dueBeat b p f 0) c ∧ (port t p).rx = x.rx ∧ (port t p).rxFrame = f ∧
        t.syncNet = b.syncNet ∧ RegsKept b t [Reg.srlDomLate.window] ∧ others t) ∧
    (x.rxAhead = none →
    (cellOk c = true → x.badFrame = none → cellReplay c = true → x.again f x.rxSkip = true →
      Runs (.cellReceive p c false) s fun t =>
        (port t p).inbox = x.inbox ∧ (port t p).rx = x.rx ∧ (port t p).msgs = x.msgs ∧ (port t p).ackFrame = x.ackFrame ∧
        rd t (.lnkRxBad p) = satAdd (rd b (.lnkRxBad p)) 1 64 ∧ t.syncNet = b.syncNet ∧
        RegsKept b t [(Reg.lnkRxBad p).window] ∧ others t) ∧
    (cellOk c = true → x.badFrame = none → ¬waits → fresh → cellType c = 1 → Runs (.cellReceive p c false) s fun t =>
      (port t p).inbox = x.inbox ++ cellMsgs (dueBeat b p f 0) c ∧ (port t p).rx = x.rx ∧ (port t p).msgs = x.msgs ∧
      (port t p).rxFrame = f ∧ t.syncNet = b.syncNet ∧ RegsKept b t [Reg.srlDomLate.window] ∧
      (isLate b p f 0 = false → RegsKept b t []) ∧ others t) ∧
    (∀ (y : RxChan) (r : RxRec) (core : Nat), cellOk c = true → x.badFrame = none → fresh → cellType c = 2 →
      rxRec b p (cellChannel c) = some r → coreOfLogical b x.func r.lcore = some core → x.rx = [y] →
      y.channel = cellChannel c → y.complete = false → Runs (.cellReceive p c false) s fun t =>
        (port t p).rx = [{ y with
          got := y.got ++ cellPayload c, epochs := joined y.epochs, complete := cellLast c,
          dueBeat := dueBeat b p f sub }] ∧
        (port t p).inbox = x.inbox ∧ t.syncNet = b.syncNet ∧ rd t (.lnkRxCells p) = satAdd (rd b (.lnkRxCells p)) 1 64 ∧
        RegsKept b t [(Reg.lnkRxCells p).window, Reg.srlDomLate.window] ∧ others t) ∧
    (∀ (r : RxRec) (core o : Nat), cellOk c = true → x.badFrame = none → fresh → cellType c = 2 →
      rxRec b p (cellChannel c) = some r → coreOfLogical b x.func r.lcore = some core →
      (∀ y ∈ x.rx, y.channel = cellChannel c → y.complete = true) →
      liveObj b x.func (ringFree b core r.ring) = some o → Runs (.cellReceive p c false) s fun t =>
        (port t p).rx = x.rx ++ [{ channel := cellChannel c, core := core, ring := r.ring, func := x.func,
                                   got := cellPayload c, epochs := joined [], wait := 1, complete := cellLast c,
                                   dueBeat := dueBeat b p f sub }] ∧
        t.syncNet = b.syncNet ++
          [.wait o { agent := .bind p (cellChannel c), n := 1, left := some (objBound b o + 1) }] ∧
        (port t p).inbox = x.inbox ∧ rd t (.lnkRxCells p) = satAdd (rd b (.lnkRxCells p)) 1 64 ∧
        RegsKept b t [(Reg.lnkRxCells p).window, Reg.srlDomLate.window] ∧ others t)) ∧
    (∀ bad : Bool, (bad = true ∨ cellOk c = false) → Runs (.cellReceive p c bad) s fun t =>
      let g := x.badFrame.getD ((x.ackFrame + 1) % 2 ^ 32)
      (port t p).badFrame = some g ∧ (∃ m ∈ (port t p).msgs, m.mtype = 3 ∧ m.arg1 = g) ∧ (port t p).inbox = x.inbox ∧
      (port t p).rx = x.rx ∧ (port t p).ackFrame = x.ackFrame ∧ t.syncNet = b.syncNet ∧
      rd t (.lnkRxBad p) = satAdd (rd b (.lnkRxBad p)) 1 64 ∧
      rd t (.lnkFecUncorr p) = (if bad then satAdd (rd b (.lnkFecUncorr p)) 1 64 else rd b (.lnkFecUncorr p)) ∧
      RegsKept b t [(Reg.lnkRxBad p).window, (Reg.lnkFecUncorr p).window] ∧ others t)

/-- A received slot is published at its delivery beat: its bytes go to slot TAIL mod S, TAIL advances, FULL is
signalled, and its CREDIT waits. That only SLOT_PUBLISH writes the bytes is the model's reading (log 46). -/
def Obligations.ReceivedSlotsArePublished : Prop :=
  ∀ (p ch f o : Nat) (y : RxChan) (s : State), isPort p = true →
    let b := s.toBlock
    let x := port b p
    (x.rx.find? fun z => z.channel == ch) = some y → y.complete = true → y.wait = 2 → y.dueBeat ≤ beat b →
    y.got.length ≤ ringSlotSize b y.core y.ring → isCore y.core = true → y.ring < 16 → y.func = f →
    liveObj b f (ringFull b y.core y.ring) = some o → ringSound b y.core y.ring (.bind p ch) true = true →
    portState b p ≠ lnkDown → Runs (.slotPublish p ch) s fun t =>
      let a := scratchAt y.core (slotAt b y.core y.ring (ringTail b y.core y.ring))
      t.mem = cellsPut b.mem a y.got ∧ BytesKept b t [(a, y.got.length)] ∧
      ringTail t y.core y.ring = (ringTail b y.core y.ring + 1) % 65536 ∧ ringHead t y.core y.ring = ringHead b y.core y.ring ∧
      t.syncNet = b.syncNet ++ [.sig o 1 (.bind p ch) 0] ∧ (port t p).rx = x.rx.erase y ∧
      (port t p).held = x.held ++ [{ channel := ch, epochs := y.epochs, freed := false }] ∧
      (port t p).inbox = x.inbox ∧ (port t p).txq = x.txq ∧
      (∀ e ∈ y.epochs, rxKey p e ∈ (part t f).recvEpochs) ∧ (part t f).st = (part b f).st ∧
      (∀ g, g ≠ f → part t g = part b g) ∧ OtherCoresKept b t y.core ∧
      RegsKept b t [(Reg.strRingPtr y.core y.ring).window] ∧ (∀ q, q ≠ p → port t q = port b q)

/-- Markers acquire the beat lock, keep it, and lose it; so does their absence. -/
def Obligations.MarkersHoldTheBeatLock : Prop :=
  ∀ (p jump : Nat) (err : BitVec 8) (m : CtlMsg) (s : State), isPort p = true →
    let b := s.toBlock
    let now := (m.arg1 + jump) % 2 ^ 64
    let off := (signedOf err.toNat 8).natAbs
    let frame (t : Block) : Prop := t.mem = b.mem ∧ t.cores = b.cores ∧ t.parts = b.parts
    let taken (t : Block) : Prop := (port t p).inbox = (port b p).inbox.erase m ∧ t.lock.sinceMarker = 0 ∧
      fld t .srlDomStatus 7 0 = err.toNat ∧ t.lock.domain = b.lock.domain ∧ frame t
    let lost (t : Block) : Prop := domState t = 3 ∧ rd t .srlDomLosses = satAdd (rd b .srlDomLosses) 1 32 ∧
      LogsOne b t 0x33 ∧ flag t (.mbxEvent 0) 3 = true ∧ beat t = beat b
    (nextMsg b p 1 = some m → p = fld b .srlDomStatus 15 8 → m.arg0 = rd b .srlDomId % 2 ^ 32 → rd b .srlDomId ≠ 0 →
      ((domState b = 1 ∧ (now = beat b ∨ anyActive b = false) ∨ domState b = 3 ∧ anyActive b = false) →
        Runs (.marker p err jump) s fun t =>
          beat t = now ∧ domState t = 2 ∧ flag t (.mbxEvent 0) 3 = true ∧ t.lock.badMarkers = 0 ∧ taken t ∧
          RegsKept b t [Reg.srlBeat.window, Reg.srlDomStatus.window, (Reg.mbxEvent 0).window, (Reg.msixPba 0).window]) ∧
      (domState b = 1 → now ≠ beat b → anyActive b = true → Runs (.marker p err jump) s fun t =>
        domState t = 3 ∧ beat t = beat b ∧ taken t) ∧
      (domState b = 2 → off ≤ 80 → Runs (.marker p err jump) s fun t =>
        domState t = 2 ∧ beat t = beat b ∧ t.lock.badMarkers = 0 ∧ taken t ∧ RegsKept b t [Reg.srlDomStatus.window]) ∧
      (domState b = 2 → 80 < off → b.lock.badMarkers < 3 → Runs (.marker p err jump) s fun t =>
        domState t = 2 ∧ beat t = beat b ∧ t.lock.badMarkers = b.lock.badMarkers + 1 ∧ taken t ∧
        RegsKept b t [Reg.srlDomStatus.window]) ∧
      (domState b = 2 → 80 < off → 3 ≤ b.lock.badMarkers → Runs (.marker p err jump) s fun t => lost t ∧ taken t)) ∧
    (domState b = 2 → fld b .srlDomStatus 15 8 ≠ 0xFF → 256 ≤ b.lock.sinceMarker →
      Runs .markerTimeout s fun t => lost t ∧ frame t) ∧
    (domState b = 2 → b.lock.sinceMarker < 256 → Runs .markerTimeout s fun t => t = b)

/-- A remote arrival counts at the home; the last one completes the generation; a RELEASE frees the proxies of its home.
-/
def Obligations.RemoteBarriersArriveAndRelease : Prop :=
  ∀ (p o f : Nat) (m : CtlMsg) (s : State), isPort p = true →
    let b := s.toBlock
    let x := obj b o
    let frame (t : Block) : Prop := RegsKept b t [objWindow o] ∧ t.mem = b.mem ∧ (∀ q, q ≠ o → obj t q = obj b q) ∧
      (∀ q, q ≠ p → port t q = port b q) ∧ t.toUnits = { b.toUnits with
        objs := t.objs, syncNet := t.syncNet, ports := t.ports }
    let completed (t : Block) : Prop := barArrived t o = 0 ∧ barGen t o = 1 - barGen b o ∧ barCount t o = barCount b o ∧
      (obj t o).held = x.held.map (fun v => { v with left := none }) ∧ (obj t o).ports = [] ∧ (obj t o).sent = false ∧
      t.syncNet = b.syncNet ++ (x.shares.filter fun y => y.2 != 0).map (fun y => .bcast o y.1)
    ownerOfPlot b (o / 512) = some f → (port b p).func = f →
    (nextMsg b p 4 = some m → physObj b f m.id = some o → objType b o = 2 → x.ports = [] →
      (barArrived b o + 1 < barCount b o → Runs (.arrive p) s fun t =>
        barArrived t o = barArrived b o + 1 ∧ barGen t o = barGen b o ∧ obj t o = { x with ports := [p] } ∧
        t.syncNet = b.syncNet ∧ (port t p).msgs = (port b p).msgs ∧
        (port t p).inbox = (port b p).inbox.erase m ∧ frame t) ∧
      (barCount b o ≤ barArrived b o + 1 → x.home = none → Runs (.arrive p) s fun t =>
        completed t ∧ (port t p).inbox = (port b p).inbox.erase m ∧
        (port t p).msgs = (port b p).msgs ++ [{ mtype := 5, id := (relObj b f o).getD 0, arg0 := 1 - barGen b o,
                                                arg1 := 0, beat := beat b }] ∧ frame t)) ∧
    (nextMsg b p 5 = some m → x.ports = [] →
      ((objsOf b f).filter fun o => (obj b o).home == some (p, m.id) && (obj b o).sent) = [o] →
      Runs (.releaseMessage p) s fun t =>
        completed t ∧ (port t p).inbox = (port b p).inbox.erase m ∧ (port t p).msgs = (port b p).msgs ∧ frame t)

/-- A cleared epoch holds back no CREDIT and no checkpoint; a poisoned one makes a rollback due; each epoch gets its
verdict for every port and partition that carried its data. -/
def Obligations.EpochsAreClearedOrPoisoned : Prop :=
  ∀ s : State,
    let b := s.toBlock
    (∀ (p : Nat) (m : CtlMsg), isPort p = true → nextMsg b p 7 = some m → Runs (.epochClear p) s fun t =>
      let e := m.arg0 % 65536
      let f := (port b p).func
      smGet (port t p).cleared e = some (beat b) ∧ smGet (port t p).poisoned e = none ∧ (∀ y ∈ (port t p).rx, e ∉ y.epochs) ∧
      (∀ h ∈ (port t p).held, e ∉ h.epochs ∧ ¬(h.freed = true ∧ h.epochs = [])) ∧
      (∀ h ∈ (port b p).held, (h.epochs.filter (· != e) ≠ [] ∨ h.freed = false) →
        { h with epochs := h.epochs.filter (· != e) } ∈ (port t p).held) ∧
      (∀ h ∈ (port b p).held, h.freed = true → h.epochs.filter (· != e) = [] →
        ∃ y ∈ (port t p).msgs, y.mtype = 6 ∧ y.id = h.channel ∧ y.beat = beat b) ∧
      part t f = { part b f with
        recvEpochs := (part b f).recvEpochs.filter (· != rxKey p e), recvAt := smDel (part b f).recvAt (rxKey p e)
        ckpts := (part b f).ckpts.map fun k => { k with pendingEpochs := k.pendingEpochs.filter (· != 2 * rxKey p e + 1) } } ∧
      (∀ g, g ≠ f → part t g = part b g) ∧
      RegsKept b t [] ∧ t.mem = b.mem ∧ t.cores = b.cores) ∧
    (∀ (p : Nat) (m : CtlMsg), isPort p = true → nextMsg b p 8 = some m →
      let e := m.arg0 % 65536
      let f := (port b p).func
      (part b f).image.isSome = true → pendingWaits b f = [] → Runs (.poison p) s fun t =>
        let open' (l : List Nat) : List Nat := l.map fun y => if y = e then e + 65536 else y
        smGet (port t p).poisoned e = some (beat b) ∧ smGet (port t p).cleared e = none ∧ LogsOne b t 0x30 ∧ (part t f).poisonedBy.isSome = true ∧
        (port t p).held = (port b p).held.map (fun h => { h with epochs := open' h.epochs }) ∧
        (port t p).rx = (port b p).rx.map (fun y => { y with epochs := open' y.epochs }) ∧
        ((part b f).poisonedBy = none → (part t f).poisonedBy = some (rxKey p e)) ∧ (part t f).st = (part b f).st ∧
        (part t f).ckpts = (part b f).ckpts.filter (fun k => !k.pendingEpochs.contains (2 * rxKey p e + 1)) ∧
        agentMayGo t f = false ∧ (∀ g, g ≠ f → part t g = part b g) ∧ t.mem = b.mem) ∧
    (∀ (e p f : Nat) (desc : Bytes), 16 * e + 32 ≤ beat b → b.exports = [] → p < 16 →
      (port b p).ethSent.filter (fun x => x.1 == e) = [(e, f, desc)] →
      (∀ q < 16, q ≠ p → ∀ x ∈ (port b q).ethSent, x.1 ≠ e) → Runs (.epochVerdict e) s fun t =>
      let failed := failsEpoch (part b f) e
      (portState b p = lnkUp → ∃ l, t.outbox = b.outbox ++ .ethFrame p (segFrame b (.ofDesc f desc)
        (segment (if failed then 4 else 3) 0 (exId (.ofDesc f desc)) (e % 65536) 0 [])) :: l) ∧
      (∀ x ∈ (port t p).ethSent, x.1 ≠ e) ∧
      (failed = true → b.campion.buffer.length + 17 ≤ 4096 → ∃ y ∈ t.campion.buffer, recDetector y = 0x31)) ∧
    (∀ e : Nat, 16 * e + 32 ≤ beat b → b.exports = [] → (∀ q < 16, ∀ x ∈ (port b q).ethSent, x.1 ≠ e) →
      Runs (.epochVerdict e) s fun t =>
      (∀ p, p < 16 → e ∈ (port b p).epochs →
        let failed := failsEpoch (part b (port b p).func) e
        e ∉ (port t p).epochs ∧
        (portMode b p = 1 → portProfile b p ≠ 2 → (port t p).txq = (port b p).txq ∧
          (port t p).msgs = (port b p).msgs ++
            [if failed then { mtype := 8, id := 0, arg0 := e % 2 ^ 32, arg1 := rd b .srlSerial, beat := beat b }
             else { mtype := 7, id := 0, arg0 := e % 2 ^ 32, arg1 := 0, beat := 16 * e + 31 }]) ∧
        (portProfile b p = 2 → (port t p).msgs = (port b p).msgs ∧
          (port t p).txq = if failed then (port b p).txq.filter (fun i => i.epoch != e) else (port b p).txq)) ∧
      (∀ p, (16 ≤ p ∨ e ∉ (port b p).epochs) → port t p = port b p) ∧
      (b.campion.buffer.length + 16 ≤ 4096 → (∃ p < 16, e ∈ (port b p).epochs ∧ portMode b p = 1 ∧ portProfile b p ≠ 2 ∧
        failsEpoch (part b (port b p).func) e = true) → ∃ y ∈ t.campion.buffer, recDetector y = 0x31) ∧
      (∀ f, f ∈ owners b → e ∈ (part b f).sentEpochs →
        e ∉ (part t f).sentEpochs ∧ (part t f).st = (part b f).st ∧
        (part t f).ckpts = if failsEpoch (part b f) e then (part b f).ckpts.filter (fun k => !k.pendingEpochs.contains (2 * e))
          else (part b f).ckpts.map fun k => { k with pendingEpochs := k.pendingEpochs.filter (fun y => y != 2 * e) }) ∧
      (∀ f, (f ∉ owners b ∨ e ∉ (part b f).sentEpochs) → part t f = part b f) ∧
      ((∀ f, failsEpoch (part b f) e = false) → RegsKept b t []) ∧ t.mem = b.mem ∧ t.cores = b.cores)

/-- A lane that fails makes its port retrain, at the width its lanes then give; a bring-up gives the port the lanes that
trained. -/
def Obligations.PortsFollowTheirLanes : Prop :=
  ∀ (p : Nat) (s : State), isPort p = true →
    let b := s.toBlock
    let x := port b p
    let frame (t : Block) : Prop := t.mem = b.mem ∧ t.cores = b.cores ∧ (∀ q, q ≠ p → port t q = port b q)
    let fencedLanes := fld b (.lnkStatus p) 27 24
    let peer := match x.peerLanes with
      | none => 15
      | some (h, f) => h &&& (15 - f)
    let onLanes (t : Block) (lanes : Nat) : Prop :=
      if lanes = 0 then portState t p = lnkDown ∧ portWidth t p = 0 ∧ fld t (.lnkStatus p) 31 28 = 0
      else portState t p = (if x.replayBuf = [] then lnkUp else lnkReplaying) ∧ portWidth t p = popCount lanes 4 ∧
        fld t (.lnkStatus p) 31 28 = lanes ∧ (port t p).replayQ = (x.replayBuf.flatMap (·.2)).map asReplay ∧
        (port t p).echoLeft = (if portMode b p = 1 then 16 else 0) ∧ (port t p).badFrame = none ∧
        (port t p).rxReplay = true ∧ (port t p).widest = popCount lanes 4
    (∀ lane reason : Nat, lane < 4 →
      (reason = 1 ∨ reason = 2 ∨ (reason = 3 ∧ ((∃ y ∈ x.nakCounts ++ x.nakSent, 3 ≤ y.2) ∨
        (x.replayBuf ≠ [] ∧ x.lastProgress + 256 ≤ beat b)))) → portMode b p = 1 →
      (portState b p = lnkUp ∨ portState b p = lnkReplaying) → flag b (.lnkStatus p) (28 + lane) = true →
      b.campion.hist.length < 131072 → Runs (.laneFailure p lane reason) s fun t =>
        portState t p = lnkRetraining ∧ (port t p).downSince = beat b ∧ (port t p).retest = decide (reason = 3) ∧
        (port t p).lanesOk = (if reason = 3 then x.lanesOk else x.lanesOk &&& ~~~(BitVec.ofNat 4 (2 ^ lane))) ∧
        (port t p).peerLanes = none ∧ (port t p).widest = x.widest ∧
        (if reason = 3 then (port t p).msgs = x.msgs
          else ∃ m ∈ (port t p).msgs, m.mtype = 11 ∧ m.arg0 % 16 = (port t p).lanesOk.toNat) ∧
        histTotal t 8 (p * 4 + lane) = satAdd (histTotal b 8 (p * 4 + lane)) 1 32 ∧
        (permanentNow b 8 (p * 4 + lane) 0x0D = true → isFenced t 8 (p * 4 + lane) = true) ∧ frame t) ∧
    (∀ (ok : Bool) (good : BitVec 4), portState b p = lnkRetraining →
      let up := ok = true ∧ beat b ≤ x.downSince + 4096
      let lanes := if up then lanesTaken x.widest (x.lanesOk.toNat &&& (15 - fencedLanes) &&& peer) else 0
      (up → x.retest = false → x.peerLanes = none → Runs (.retrainComplete p ok good) s fun t => t = b) ∧
      (up → x.retest = true → Runs (.retrainComplete p ok good) s fun t =>
        port t p = { x with
          lanesOk := good, retest := false,
          msgs := x.msgs ++ [{ mtype := 11, id := 0, arg0 := good.toNat + fencedLanes * 16, arg1 := 0, beat := beat b }] } ∧
        RegsKept b t [] ∧ frame t ∧ t.parts = b.parts) ∧
      ((up → x.retest = false ∧ x.peerLanes.isSome = true) → Runs (.retrainComplete p ok good) s fun t =>
        onLanes t lanes ∧ (1 ≤ x.widest → popCount lanes 4 ≤ x.widest) ∧
        rd t (.lnkDownshifts p) = (if lanes ≠ 0 ∧ popCount lanes 4 < portWidth b p then satAdd (rd b (.lnkDownshifts p)) 1 64
          else rd b (.lnkDownshifts p)) ∧
        fld t (.lnkStatus p) 27 24 = fencedLanes ∧ RegsKept b t [(Reg.lnkStatus p).window, (Reg.lnkDownshifts p).window] ∧
        frame t ∧ t.parts = b.parts)) ∧
    (∀ trained : BitVec 4, isVf x.func = true → (portMode b p = 1 ∨ portMode b p = 2) → refLost b (edgeOf p) = false →
      (∀ i < 4, trained.getLsbD i = true ∨ x.laneFails.getLsbD i = false) →
      let used := (part b x.func).st = .running ∨ (part b x.func).st = .paused
      (used → portState b p = lnkDown ∨ portState b p = lnkTraining ∨ portState b p = lnkOff) →
      let mine := if used then x.lanesOk &&& trained else trained
      let ok := mine.toNat &&& (15 - fencedLanes) &&& (if used then peer else 15)
      let wide := if used then x.widest else 4
      let rate := fld b (.lnkCfg p) 27 26
      let want := if rate = 0 then 15 else if rate = 1 then (if ok % 4 = 3 then 3 else 12)
        else if bitOf ok 0 then 1 else if bitOf ok 1 then 2 else if bitOf ok 2 then 4 else 8
      Runs (.portBringUp p trained) s fun t =>
        (portMode b p = 1 → onLanes t (lanesTaken wide ok)) ∧
        (portMode b p = 2 → onLanes t (if ok &&& want = want ∧ popCount want 4 ≤ wide then want
          else if flag b (.lnkCfg p) 25 then lanesTaken wide ok else 0)) ∧ (port t p).lanesOk = mine ∧
        (port t p).peerLanes = (if used then x.peerLanes else none) ∧
        (port t p).laneFails = ~~~trained ∧ fld t (.lnkStatus p) 27 24 = fencedLanes ∧
        RegsKept b t [(Reg.lnkStatus p).window] ∧ frame t ∧ t.parts = b.parts)

/-- A port in Ethernet mode answers who asks for its address, takes acknowledgements and discards the rest; an
acknowledgement moves its export's window, and its absence repeats the segments. The EtherTypes and the ARP, neighbour and UDP
layouts are PRESUMED from the standards (log 51). -/
def Obligations.EthernetPortsAnswerAndRepeat : Prop :=
  ∀ s : State,
    let b := s.toBlock
    (∀ (p : Nat) (fr : Bytes), isPort p = true → portMode b p = 2 → portState b p = lnkUp →
      let typ := beNat ((fr.drop 12).take 2)
      let silent := typ ≠ 0x0806 ∧ (typ = 0x86DD → ndReply b p fr = none)
      let dropped (t : Block) : Prop := rd t (.lnkEthDiscard p) = satAdd (rd b (.lnkEthDiscard p)) 1 64 ∧
        RegsKept b t [(Reg.lnkEthDiscard p).window] ∧ t.mem = b.mem ∧ t.toUnits = b.toUnits
      (frameOk fr = false → Runs (.ethernetFrameReceive p fr) s dropped) ∧
      (∀ r, frameOk fr = true → (typ = 0x0806 ∧ arpReply b p fr = some r ∨ typ = 0x86DD ∧ ndReply b p fr = some r) →
        Runs (.ethernetFrameReceive p fr) s fun t =>
          RegsKept b t [] ∧ t.mem = b.mem ∧ t.toUnits = { b.toUnits with outbox := b.outbox ++ [.ethFrame p r] }) ∧
      (frameOk fr = true → (typ = 0x0806 → arpReply b p fr = none) → (typ ≠ 0x0806 → silent) →
        udpPayload b p fr = none → Runs (.ethernetFrameReceive p fr) s dropped) ∧
      (∀ seg, frameOk fr = true → silent → udpPayload b p fr = some seg → Runs (.ethernetFrameReceive p fr) s fun t =>
        (port t p).ethIn = (port b p).ethIn ++ (if segOk seg = true ∧ leAt seg 0 1 = 2 then [seg] else []) ∧
        RegsKept b t [] ∧ t.mem = b.mem ∧ (∀ q, q ≠ p → port t q = port b q) ∧
        t.toUnits = { b.toUnits with ports := t.ports })) ∧
    (∀ (p h : Nat) (x : Export) (seg : Bytes) (rest : List Bytes), isPort p = true → (port b p).ethIn = seg :: rest →
      b.exports = [(h, x)] → exPort x = p → exId x = leAt seg 8 8 →
      let n := leAt seg 0x14 4
      (x.ackno < n → n ≤ x.seqno → x.buf = [] → x.heldSegs = [] → Runs (.teaselAckSegment p) s fun t =>
        t.exports = [(h, { x with
          ackno := n, unacked := x.unacked.filter (fun u => decide (n ≤ u.1)), lastAck := beat b, timeouts := 0 })] ∧
        (port t p).ethIn = rest ∧ t.outbox = b.outbox ∧ RegsKept b t [(Reg.tslStatus (p / 8)).window] ∧ t.mem = b.mem) ∧
      ((n ≤ x.ackno ∨ x.seqno < n) → Runs (.teaselAckSegment p) s fun t =>
        t.exports = b.exports ∧ (port t p).ethIn = rest ∧ RegsKept b t [] ∧ t.mem = b.mem)) ∧
    (∀ (h : Nat) (x : Export), h < 128 → exportOf? b h = some x → portMode b (exPort x) = 2 → x.ending = none → x.unacked ≠ [] →
      x.lastAck + fld b (.lnkEthRto (exPort x)) 15 0 ≤ beat b →
      (x.timeouts < 15 → Runs (.teaselRetransmitTimeout h) s fun t =>
        t.outbox = b.outbox ++ (if portState b (exPort x) = lnkUp then x.unacked.map (fun u => .ethFrame (exPort x) u.2) else []) ∧
        exportOf? t h = some { x with timeouts := x.timeouts + 1, lastAck := beat b } ∧
        (∀ k, k ≠ h → exportOf? t k = exportOf? b k) ∧
        rd t (.tslRetx (exPort x / 8)) = satAdd (rd b (.tslRetx (exPort x / 8))) x.unacked.length 64 ∧
        RegsKept b t [(Reg.tslRetx (exPort x / 8)).window] ∧ t.mem = b.mem) ∧
      (15 ≤ x.timeouts → Runs (.teaselRetransmitTimeout h) s fun t =>
        exportOf? t h = some { x with timeouts := 16, ending := some 1 } ∧ (∀ k, k ≠ h → exportOf? t k = exportOf? b k) ∧
        t.outbox = b.outbox ∧ RegsKept b t [] ∧ t.mem = b.mem))

/-- An export takes references to its pages, carries its page messages in order, and gives the references back when it
ends. -/
def Obligations.ExportsRunFromRequestToEnd : Prop :=
  ∀ s : State,
    let b := s.toBlock
    (∀ (f m : Nat) (r : Bytes) (ps : List Page), Accepts b f m cmdKvExport r →
      let d := reqPayload r
      let g := reqTarget r
      let h := freeHandle b (leAt d 0x15 1 / 8)
      (checkExport b g d = .ok ps → Runs (.kvExport f m) s fun t =>
        Responded b t f m stOk 0 (leBytes h 1) ∧
        (∃ x, exportOf? t h = some x ∧ x.func = g ∧ x.desc = d ∧ x.pages = ps.map (·.num) ∧ x.nextPage = 0 ∧ x.ending = none ∧
          x.credits = leAt d 0x17 1 ∧ x.geom = geomOf b g ∧ x.buf = [] ∧ x.convPend = [] ∧
          ∀ k y, exportOf? b k = some y → y.accNo < x.accNo) ∧
        (∀ k, k ≠ h → exportOf? t k = exportOf? b k) ∧
        (dir t g).pages = changePages (ps.map (·.num)) (fun p => { p with exports := p.exports + 1, stamp := beat b })
          (dir b g).pages ∧
        RegsKept b t (responseWindows f m ++ [(Reg.tslStatus (h / 64)).window]) ∧ t.mem = b.mem ∧ t.parts = b.parts) ∧
      (∀ st, checkExport b g d = .error st → Runs (.kvExport f m) s fun t => OnlyResponded b t f m st 0 [])) ∧
    (∀ (h : Nat) (x : Export) (g : Geometry), h < 128 → exportOf? b h = some x → x.geom = some g → x.canRead b = true →
      nextTurn b x.func (exPort x) = some x.accNo → x.heldSegs = [] → x.convPend.length < 2 →
      let p := exPort x
      let e := p / 8
      let y := pageMsg b x g
      let msg := pageHeader b x g y ++ y.body
      let segs := (pagesRead b x).flatMap fun q => [(q.dataPA, q.dataLen), (q.sidePA, q.sideLen)]
      let others (t : Block) : Prop := RegsKept b t [engineWindow e, (Reg.xltWalks x.func).window] ∧
        rd t (.xltWalks x.func) =
          satAdd (rd b (.xltWalks x.func)) ((pagesRead b x).flatMap (pageWalks b x g)).length 64 ∧
        (∀ sg ∈ segs, ∀ z ∈ reqPieces sg.1 sg.2, ∃ q ∈ (lpd t (ctlOf z.1)).queue,
          q.owner = 0x80 ∧ q.addr = z.1 ∧ q.len = z.2 ∧ q.write = false) ∧ t.mem = b.mem ∧ t.cores = b.cores ∧
        (∀ q, q ≠ x.func → part t q = part b q) ∧ epochOf (beat b) ∈ (part t x.func).sentEpochs
      let counted (t : Block) : Prop := rd t (.tslPages e) = satAdd (rd b (.tslPages e)) 1 64 ∧
        rd t (.tslCnvSat e) = satAdd (rd b (.tslCnvSat e)) y.sat 32 ∧
        rd t (.tslCnvFlush e) = satAdd (rd b (.tslCnvFlush e)) y.flush 32 ∧
        rd t (.tslCnvNan e) = satAdd (rd b (.tslCnvNan e)) y.nan 32 ∧ (port t p).tslTurn = x.accNo
      (x.convPend = [] → badIn b segs = [] → portMode b p ≠ 2 → Runs (.teaselPageMessage h none) s fun t =>
        ∃ (items : List TxItem) (z : Export), exportOf? t h = some z ∧ z.nextPage = x.nextPage + 1 ∧
          (port t p).txq = (port b p).txq ++ items ∧
          items.flatMap (·.data) ++ z.buf.flatMap (·.2) = x.buf.flatMap (·.2) ++ msg ∧
          (items.filter fun i => i.last).length + z.credits = x.credits ∧
          (∀ i ∈ items, i.teasel = some h ∧ i.channel = exChannel x ∧
            (i.epoch = epochOf (beat b) ∨ ∃ c ∈ x.buf, c.1 = i.epoch)) ∧
          (x.buf = [] → ∀ i ∈ items, i.last = true ∧ i.epoch = epochOf (beat b)) ∧ counted t ∧ others t) ∧
      (x.convPend = [] → badIn b segs = [] → portMode b p = 2 → exHold x = true → x.buf = [] →
        Runs (.teaselPageMessage h none) s fun t =>
          ∃ z : Export, exportOf? t h = some z ∧ z.nextPage = x.nextPage + 1 ∧ (port t p).txq = (port b p).txq ∧
            t.outbox = b.outbox ∧ z.unacked = x.unacked ∧
            z.heldSegs.flatMap (fun y => y.2.2.drop 32) ++ z.buf.flatMap (·.2) = msg ∧
            z.heldSegs.map (·.1) = (List.range z.heldSegs.length).map (x.seqno + ·) ∧
            (∀ y ∈ z.heldSegs, y.2.1 = [epochOf (beat b)]) ∧ counted t ∧ others t) ∧
      (∀ d : Det, d.code = 0x0E → d.uclass = 9 → d.uid = e → b.campion.hist.length < 131072 → badIn b segs = [] →
        Runs (.teaselPageMessage h (some d)) s fun t =>
          ∃ z : Export, exportOf? t h = some z ∧ z.nextPage = x.nextPage ∧ z.buf = x.buf ∧
            z.convPend.length = x.convPend.length + 1 ∧ (port t p).txq = (port b p).txq ∧ t.outbox = b.outbox ∧
            histTotal t 9 e = satAdd (histTotal b 9 e) 1 32 ∧ isFenced t 9 e = isFenced b 9 e ∧
            rd t .chkUncontained = rd b .chkUncontained ∧ t.mem = b.mem ∧ t.cores = b.cores ∧
            (∀ q, q ≠ x.func → part t q = part b q))) ∧
    (∀ (h st : Nat) (x : Export), exportOf? b h = some x → endStatus b h x = some st → isFunc x.func = true → h < 128 →
      Runs (.exportEnd h) s fun t =>
        let f := x.func
        exportOf? t h = none ∧ (∀ k, k ≠ h → exportOf? t k = exportOf? b k) ∧
        (dir t f).pages = changePages x.pages (fun q => { q with exports := q.exports - 1, stamp := beat b }) (dir b f).pages ∧
        rd t (.expTable f (4 * h)) = exId x % 2 ^ 32 ∧ rd t (.expTable f (4 * h + 1)) = exId x / 2 ^ 32 ∧
        rd t (.expTable f (4 * h + 2)) = st % 2 ^ 32 ∧ rd t (.expTable f (4 * h + 3)) = x.nextPage % 2 ^ 32 ∧
        flag t (.mbxExpDone f (h / 32)) (h % 32) = true ∧ flag t (.mbxEvent f) 1 = true ∧
        (∀ i ∈ (port t (exPort x)).txq, i.teasel ≠ some h) ∧ (st ≠ 0 → LogsOne b t 0x25) ∧ t.mem = b.mem ∧ t.parts = b.parts)

/-- The directory engine answers each of its seven operations, for the host and from the schedule queue; one that it refuses
changes nothing. That LOOKUP's row answers a reserved OP is the model's choice (log 49). -/
def Obligations.DirectoryOperationsAnswer : Prop :=
  ∀ (f m g : Nat) (q : DirReq) (s : State), isVf f = true →
    let b := s.toBlock
    let r := q.record
    let d := dir b f
    let w (ge : Geometry) (ts : List Nat) : Walk := walk b f d ge ts
    (Accepts b g m cmdPrefixQuery q.record → (∀ y ∈ b.dirReqs, y.issuer ≠ g ∨ y.mbox ≠ m) →
      Runs (.prefixQuery g m) s fun t =>
        t.toUnits = { b.toUnits with
          funcs := t.funcs
          dirReqs := b.dirReqs ++ [{ func := reqTarget r, issuer := g, mbox := m, record := reqPayload r }] } ∧
        (∀ h n, request t h n = request b h n) ∧ RegsKept b t [] ∧ t.mem = b.mem) ∧
    (∀ (ge : Geometry) (rec : Bytes) (rsp req : Nat),
      geomOf b f = some ge → dirRequest b f false = some rec → dirShare b f false = true →
      physObj b f ge.rsp = some rsp → physObj b f ge.req = some req → (∀ k, (lpd b k).bad = []) →
      let served (i : Instr) (a : DirAnswer) : Prop :=
        let b1 := a.act.run b
        Runs i s fun t =>
          t.mem = (match (translate b1 f true (queueVA b f ge : Nat) 64).segs with
            | some segs => ((Act.setSegs segs (answered b rec a)).run b1).mem
            | none => b1.mem) ∧
          dir t f = { dir b1 f with qidx := d.qidx + 1, qwait := 1 } ∧ (∀ c, core t c = { core b c with tlb := (core t c).tlb }) ∧
          (a.status ≠ 0 → dir t f = { d with qidx := d.qidx + 1, qwait := 1 } ∧ t.parts = b.parts) ∧
          t.syncNet = b.syncNet ++ [.sig rsp 1 (.dir f) 0, .wait req { agent := .dir f, n := 1, left := none }] ∧
          (∀ k, k ≠ f → dir t k = dir b k ∧ part t k = part b k)
      (∀ row ∈ dirRows b f false rec, drOp rec = row.2.1 → (row.2.1 = 4 → slotQuiet b f (drSeq rec) = true) →
        served row.1 row.2.2) ∧
      ((drOp rec = 0 ∨ 8 ≤ drOp rec) → served (.lookup f false) (.fail 1)) ∧
      (drOp rec = 7 → (dirFlush b f rec false).status ≠ 0)) ∧
    ((b.dirReqs.find? fun y => y.func == f) = some q → (request b q.issuer q.mbox).isSome = true →
      isFunc q.issuer = true → isMbox q.mbox = true → dirShare b f true = true →
      let replied (a : DirAnswer) (t : Block) : Prop :=
        Responded b t q.issuer q.mbox a.status 0 (answered b r a) ∧ t.dirReqs = b.dirReqs.erase q ∧
        (∀ c, core t c = { core b c with tlb := (core t c).tlb }) ∧
        (∀ k, k ≠ f → dir t k = dir b k ∧ part t k = part b k)
      let none' (t : Block) : Prop := dir t f = d ∧ t.parts = b.parts ∧ t.mem = b.mem
      (drOp r = 1 → Runs (.lookup f true) s fun t => replied (dirLookup b f r) t ∧ none' t) ∧
      ((drOp r = 0 ∨ 8 ≤ drOp r) → Runs (.lookup f true) s fun t => replied (.fail 1) t ∧ none' t) ∧
      (drOp r = 2 →
        let a := dirAttach b f r
        Runs (.attach f true) s fun t => replied a t ∧ (a.status ≠ 0 → none' t) ∧
          (a.status = 0 → ∀ ge, geomOf b f = some ge → 16 ≤ ge.pmax → (∀ p ∈ d.pages, 0 < p.len ∧ p.len % 16 = 0) →
            (d.pages.map (·.num)).Nodup →
            a.matched + a.work = (drNtok r + 15) / 16 * 16 ∧
            (∀ pos, pos < (drNtok r + 15) / 16 * 16 → ∃ p ∈ (dir t f).pages,
              p.slots.contains (drSeq r) = true ∧ p.t0 ≤ pos ∧ pos < p.t0 + p.len) ∧
            (∀ p ∈ d.pages, p.droppable = false → ∃ p' ∈ (dir t f).pages, p'.num = p.num ∧ p'.st = p.st ∧ p'.t0 = p.t0 ∧
              p'.len = p.len ∧ p'.dataPA = p.dataPA ∧ p'.sidePA = p.sidePA))) ∧
      (drOp r = 3 →
        let a := dirPublish b f r
        Runs (.publish f true) s fun t => replied a t ∧ (a.status ≠ 0 → none' t) ∧
          (a.status = 0 → (dir t f).pages.length = d.pages.length ∧
            ∀ p ∈ (dir t f).pages, p.slots.contains (drSeq r) = true → p.t0 + p.len ≤ drNtok r → p.st = .sealed)) ∧
      (drOp r = 4 → slotQuiet b f (drSeq r) = true →
        let a := dirRelease b f r
        Runs (.release f true) s fun t => replied a t ∧ (a.status ≠ 0 → none' t) ∧ t.mem = b.mem ∧
          (a.status = 0 → (∀ p ∈ (dir t f).pages, p.slots.contains (drSeq r) = false) ∧
            (dir t f).entries = d.entries ∧
            ∀ p ∈ d.pages, (p.st = .sealed ∨ p.slots.contains (drSeq r) = false) →
              ∃ p' ∈ (dir t f).pages, p'.num = p.num ∧ p'.st = p.st ∧ p'.pin = p.pin)) ∧
      ((drOp r = 5 → Runs (.pin f true) s fun t => replied (dirPin b f r true) t ∧ t.mem = b.mem ∧ t.parts = b.parts ∧
          ∀ ge ts, geomOf b f = some ge → drSeq r < ge.nseq → drNtok r ≤ ge.tmax → drTokens b f r = some ts →
            (dir t f).pages.map (fun p => (p.num, p.pin)) = d.pages.map fun p =>
              (p.num, if ((w ge ts).pages.map (·.num)).contains p.num then min 65535 (p.pin + 1) else p.pin)) ∧
        (drOp r = 6 → Runs (.unpin f true) s fun t => replied (dirPin b f r false) t ∧ t.mem = b.mem ∧ t.parts = b.parts ∧
          ∀ ge ts, geomOf b f = some ge → drSeq r < ge.nseq → drNtok r ≤ ge.tmax → drTokens b f r = some ts →
            (dir t f).pages.map (fun p => (p.num, p.pin)) = d.pages.map fun p =>
              (p.num, if ((w ge ts).pages.map (·.num)).contains p.num then p.pin - 1 else p.pin))) ∧
      (drOp r = 7 → Runs (.flush f true) s fun t => replied (dirFlush b f r true) t ∧ t.mem = b.mem ∧ t.parts = b.parts ∧
        (∀ p ∈ (dir t f).pages, p ∈ d.pages ∧ p.droppable = false) ∧
        ∀ e ∈ (dir t f).entries, e ∈ d.entries))

/-- A mailbox command is refused by the first status that applies, without effect; one that waits does nothing; the
reports answer and change nothing else. That GET_INFO's row answers a reserved CODE is the model's reading (log 49). -/
def Obligations.MailboxCommandsAreCheckedInOrder : Prop :=
  ∀ (f m : Nat) (r : Bytes) (s : State), isFunc f = true → isMbox m = true →
    let b := s.toBlock
    request b f m = some r →
    (∀ row ∈ mailRows b f m, reqCode r = row.2.code →
      (waits b f m row.2.code = true → Runs row.1 s fun t => t = b) ∧
      (∀ st, waits b f m row.2.code = false → row.2.refusal b f r = some st →
        Runs row.1 s fun t =>
          OnlyResponded b t f m st (if st = stBadArg then row.2.badAt (reqPayload r) else 0) []) ∧
      (f ≠ 0 → row.2.func0 = true → zeros r 3 4 = true → row.2.target (reqTarget r) = true →
        reqLen r = (reqPayload r).length → row.2.payload (reqPayload r) = true →
        row.2.refusal b f r = some stDenied)) ∧
    (∀ row ∈ mailRows b f m, reqCode r = row.2.code → ∀ l, smGet (func b f).latched m = some l → ∀ y ∈ outstanding b,
      ((y.l.order < l.order ∧ y.target = reqTarget r ∧ reqTarget r ≠ 0 ∧ reportCode y.code = false ∧
          reportCode row.2.code = false ∧ ¬(row.2.code = 0x33 ∧ y.code = 0x31)) ∨
        (y.f = f ∧ longCode y.code = true ∧ y.l.begun = true ∧ longCode row.2.code = true ∧ l.begun = false)) →
      Runs row.1 s fun t => t = b) ∧
    (knownCodes.contains (reqCode r) = false → waits b f m (reqCode r) = false → Runs (.getInfo f m) s fun t => OnlyResponded b t f m stBadArg 0 []) ∧
    (Accepts b f m cmdGetInfo r → Runs (.getInfo f m) s fun t =>
      OnlyResponded b t f m stOk 0 (infoPayload b (leAt (reqPayload r) 0 4))) ∧
    (Accepts b f m cmdGetState r → Runs (.getState f m) s fun t =>
      OnlyResponded b t f m stOk 0 (statePayload b (if reqTarget r = 0 then f else reqTarget r))) ∧
    (Accepts b f m cmdReadLog r → Runs (.readLog f m) s fun t =>
      OnlyResponded b t f m stOk 0 (logPayload b f (leAt (reqPayload r) 0 4) (leAt (reqPayload r) 4 2)))

/-- FENCE_UNIT fences a unit as if permanent, UNFENCE_UNIT gives it back, RUN_SELFTEST fences what fails. -/
def Obligations.UnitsAreFencedTestedAndReturned : Prop :=
  ∀ (f m : Nat) (r : Bytes) (s : State),
    let b := s.toBlock
    let p := reqPayload r
    let c := leAt p 0 2
    let u := leAt p 4 4
    noPause b f m →
    (Accepts b f m cmdFenceUnit r → unitExists c u = true → b.campion.hist.length < 131072 →
      Runs (.fenceUnit f m) s fun t =>
        Responded b t f m stOk 0 [] ∧ isFenced t c u = true ∧ histTotal t c u = histTotal b c u ∧
        (isFenced b c u = false → c ≠ 7 → LogsOne b t 0x34) ∧
        (isFenced b c u = true → OnlyResponded b t f m stOk 0 []) ∧ t.mem = b.mem ∧
        (∀ c' u', (c', u') ≠ (c, u) → isFenced t c' u' = isFenced b c' u')) ∧
    (Accepts b f m cmdFenceUnit r → unitExists c u = false → Runs (.fenceUnit f m) s fun t =>
      OnlyResponded b t f m stBadArg 0 []) ∧
    (Accepts b f m cmdUnfenceUnit r → unitExists c u = true → isFenced b c u = true → avoidsOnly b c u = false →
      Runs (.unfenceUnit f m) s fun t =>
        Responded b t f m stOk 0 [] ∧ isFenced t c u = false ∧ histTotal t c u = histTotal b c u ∧ LogsOne b t 0x35 ∧
        (∀ c' u', (c', u') ≠ (c, u) → isFenced t c' u' = isFenced b c' u') ∧
        flag t (.mbxEvent 0) 3 = flag b (.mbxEvent 0) 3 ∧ t.mem = b.mem ∧ t.parts = b.parts ∧ t.cores = b.cores) ∧
    (Accepts b f m cmdUnfenceUnit r → unitExists c u = true → isFenced b c u = true → avoidsOnly b c u = true →
      Runs (.unfenceUnit f m) s fun t => OnlyResponded b t f m stConflict 2 []) ∧
    (∀ fails : List KatOut, Accepts b f m cmdRunSelftest r →
      let us := (List.range (leAt p 2 2)).map fun i => leAt p (4 + 4 * i) 4
      let bad (v : Nat) : Bool := (c == 1 || c == 2) && selftestFails b c v fails
      (∀ v ∈ us, unitExists c v = true) → powerBusy b f m = false →
      (∀ v ∈ us, ∀ g ∈ unitOwners b c v, (part b g).st = .ready) →
      b.campion.hist.length + us.length ≤ 131072 → Runs (.runSelftest f m fails) s fun t =>
        Responded b t f m stOk 0 (leBytes us.length 2 ++ us.flatMap fun v =>
          leBytes (if c ≠ 1 ∧ c ≠ 2 then 2 else if bad v then 1 else 0) 1) ∧
        (∀ v ∈ us, isFenced t c v = (isFenced b c v || bad v)) ∧
        (c = 1 → us.Nodup → ∀ v ∈ us, histTotal t 1 v = (if bad v then satAdd (histTotal b 1 v) 1 32 else histTotal b 1 v)) ∧
        t.mem = b.mem)

/-- SET_POWER_STATE takes the module to DORMANT and back. The beat of a detection of restored state, the one at which the
wake completes, is the model's reading (log 59). -/
def Obligations.PowerStatesFollowCommands : Prop :=
  ∀ (f m : Nat) (r : Bytes) (s : State),
    let b := s.toBlock
    let frame (t : Block) : Prop := t.mem = b.mem ∧ t.cores = b.cores ∧ t.parts = b.parts
    (Accepts b f m cmdSetPower r → leAt (reqPayload r) 0 1 = 1 → b.power.dormantReq = none → b.power.wake = none →
      modState b = modOperational → (∀ g ∈ owners b, (part b g).st ≠ .running) → keepsAwake b f m = false →
      Runs (.setPowerStateDormant f m) s fun t =>
        modState t = modDormant ∧ t.power.dormantReq = some (f, m) ∧ request t f m = some r ∧
        (∀ g < 17, fld t (.mbxFunc g) 31 29 = modDormant) ∧ flag t (.mbxEvent 0) 3 = true ∧ frame t) ∧
    (isFunc f = true → isMbox m = true → request b f m = some r → b.power.dormantReq = some (f, m) →
      (∀ k, ∀ q ∈ (lpd b k).queue, q.write = true) → Runs (.dormantEntryComplete f m) s fun t =>
        Responded b t f m stOk 0 [] ∧ t.power.dormantReq = none ∧ t.hostqs = [] ∧
        (∀ k < 16, lpdState b k = lpdReady → (lpd t k).queue = []) ∧
        (∀ p < Config.numPlots, isFenced b 6 p = false → coreFenced b (plotKeeper p) = false →
          (p, plotKeeper p) ∈ t.power.keepers) ∧
        (∀ x ∈ t.power.keepers, isFenced b 6 x.1 = false ∧ coreFenced b x.2 = false) ∧
        (∀ x ∈ t.power.keepers, ∀ y ∈ t.power.keepers, x.2 = y.2 → x.1 = y.1) ∧
        (∀ p < 16, portMode b p ≠ 0 → portState t p = lnkOff ∧ portWidth t p = 0) ∧
        (∀ k < 16, lpdState t k = if lpdState b k = lpdReady then lpdSelfRefresh else lpdState b k) ∧
        ((domState b = 1 ∨ domState b = 2) → domState t = 3) ∧ frame t) ∧
    (Accepts b f m cmdSetPower r → leAt (reqPayload r) 0 1 = 0 → b.power.dormantReq = none → b.power.wake = none →
      modState b = modDormant → Runs (.setPowerStateOperational f m) s fun t =>
        t.power.wake = some (beat b + 1, f, m) ∧ flag t .pwrModstate 3 = true ∧ modState t = modDormant ∧
        request t f m = some r ∧ RegsKept b t [Reg.pwrModstate.window] ∧ frame t) ∧
    (Accepts b f m cmdSetPower r → leAt (reqPayload r) 0 1 = 0 → b.power.dormantReq = none → b.power.wake = none →
      modState b = modOperational → Runs (.setPowerStateOperational f m) s fun t => OnlyResponded b t f m stOk 0 []) ∧
    (∀ w : Nat, isFunc f = true → isMbox m = true → request b f m = some r → b.power.wake = some (w, f, m) →
      let woken (t : Block) : Prop := Responded b t f m stOk 0 [] ∧ modState t = modOperational ∧ t.power.wake = none ∧
        t.power.keepers = [] ∧ (∀ k < 16, lpdState t k = lpdState b k) ∧ flag t .pwrModstate 3 = false ∧
        flag t (.mbxEvent 0) 3 = true
      (beat b = w + 12500 → modState b = modDormant → Runs (.wakeComplete []) s fun t => woken t ∧ frame t) ∧
      (∀ (d : Det) (c g : Nat), beat b = w + 12500 → modState b = modDormant → d.code = 0x08 → d.uclass = 2 → d.uid = c →
        isCore c = true → ownerOfCore b c = some g → (part b g).image.isSome = true → pendingWaits b g = [] →
        b.campion.hist.length < 131072 → Runs (.wakeComplete [d]) s fun t =>
          woken t ∧ (part t g).taint = some (min (beat b) ((part b g).taint.getD (beat b))) ∧ agentMayGo t g = false ∧
          (part t g).st = (part b g).st ∧ rd t .chkUncontained = satAdd (rd b .chkUncontained) 1 64 ∧
          histTotal t 2 c = satAdd (histTotal b 2 c) 1 32 ∧ (∀ h, h ≠ g → part t h = part b h) ∧ t.mem = b.mem) ∧
      (∀ bad : List Det, beat b ≠ w + 12500 → Runs (.wakeComplete bad) s fun t => t = b))

/-- The firmware update commands open, fill, commit or give up a slot. That erased flash reads 0xFF is PRESUMED (log 2). -/
def Obligations.FirmwareSessionsFillOneSlot : Prop :=
  ∀ (f m : Nat) (r : Bytes) (s : State),
    let b := s.toBlock
    let p := reqPayload r
    let others (t : Block) (k : Nat) : Prop := fwSlot t (1 - k) = fwSlot b (1 - k) ∧ t.mem = b.mem ∧ t.cores = b.cores ∧
      t.parts = b.parts
    (Accepts b f m cmdFwOpen r → (b.power.session = none ∨ ∃ x, b.power.session = some x ∧ x.f = f ∧ x.m = m) →
      let k := openSlot b (leAt p 0 1)
      k ≤ 1 → (modState b = modMinimal ∨ k ≠ fld b .pwrBoot 16 16) → Runs (.fwOpen f m) s fun t =>
        Responded b t f m stOk 0 (leBytes k 1) ∧ t.power.session = some { f := f, m := m, slot := k } ∧
        (fwSlot t k).factory = false ∧ (∀ o < headerSize, (fwSlot t k).byte o = 0xFF) ∧ bootable t (fwSlot t k) ≠ none ∧
        (∀ o, headerSize ≤ o → (fwSlot t k).byte o = (fwSlot b k).byte o) ∧
        RegsKept b t (responseWindows f m) ∧ others t k) ∧
    (Accepts b f m cmdFwOpen r → (∃ x, b.power.session = some x ∧ (x.f ≠ f ∨ x.m ≠ m)) → Runs (.fwOpen f m) s fun t =>
      OnlyResponded b t f m stBusy 0 []) ∧
    (∀ (k : Nat) (dma : Bytes), Accepts b f m cmdFwWrite r → ownSession b f m = some k → k ≤ 1 →
      leAt p 0 4 + leAt p 4 4 ≤ slotSize → (func b f).bme = true → dma.length = leAt p 4 4 →
      Runs (.fwWrite f m dma) s fun t =>
        Responded b t f m stOk 0 [] ∧ (fwSlot t k).bytes (leAt p 0 4) dma.length = dma ∧
        (∀ o, (o < leAt p 0 4 ∨ leAt p 0 4 + dma.length ≤ o) → (fwSlot t k).byte o = (fwSlot b k).byte o) ∧
        (fwSlot t k).committed = (fwSlot b k).committed ∧
        RegsKept b t (responseWindows f m) ∧ others t k) ∧
    (∀ k : Nat, Accepts b f m cmdFwCommit r → ownSession b f m = some k → k ≤ 1 →
      (verifySlot b (fwSlot b k) = none → Runs (.fwCommit f m) s fun t =>
        Responded b t f m stOk 0 [] ∧ fld t .pwrBoot 17 17 = k ∧ fld t .pwrBoot 11 10 = 0 ∧ fld t .pwrBoot 16 16 = fld b .pwrBoot 16 16 ∧
        t.power.session = none ∧ fwSlot t k = { fwSlot b k with committed := true } ∧ bootable t (fwSlot t k) = none ∧
        RegsKept b t (Reg.pwrBoot.window :: responseWindows f m) ∧ others t k) ∧
      (∀ x, verifySlot b (fwSlot b k) = some x → Runs (.fwCommit f m) s fun t =>
        OnlyResponded b t f m (commitStatus b x).1 (commitStatus b x).2 [])) ∧
    (∀ k : Nat, Accepts b f m cmdFwAbort r → ownSession b f m = some k → k ≤ 1 → Runs (.fwAbort f m) s fun t =>
      Responded b t f m stOk 0 [] ∧ t.power.session = none ∧ (fwSlot t k).factory = false ∧ bootable t (fwSlot t k) ≠ none ∧
      (∀ o < headerSize, (fwSlot t k).byte o = 0xFF) ∧ RegsKept b t (responseWindows f m) ∧ others t k) ∧
    (∀ row ∈ [(Instr.fwWrite f m [], cmdFwWrite), (.fwCommit f m, cmdFwCommit), (.fwAbort f m, cmdFwAbort)],
      Accepts b f m row.2 r → ownSession b f m = none → Runs row.1 s fun t => OnlyResponded b t f m stConflict 0 [])

/-- The SPDM responder answers the seven requests of R420 in their order, and every other message with an ERROR. The
message layouts are PRESUMED from DSP0274 (log 15). -/
def Obligations.SpdmRequestsAreAnswered : Prop :=
  ∀ (f m : Nat) (r : Bytes) (s : State),
    let b := s.toBlock
    let p := reqPayload r
    let c := (func b f).spdm
    let answers (i : Instr) (version code : Nat) (P : Bytes → Spdm → Prop) : Prop :=
      Runs i s fun t => ∃ out, Responded b t f m stOk 0 out ∧ leAt out 0 1 = version ∧ leAt out 1 1 = code ∧
        P out (func t f).spdm ∧ RegsKept b t ([((Reg.mbxPage f (rspWord m)).addr, max 0x1000 (out.length + 36)), (Reg.mbxMb f m).window, (Reg.msixPba f).window]) ∧
        (∀ g, g ≠ f → func t g = func b g) ∧ t.mem = b.mem ∧ t.cores = b.cores ∧ t.parts = b.parts
    Accepts b f m cmdSpdm r →
    (spdmError b f p = none →
      (leAt p 1 1 = spGetVersion → answers (.getVersion f m) 0x10 0x04 fun out c' =>
        leAt out 6 2 = 0x1200 ∧ c' = { version := true, caps := false, algs := false, vca := p ++ out, certs := [], meas := [] }) ∧
      (leAt p 1 1 = spGetCapabilities → answers (.getCapabilities f m) 0x12 0x61 fun out c' =>
        c' = { c with caps := true, vca := c.vca ++ p ++ out }) ∧
      (leAt p 1 1 = spNegotiate → answers (.negotiateAlgorithms f m) 0x12 0x63 fun out c' =>
        c' = { c with algs := true, vca := c.vca ++ p ++ out }) ∧
      (leAt p 1 1 = spGetDigests → answers (.getDigests f m) 0x12 0x01 fun out c' =>
        out.drop 4 = sha512 (certChain b) ∧ c' = { c with certs := c.certs ++ p ++ out, meas := [] }) ∧
      (leAt p 1 1 = spGetCertificate → answers (.getCertificate f m) 0x12 0x02 fun out c' =>
        out.drop 8 = ((certChain b).drop (leAt p 4 2)).take (min (leAt p 6 2) 4056) ∧
        c' = { c with certs := c.certs ++ p ++ out, meas := [] }) ∧
      (leAt p 1 1 = spChallenge → answers (.challenge f m) 0x12 0x03 fun out c' =>
        (out.drop 4).take (sha512 (certChain b)).length = sha512 (certChain b) ∧ c' = { c with certs := [], meas := [] } ∧
        ∃ body, out = body ++ spdmSign b "responder-challenge_auth signing" (c.vca ++ c.certs ++ p ++ body)) ∧
      (leAt p 1 1 = spGetMeasurements → answers (.getMeasurements f m) 0x12 0x60 fun out c' =>
        (leAt p 3 1 = 0 → leAt out 4 1 = 0) ∧ (leAt p 3 1 ≠ 0 → leAt p 3 1 ≠ 0xFF → leAt out 4 1 = 1) ∧
        c'.vca = c.vca ∧ c'.certs = [])) ∧
    (∀ e, spdmError b f p = some e → answers (.spdmUnsupportedRequest f m) (if c.version then 0x12 else 0x10) 0x7F
      fun out c' => leAt out 2 1 = e.1 ∧ leAt out 3 1 = e.2 % 256 ∧ c' = { c with meas := [] })

/-- PARTITION_CREATE builds a partition from what no other holds and zeroes it; PARTITION_DESTROY gives everything
back. -/
def Obligations.PartitionsAreBuiltAndDissolved : Prop :=
  ∀ (f m : Nat) (r : Bytes) (s : State),
    let b := s.toBlock
    let t := reqTarget r
    let idle (t' : Block) (plots : List Nat) (cs : List (Nat × Nat)) : Prop :=
      (∀ c, plotOf c ∈ plots → core t' c = CoreState.reset) ∧
      (∀ a, (scratchOf plots a = true ∨ inAny cs a = true) → byteAt t' a = 0)
    (Accepts b f m (cmdCreate b) r →
      let q := CreateReq.read (reqPayload r)
      let plots := plotList (BitVec.ofNat 64 q.plots)
      let ports := portList (BitVec.ofNat 16 q.ports)
      let cs := drawFor b plots q.memgib
      (∀ o, firstBad q.ranges = some o → Runs (.partitionCreate f m) s fun t' => OnlyResponded b t' f m stBadArg o []) ∧
      (∀ o, firstBad q.ranges = none → firstBad (q.sums b t) = some o →
        Runs (.partitionCreate f m) s fun t' => OnlyResponded b t' f m stNoResource o []) ∧
      (firstBad q.ranges = none → firstBad (q.sums b t) = none → Runs (.partitionCreate f m) s fun t' =>
        Responded b t' f m stOk 0 (leBytes (fencedIn b plots) 4) ∧
        (part t' t).st = .ready ∧ (part t' t).plots = BitVec.ofNat 64 q.plots ∧ (part t' t).chunks = cs ∧
        (part t' t).image = none ∧ (part t' t).maps = (dataWindows (part t' t)).foldl (mapPage (tablePlace t (part t' t))) [] ∧ (∀ g, g ≠ t → part t' g = part b g) ∧
        (∀ g, isVf g = true → g ≠ t → (part t' g).st ≠ .empty → ∀ p ∈ plots, (part t' g).plots.getLsbD p = false) ∧
        idle t' plots cs ∧ (∀ c, plotOf c ∉ plots → core t' c = core b c) ∧
        (∀ a, scratchOf plots a = false → inAny cs a = false → byteAt t' a = byteAt b a) ∧
        (∀ p ∈ plots, ∀ i < 512, rd t' (.synObjOwner (p * 512 + i)) = t ∧ objType t' (p * 512 + i) = 0) ∧
        (∀ p ∈ ports, portState t' p = lnkTraining ∧ (port t' p).func = t ∧ rd t' (.lnkCfg p) = portCfgWord (natAt q.portcfg p)) ∧
        rd t' (.pwrAlloc t) = q.power ∧ fld t' (.mbxFunc t) 28 26 = 1 ∧ flag t' (.mbxEvent t) 0 = true)) ∧
    (Accepts b f m cmdDestroy r → (part b t).pausing ≠ some (.command f m) →
      let q := part b t
      let plots := plotList q.plots
      Runs (.partitionDestroy f m) s fun t' =>
        Responded b t' f m stOk 0 [] ∧ part t' t = Partition.reset ∧ (∀ g, g ≠ t → part t' g = part b g) ∧
        idle t' plots q.chunks ∧ (∀ c, plotOf c ∉ plots → core t' c = core b c) ∧
        (∀ p ∈ plots, ∀ i < 512, rd t' (.synObjOwner (p * 512 + i)) = 0x1F ∧ objType t' (p * 512 + i) = 0 ∧
          obj t' (p * 512 + i) = ObjState.reset) ∧
        (∀ p ∈ portList q.ports, portState t' p = lnkOff ∧ portMode t' p = 0) ∧ dir t' t = DirFn.reset ∧
        (∀ h x, exportOf? t' h = some x → x.func ≠ t) ∧ rd t' (.pwrAlloc t) = 0 ∧ fld t' (.mbxFunc t) 28 26 = 0 ∧
        ((∀ c ∈ coresOf b t, (core b c).inv = none ∧ (core b c).moves = []) →
          ∀ a, scratchOf plots a = false → inAny q.chunks a = false → byteAt t' a = byteAt b a))

/-- LOAD_IMAGE installs an image that passes every check and rejects every other one without effect; UNLOAD_IMAGE takes
it out; SET_SHAPES writes the masked words. That LOAD_IMAGE stays in execution while the module acquires its lock, and that a
second image's LDMAX merges into the domain's, are the model's readings (log 47). -/
def Obligations.ImagesAreLoadedShapedAndUnloaded : Prop :=
  ∀ (f m : Nat) (r : Bytes) (s : State),
    let b := s.toBlock
    let t := reqTarget r
    let p := reqPayload r
    let zeros64 : Bytes := List.replicate 64 0
    (∀ dma : Option Bytes, Accepts b f m cmdLoadImage r →
      (leAt p 0 1 = 0 → (func b f).bme = false → Runs (.loadImage f m dma) s fun t' => OnlyResponded b t' f m stDenied 0 []) ∧
      ((leAt p 0 1 = 0 → (func b f).bme = true) →
        (imageBytes b t (leAt p 0 1) (leAt p 8 8) dma = none → Runs (.loadImage f m dma) s fun t' =>
          OnlyResponded b t' f m stBadArg 1 (loadPayload 0 0xFF noOffset zeros64)) ∧
        ∀ img, imageBytes b t (leAt p 0 1) (leAt p 8 8) dma = some img →
          (∀ e, admission b t img = .error e → domState b ≠ 3 → Runs (.loadImage f m dma) s fun t' =>
            OnlyResponded b t' f m e.status e.step (loadPayload (leAt img 8 8) 0xFF e.off zeros64)) ∧
          (∀ im v, admission b t img = .ok (im, v) →
            let cs := physCores (plotList (part b t).plots) ((im.place[v]?).getD [])
            (im.domain.all (fun d => if sameDomain b d then domState b == 2 else d.upport == 0xFF) = true → cs.Nodup →
              Runs (.loadImage f m dma) s fun t' =>
              Responded b t' f m stOk 0 (loadPayload (leAt img 8 8) v noOffset (sha512 img)) ∧
              (part t' t).st = .loaded ∧ (part t' t).image = some im ∧ (part t' t).variant = v ∧
              (part t' t).measurement = sha512 img ∧ (part t' t).ckpts = [] ∧ (part t' t).started = false ∧
              (∀ x ∈ cs.zip im.cores, (core t' x.1).steps = x.2.steps ∧ (core t' x.1).durs = x.2.durs ∧
                (core t' x.1).progs = x.2.progs ∧ seqState t' x.1 = seqLoaded ∧ seqEntry t' x.1 = 0) ∧
              (∀ c, c ∉ cs → core t' c = core b c) ∧ (∀ g, g ≠ t → part t' g = part b g) ∧
              (∀ d, im.domain = some d → domState t' = 2 ∧
                t'.lock.domain = if sameDomain b d then b.lock.domain.map (fun o => { o with ldmax := mergeLd o.ldmax d.ldmax })
                  else some d) ∧
              fld t' (.mbxFunc t) 28 26 = 2) ∧
            (∀ d, im.domain = some d → d.upport ≠ 0xFF → sameDomain b d = false → Runs (.loadImage f m dma) s fun t' =>
              domState t' = 1 ∧ rd t' .srlDomId = d.id % 2 ^ 64 ∧ fld t' .srlDomStatus 15 8 = d.upport % 256 ∧
              t'.lock.domain = some d ∧ request t' f m = some r ∧ t'.parts = b.parts ∧ t'.cores = b.cores ∧ t'.mem = b.mem)))) ∧
    (Accepts b f m cmdUnload r → Runs (.unloadImage f m) s fun t' =>
      Responded b t' f m stOk 0 [] ∧ (part t' t).st = .ready ∧ (part t' t).image = none ∧ (part t' t).plots = (part b t).plots ∧
      (part t' t).chunks = (part b t).chunks ∧ (dir t' t).pages = (dir b t).pages ∧
      (∀ c ∈ coresOf b t, (core t' c).steps = [] ∧ (core t' c).progs = [] ∧ seqState t' c = seqNoImage) ∧
      (∀ c ∈ coresOf b t, rd t' (.seqFault c) = rd b (.seqFault c)) ∧
      (∀ c, c ∉ coresOf b t → core t' c = core b c) ∧ (∀ g, g ≠ t → part t' g = part b g) ∧ t'.mem = b.mem) ∧
    (Accepts b f m cmdSetShapes r →
      let cs := coresOf b t
      let n := leAt p 0 2
      let at' (i : Nat) : Nat := 8 + 40 * i
      let tgt (i : Nat) : Nat × Nat := ((cs[leAt p (at' i) 4]?).getD 0, leAt p (at' i + 4) 1)
      (∀ i < n, leAt p (at' i) 4 < cs.length) → Runs (.setShapes f m) s fun t' =>
        Responded b t' f m stOk 0 [] ∧
        (∀ i < n, ∀ w < 8, bitOf (leAt p (at' i + 5) 1) w = true → (∀ j, i < j → j < n → tgt j ≠ tgt i) →
          rd t' (.seqRs (tgt i).1 (tgt i).2 w) = leAt p (at' i + 8 + 4 * w) 4) ∧
        RegsKept b t' (responseWindows f m ++ (List.range n).map fun i =>
          ((Reg.seqRs (tgt i).1 (tgt i).2 0).addr, 0x20)) ∧
        t'.mem = b.mem ∧ t'.cores = b.cores ∧ t'.parts = b.parts)

/-- START, PAUSE, RESUME and STOP take a partition through its states. RESUME before the start beat, and what STOP forgets,
are the model's readings (log 54). -/
def Obligations.RunsStartPauseResumeAndStop : Prop :=
  ∀ (f m : Nat) (r : Bytes) (s : State),
    let b := s.toBlock
    let t := reqTarget r
    let others (t' : Block) (g : Nat) : Prop := ∀ h, h ≠ g → part t' h = part b h
    (∀ im, Accepts b f m cmdStart r → (part b t).image = some im →
      let q := startBeatFor b im (leAt (reqPayload r) 0 8)
      (q = none → Runs (.start f m) s fun t' => OnlyResponded b t' f m stBadArg 0 []) ∧
      (q.isSome = true → haltActive b = true → Runs (.start f m) s fun t' => OnlyResponded b t' f m stConflict 5 []) ∧
      (∀ n, q = some n → haltActive b = false → (∀ x ∈ b.ports, x.2.func = t → x.2.rx = []) →
        beat b + 64 ≤ n ∧ n % 3 = 0 ∧ Runs (.start f m) s fun t' =>
          Responded b t' f m stOk 0 (leBytes n 8) ∧ (part t' t).st = .running ∧ (part t' t).startBeat = n ∧
          (part t' t).started = false ∧ (part t' t).beatsRun = 0 ∧ (part t' t).fault = none ∧
          (part t' t).image = some im ∧ fld t' (.mbxFunc t) 28 26 = 3 ∧ fld t' (.mbxFunc t) 7 0 = 0 ∧
          (∀ c ∈ coresOf b t, seqState t' c = seqLoaded ∧ seqEntry t' c = 0 ∧ (core t' c).inv = none ∧
            (core t' c).loops = [] ∧ (core t' c).ended = false ∧ (core t' c).moves = [] ∧
            (core t' c).steps = (core b c).steps ∧ (∀ x < 4, ctxActive t' c x = false) ∧
            ∀ n < 16, ringHead t' c n = 0 ∧ ringTail t' c n = 0) ∧
          (∀ c, c ∉ coresOf b t → core t' c = core b c) ∧ others t' t ∧ t'.mem = b.mem)) ∧
    (Accepts b f m cmdPause r → (∀ h k, (part b t).pausing ≠ some (.command h k)) → Runs (.pause f m) s fun t' =>
      part t' t = { part b t with
        pausing := some (.command f m)
        pauseBeats := if (part b t).halted.isSome ∨ (part b t).pausing = some .halt then (part b t).pauseBeats else 0 } ∧
      request t' f m = some r ∧
      others t' t ∧ RegsKept b t' [] ∧ t'.mem = b.mem ∧ t'.cores = b.cores) ∧
    (∀ (g h k : Nat) (w : PauseWhy), isVf g = true → isFunc h = true → isMbox k = true → (part b g).st = .running →
      (part b g).pausing = some w →
      (allStopped b g = true → Runs (.pauseComplete g) s fun t' =>
        (part t' g).st = .paused ∧ (part t' g).pausing = none ∧ (part t' g).halted = none ∧
        (∀ x, (part b g).halted = some x → x.1 < 256 → LogsOne b t' x.1) ∧
        ((part b g).halted = none → t'.campion = b.campion) ∧
        (∀ c ∈ coresOf b g, seqState t' c = if seqState b c = seqRunning then seqStopped else seqState b c) ∧
        (w = .command h k → (request b h k).isSome = true → Responded b t' h k stOk 0 []) ∧ t'.cores = b.cores ∧
        others t' g ∧ t'.mem = b.mem) ∧
      (allStopped b g = false → w ≠ .fence → pauseLimit ≤ (part b g).pauseBeats → Runs (.pauseTimeout g) s fun t' =>
        (part t' g).st = .faulted ∧ (part t' g).pausing = none ∧
        (w = .command h k → (request b h k).isSome = true → Responded b t' h k stTimeout 0 []) ∧
        ((part b g).fault = none → (part t' g).fault = some { cause := 2, lcore := 0, pc := 0 }) ∧
        others t' g ∧ t'.mem = b.mem)) ∧
    (Accepts b f m cmdResume r → haltActive b = true → Runs (.resume f m) s fun t' => OnlyResponded b t' f m stConflict 5 []) ∧
    (Accepts b f m cmdResume r → haltActive b = false → runOver b t = false → (part b t).taint = none →
      (part b t).poisonedBy = none → (coresOf b t).Nodup →
      let go := (part b t).started || decide ((part b t).startBeat ≤ beat b)
      let due (c x : Nat) : Prop := go = true ∧ ctxActive b c x = true ∧ ctxWaiting b c x = true ∧
        (ctxOf (core b c) x).waiting = false ∧ ctxMoves (core b c) x = []
      (∀ c ∈ coresOf b t, ∀ x < 4, due c x → ∃ i, instrAt b c x = some i ∧ yOp i = yFence) →
      Runs (.resume f m) s fun t' =>
        Responded b t' f m stOk 0 [] ∧ (part t' t).st = .running ∧ (part t' t).started = go ∧ (part t' t).pausing = none ∧
        (go = true → ∀ c ∈ coresOf b t, seqState t' c =
          if seqState b c = seqLoaded ∨ seqState b c = seqStopped ∧ (core b c).ended = false then seqRunning
          else seqState b c) ∧
        (∀ c ∈ coresOf b t, seqEntry t' c = seqEntry b c ∧ core t' c = { core b c with tlb := [] } ∧
          ∀ x < 4, (due c x → ctxWaiting t' c x = false ∧ ctxPc t' c x = (ctxPc b c x + 1) % 32) ∧
            (¬due c x → rd t' (.strCtx c x) = rd b (.strCtx c x))) ∧ others t' t ∧ t'.mem = b.mem) ∧
    (Accepts b f m cmdStop r → (part b t).pausing ≠ some (.command f m) → Runs (.stop f m) s fun t' =>
      Responded b t' f m stOk 0 [] ∧ (part t' t).st = .loaded ∧ (part t' t).pausing = none ∧ (part t' t).taint = none ∧
      (∀ c ∈ coresOf b t, seqState t' c = seqLoaded ∧ seqEntry t' c = 0 ∧ (core t' c).inv = none ∧ (core t' c).moves = [] ∧
        ∀ x < 4, ctxActive t' c x = false) ∧
      (∀ o ∈ objsOf b t, (obj t' o).queue = [] ∧ (obj t' o).held = []) ∧ (∀ y ∈ t'.syncNet, msgOf b t y = false) ∧
      BytesKept b t' ((coresOf b t).flatMap (coreRuns b)) ∧ others t' t)

/-- CHECKPOINT saves a generation and restores one. NO_RESOURCE of a restore without a variant is the model's reading
(log 55), as are a save that waits for messages on their way, NO_RESOURCE of one with a lost area, and the queued transfers
(log 52). -/
def Obligations.CheckpointsSaveAndRestore : Prop :=
  ∀ (f m : Nat) (r : Bytes) (s : State),
    let b := s.toBlock
    let t := reqTarget r
    let q := part b t
    let transfers (t' : Block) (gen : Nat) (write : Bool) : Prop := ∀ x ∈ q.chunks.take (plotList q.plots).length,
      ∃ y ∈ (lpd t' x.1).queue, y.owner = 0x100 + t ∧ y.addr = chunkAt x + gen % 2 * 2 ^ 29 ∧ y.len = 536576000 ∧ y.write = write
    (Accepts b f m (cmdCheckpoint [.loaded, .paused]) r → leAt (reqPayload r) 0 1 = 0 →
      let k := snapshot b t q.nextGen
      (b.syncNet.any (msgOf b t) = true → Runs (.checkpointSave f m) s fun t' =>
        request t' f m = some r ∧ t'.toUnits = { b.toUnits with funcs := t'.funcs, service := t'.service } ∧
        RegsKept b t' [] ∧ t'.mem = b.mem) ∧
      (b.syncNet.any (msgOf b t) = false → (putCkpt q.ckpts k).isSome = true → memoryLost b q = true →
        Runs (.checkpointSave f m) s fun t' => OnlyResponded b t' f m stNoResource 0 []) ∧
      (∀ l, putCkpt q.ckpts k = some l → b.syncNet.any (msgOf b t) = false → memoryLost b q = false →
        Runs (.checkpointSave f m) s fun t' =>
        Responded b t' f m stOk 0 (leBytes k.gen 4 ++ leBytes k.valid.toNat 1) ∧
        part t' t = { q with ckpts := l, nextGen := q.nextGen + 1 } ∧ k ∈ l ∧ (q.ckpts.length ≤ 2 → l.length ≤ 2) ∧
        (∀ j ∈ l, j = k ∨ j ∈ q.ckpts) ∧ transfers t' k.gen true ∧ RegsKept b t' (responseWindows f m) ∧ (∀ g, g ≠ t → part t' g = part b g) ∧
        t'.cores = b.cores ∧ t'.mem = b.mem) ∧
      (putCkpt q.ckpts k = none → b.syncNet.any (msgOf b t) = false → Runs (.checkpointSave f m) s fun t' =>
        OnlyResponded b t' f m stNoResource 1 [])) ∧
    (Accepts b f m (cmdCheckpoint [.loaded, .paused, .faulted]) r → leAt (reqPayload r) 0 1 = 1 →
      let found := q.ckpts.find? fun k => k.valid && k.gen == leAt (reqPayload r) 4 4
      (found = none → Runs (.checkpointRestore f m) s fun t' => OnlyResponded b t' f m stBadArg 0 []) ∧
      (∀ k im v, found = some k → q.image = some im → validVariant b t im = some v → memoryLost b q = false →
        let cs := physCores (plotList q.plots) ((im.place[v]?).getD [])
        cs.Nodup → (coresOf b t).Nodup → Runs (.checkpointRestore f m) s fun t' =>
          Responded b t' f m stOk 0 [] ∧ (part t' t).st = .paused ∧ (part t' t).variant = v ∧
          (part t' t).beatsRun = k.beatsRun ∧ (part t' t).image = some im ∧ (part t' t).ckpts = q.ckpts ∧
          transfers t' k.gen false ∧
          (dir t' t).qidx = k.qidx ∧ (dir t' t).pages = (dir b t).pages ∧ (∀ g, g ≠ t → part t' g = part b g) ∧
          (∀ x ∈ cs.zip k.cores, (core t' x.1).steps = x.2.core.steps ∧ (core t' x.1).progs = x.2.core.progs ∧
            (core t' x.1).loops = x.2.core.loops ∧ (core t' x.1).ctxs = x.2.core.ctxs ∧ (core t' x.1).inv = none ∧
            (core t' x.1).moves = []) ∧
          (∀ c, c ∉ cs → c ∉ coresOf b t → core t' c = core b c)) ∧
      (∀ k, found = some k → (q.image.bind (validVariant b t) = none ∨ memoryLost b q = true) →
        Runs (.checkpointRestore f m) s fun t' => OnlyResponded b t' f m stNoResource 0 []))

/-- A host access reads or writes one register by its access codes, or bytes it may reach, and nothing else. The offsets of
the configuration words are the model's choice (log 22), event code 0x21 of a discarded access its reading (log 18). -/
def Obligations.HostAccessesFollowTheAccessCodes : Prop :=
  ∀ (f : Nat) (s : State), isFunc f = true →
    let b := s.toBlock
    (answers b f = false → ∀ (off n bar len : Nat) (v : DWord) (data : Option Bytes),
      Runs (.registerWrite f off n v) s (· = b) ∧ Runs (.registerReadClear f off n) s (· = b) ∧
      Runs (.hostBarAccess f bar off len data) s (· = b)) ∧
    (answers b f = true →
      (∀ (off n : Nat) (r : Reg) (v : DWord), off < cfgBase → bar0Reg b f off n = some r →
        let t1 := (Act.setReg r (wordAfter b r v.toNat)).run b
        (r.plain = true → reaches b f r = true → mayWrite b t1 r = true → allocBreaks b r v.toNat = false →
          Runs (.registerWrite f off n v) s fun t =>
          (∀ g ∈ r.fields, bitsOf (rd t r) g.hi g.lo = match g.acc with
            | .rw => bitsOf v.toNat g.hi g.lo
            | .w1c => (BitVec.ofNat 64 (fld b r g.hi g.lo) &&& ~~~(BitVec.ofNat 64 (bitsOf v.toNat g.hi g.lo))).toNat
            | _ => fld b r g.hi g.lo) ∧
          RegsKept b t [r.window] ∧ t.mem = b.mem ∧ t.toUnits = b.toUnits) ∧
        (reaches b f r = true → (mayWrite b t1 r = false ∨ allocBreaks b r v.toNat = true) →
          Runs (.registerWrite f off n v) s fun t => OnlyLogged b t 0x21) ∧
        (∀ m, r = .mbxMb f m → isMbox m = true → v.getLsbD 0 = true → flag b (.mbxMb f m) 1 = false →
          flag b (.mbxFunc f) 25 = false → modState b ≠ modBooting → Runs (.registerWrite f off n v) s fun t =>
            smGet (func t f).latched m = some { bytes := requestBytes b f m, order := b.service.accepted, begun := false } ∧
            t.service.accepted = b.service.accepted + 1 ∧ flag t (.mbxMb f m) 1 = true ∧ flag t (.mbxMb f m) 2 = false ∧
            RegsKept b t [(Reg.mbxMb f m).window] ∧ (∀ g, g ≠ f → func t g = func b g) ∧ t.mem = b.mem ∧ t.parts = b.parts) ∧
        (Runs (.registerReadClear f off n) s fun t =>
          t.outbox = b.outbox ++ [.readData (leBytes (rd b r) n)] ∧
          (∀ g ∈ r.fields, bitsOf (rd t r) g.hi g.lo = if g.acc = .rc then 0 else fld b r g.hi g.lo) ∧
          RegsKept b t [r.window] ∧ t.mem = b.mem ∧ t.toUnits = { b.toUnits with outbox := t.outbox })) ∧
      (∀ (off n : Nat) (v : DWord), off < cfgBase → bar0Reg b f off n = none →
        Runs (.registerWrite f off n v) s (OnlyLogged b · 0x21) ∧
        Runs (.registerReadClear f off n) s fun t => OnlyLogged b t 0x21 ∧
          ∃ l, t.outbox = b.outbox ++ [.readData (List.replicate n 0xFF)] ++ l) ∧
      (∀ (off len a : Nat), bar4Addr b f off len = some a → 1 ≤ len → off + len ≤ 2 ^ 36 →
        (Runs (.hostBarAccess f 2 off len none) s fun t =>
          t.outbox = b.outbox ++ [.readData (bytesAt b a len)] ∧ RegsKept b t [] ∧ t.mem = b.mem) ∧
        (∀ d, d.length = len → (f = 0 ∨ (part b f).st ≠ .running) → Runs (.hostBarAccess f 2 off len (some d)) s fun t =>
          bytesAt t a len = d ∧ BytesKept b t [(a, len)] ∧ RegsKept b t [] ∧ t.toUnits = b.toUnits)) ∧
      (∀ (bar off len : Nat) (d : Bytes), (bar = 1 ∨ bar = 2) → 1 ≤ len → off + len ≤ 2 ^ 36 → d.length = len → f ≠ 0 →
        (part b f).st = .running → Runs (.hostBarAccess f bar off len (some d)) s (OnlyLogged b · 0x21)) ∧
      (∀ (off len a : Nat) (used : List Mapping), 1 ≤ len → off + len ≤ 2 ^ 36 → holdsData b a = true → areaOf b a len = [] →
        let walks := [(Reg.xltWalks f).window]
        let queued (t : Block) (write : Bool) : Prop := ∀ x < len, ∃ q ∈ (hostq t (ctlEdge (ctlOf a))).reqs,
          q.f = f ∧ q.write = write ∧ q.addr ≤ a + x ∧ a + x < q.addr + 64
        (∀ d : Bytes, bar2Segs b f off len true = some ([(a, len)], used) → d.length = len →
          (f = 0 ∨ (part b f).st ≠ .running) → Runs (.hostBarAccess f 1 off len (some d)) s fun t =>
            bytesAt t a len = d ∧ BytesKept b t [(a, len)] ∧ queued t true ∧ RegsKept b t walks ∧ t.parts = b.parts) ∧
        (bar2Segs b f off len false = some ([(a, len)], used) → badIn b [(a, len)] = [] →
          Runs (.hostBarAccess f 1 off len none) s fun t =>
            t.outbox = b.outbox ++ [.readData (bytesAt b a len)] ∧ queued t false ∧ t.mem = b.mem ∧ RegsKept b t walks ∧
            t.parts = b.parts)) ∧
      (∀ v : DWord, Runs (.registerWrite f (cfgBase + 0x44) 4 v) s fun t =>
        configRead t f (cfgBase + 0x44) % 4 = (if v.toNat % 4 = 0 ∨ v.toNat % 4 = 3 then v.toNat % 4
          else configRead b f (cfgBase + 0x44) % 4) ∧ RegsKept b t [] ∧ t.mem = b.mem) ∧
      (f = 0 → ∀ i < 6, Runs (.registerWrite 0 (cfgBase + 0x10 + 4 * i) 4 (2 ^ 32 - 1)) s fun t =>
        configRead t 0 (cfgBase + 0x10 + 4 * i) = natAt [4, 2 ^ 32 - 1, 12, 2 ^ 32 - 16, 12, 2 ^ 32 - 16] i) ∧
      (f = 0 → configRead b 0 (cfgBase + 0x110) / 2 ^ 16 = 16 ∧ configRead b 0 (cfgBase + 0x118) = 2 ^ 16 + 1) ∧
      (∀ v : Word, f = 0 → v.getLsbD 31 = true → Runs (.pwrBootClr f v) s fun t =>
        fld t .pwrBoot 11 10 = 0 ∧ fld t .pwrBoot 17 16 = fld b .pwrBoot 17 16 ∧ RegsKept b t [Reg.pwrBoot.window] ∧
        t.mem = b.mem ∧ t.toUnits = b.toUnits) ∧
      (∀ v : Word, f ≠ 0 → Runs (.pwrBootClr f v) s (OnlyLogged b · 0x21)))

/-- R365: a vector goes out once per completion and once per event that was not pending; a masked one is held. -/
def Obligations.VectorsGoOutOnce : Prop :=
  ∀ (f v : Nat) (s : State), isFunc f = true →
    let b := s.toBlock
    let enabled := (func b f).msixEn
    let masked (x : Nat) : Bool := flag b (.msixTable f (4 * x + 3)) 0
    (∀ m status detail payload, isMbox m = true → (request b f m).isSome = true → payload.length ≤ 4064 →
      let t := (Act.respond f m status detail payload).run b
      t.outbox = b.outbox ++ (if enabled && !masked m then [.msix f m] else []) ∧
      (enabled = true → masked m = true → flag t (.msixPba f) m = true)) ∧
    (∀ i < 4, flag b (.mbxEvent f) i = true → (Act.event f i).run b = b) ∧
    (∀ i < 4, flag b (.mbxEvent f) i = false →
      let t := (Act.event f i).run b
      flag t (.mbxEvent f) i = true ∧
      t.outbox = b.outbox ++ (if enabled && !masked (4 + i) then [.msix f (4 + i)] else []) ∧
      (enabled = true → masked (4 + i) = true → flag t (.msixPba f) (4 + i) = true)) ∧
    (answers b f = true → enabled = false →
      let due (x : Nat) : Bool := (decide (4 ≤ x) && decide (x < 8) && flag b (.mbxEvent f) (x - 4)) || flag b (.msixPba f) x
      Runs (.msixEnable f) s fun t =>
        (func t f).msixEn = true ∧
        t.outbox = b.outbox ++ ((List.range 64).filter fun x => due x && !masked x).map (.msix f) ∧
        (∀ x < 64, flag t (.msixPba f) x = (due x && masked x)) ∧ RegsKept b t [(Reg.msixPba f).window] ∧ t.mem = b.mem ∧
        (∀ g, g ≠ f → func t g = func b g) ∧ t.parts = b.parts) ∧
    (answers b f = true → v < 64 → Runs (.msixUnmask f v) s fun t =>
      flag t (.msixTable f (4 * v + 3)) 0 = false ∧
      t.outbox = b.outbox ++ (if enabled && flag b (.msixPba f) v then [.msix f v] else []) ∧
      (enabled = true → flag t (.msixPba f) v = false) ∧
      (∀ x < 64, x ≠ v → flag t (.msixPba f) x = flag b (.msixPba f) x) ∧
      RegsKept b t [(Reg.msixTable f (4 * v + 3)).window, (Reg.msixPba f).window] ∧ t.mem = b.mem ∧ t.funcs = b.funcs)

/-- Functions appear and are reset; PTM and the UCIe modules follow their commands. That NumVFs holds while VF Enable is set,
and that a hot reset clears PTM Enable, is PRESUMED of PCIe (log 13). -/
def Obligations.FunctionsAreEnabledAndReset : Prop :=
  ∀ s : State,
    let b := s.toBlock
    (∀ n, answers b 0 = true → b.vfs = 0 → n ≤ 16 → Runs (.vfEnable n) s fun t =>
      t.toUnits = { b.toUnits with vfs := n } ∧ RegsKept b t [] ∧ t.mem = b.mem) ∧
    (∀ n, (answers b 0 = false ∨ b.vfs ≠ 0 ∨ 16 < n) → Runs (.vfEnable n) s (· = b)) ∧
    (answers b 0 = true → b.ptm = true →
      (Runs .ptmRequest s fun t => t.outbox = b.outbox ++ [.ptmRequest] ∧ RegsKept b t [] ∧ t.mem = b.mem) ∧
      (∀ utc : DWord, Runs (.ptmResponse utc) s fun t =>
        (rd t .chkUtcOffset + 160 * beat b) % 2 ^ 64 = utc.toNat ∧ RegsKept b t [Reg.chkUtcOffset.window] ∧
        t.mem = b.mem ∧ t.toUnits = b.toUnits)) ∧
    (∀ ok0 ok1 at32 : Bool, b.power.phase = .locked →
      let slow := (ok0 && flag b (.uciCfg 0) 0) || (ok1 && flag b (.uciCfg 1) 0)
      let rate := if at32 && !slow then 2 else 1
      Runs (.ucieLinkTraining ok0 ok1 at32) s fun t =>
        (∀ i < 2, let ok := if i = 0 then ok0 else ok1
          fld t (.uciStatus i) 31 28 = (if ok then 2 else 0) ∧ fld t (.uciStatus i) 27 24 = (if ok then rate else 0) ∧
          inLink t i = ok ∧
          rd t (.uciDowns i) = if inLink b i = true ∧ ok = false then satAdd (rd b (.uciDowns i)) 1 32 else rd b (.uciDowns i)) ∧
        RegsKept b t [(Reg.uciStatus 0).window, (Reg.uciStatus 1).window, (Reg.uciDowns 0).window, (Reg.uciDowns 1).window] ∧
        t.mem = b.mem ∧ t.toUnits = b.toUnits) ∧
    (∀ i, i < 2 → inLink b i = true → Runs (.ucieLaneFailure i) s fun t =>
      rd t (.uciStatus i) = 0 ∧ rd t (.uciDowns i) = satAdd (rd b (.uciDowns i)) 1 32 ∧
      RegsKept b t [(Reg.uciStatus i).window, (Reg.uciDowns i).window] ∧ t.mem = b.mem ∧ t.toUnits = b.toUnits) ∧
    (∀ f, isVf f = true → (part b f).pausing = none →
      let plots := plotList (part b f).plots
      let cleared (t : Block) : Prop := (∀ c, plotOf c ∈ plots → core t c = CoreState.reset) ∧
        (∀ a, scratchOf plots a = true → byteAt t a = 0) ∧ dir t f = DirFn.reset ∧ (∀ g, g ≠ f → part t g = part b g) ∧
        (∀ g, g ≠ f → func t g = func b g) ∧ (∀ h x, exportOf? t h = some x → x.func ≠ f) ∧ (part t f).plots = (part b f).plots
      (f ≤ b.vfs → zeroBusy b f = false → Runs (.flr f) s fun t =>
        flag t (.mbxFunc f) 25 = true ∧ func t f = Func.reset ∧ (∀ m < 4, rd t (.mbxMb f m) = 0) ∧
        (∀ w < 0x2000, rd t (.mbxPage f w) = 0) ∧ ((part b f).st ≠ .empty → cleared t ∧ (part t f).maps = [])) ∧
      (flag b (.mbxFunc f) 25 = true → zeroBusy b f = false → Runs (.flrComplete f) s fun t =>
        flag t (.mbxFunc f) 25 = false ∧ ((part b f).st ≠ .empty → cleared t ∧ (part t f).st = .ready ∧
          (part t f).image = none ∧ (∀ a, inAny (part b f).chunks a = true → byteAt t a = 0) ∧
          (part t f).maps = (dataWindows (part t f)).foldl (mapPage (tablePlace f (part t f))) []))) ∧
    (∀ x : Bool,
      let gone (t : Block) : Prop := (∀ f, isVf f = true → (part t f).st = .empty) ∧ t.vfs = 0 ∧
        (∀ f ≤ 16, func t f = Func.reset) ∧ (∀ f, isVf f = true → flag t (.mbxFunc f) 25 = false)
      (Runs (.flrFunction0 x) s fun t => gone t ∧ t.ptm = b.ptm) ∧ (Runs (.hotReset x) s fun t => gone t ∧ t.ptm = false))

/-- The module powers up in order, boots, restarts by watchdog, trips and is reset. The precedence of the causes recorded
since the rails were up is the model's reading (log 59), the boots within one command its choice (log 7). -/
def Obligations.ModulePowersUpTripsAndRestarts : Prop :=
  ∀ s : State,
    let b := s.toBlock
    let first (cause : Nat) : Prop := b.power.cause = 0 ∨ cause < b.power.cause
    let blamed (cause : Nat) (t : Block) : Prop := rd t .pwrLastTrip = if first cause then cause else rd b .pwrLastTrip
    let fallen (t : Block) : Prop := ModuleLost b t [] ∧ t.power.bsync = false ∧ fld t .pwrBoot 17 16 = fld b .pwrBoot 17 16 ∧
      bootFails t = (if booting b then b.power.cBefore % 4 else bootFails b)
    let trip (cause bit input : Nat) (t : Block) : Prop :=
      t.power.phase = .standby ∧ blamed cause t ∧ (first cause → t.power.tripInput = some input) ∧
      t.power.trips = (if b.power.trips.contains cause then b.power.trips else b.power.trips ++ [cause]) ∧
      t.power.pmbusStatus = b.power.pmbusStatus ||| BitVec.ofNat 32 (2 ^ bit) ∧ t.outbox = b.outbox ∧
      (railsUp b = true → fallen t) ∧ (railsUp b = false → RegsKept b t [Reg.pwrLastTrip.window] ∧ t.mem = b.mem)
    let level (risen : Bool) : Block := { b with power := { b.power with mrstLow := !risen } }
    (b.power.phase = .off → Runs .powerOn s (· = { b with power := { b.power with phase := .standby } })) ∧
    (b.power.phase = .standby → ∀ stands : Bool,
      let goes := b.power.trips = [] ∧ stands = false ∧ b.power.mrstLow = false ∧ 0 ∉ b.power.refs
      (goes → Runs (.mainRailStart stands) s (· = { b with power := { b.power with phase := .rails, cause := 0 } })) ∧
      (¬goes → Runs (.mainRailStart stands) s (· = b)) ∧
      Runs .undervoltageRestart s (· = { b with power := { b.power with trips := b.power.trips.filter (· != 2) } })) ∧
    (b.power.phase = .rails → b.power.refs = [] →
      let onLock (t : Block) : Prop := rd t .srlBeat = 0 ∧ t.power.phase = .locked ∧ t.power.bsync = true ∧
        ∃ l, t.outbox = b.outbox ++ .bsync :: l
      (Runs (.rootPllLock []) s fun t =>
        onLock t ∧ t.power = { b.power with phase := .locked, bsync := true, stage1 := true } ∧ fld t (.telBoot 0) 31 28 = 1 ∧
        RegsKept b t [Reg.srlBeat.window, Reg.chkSession.window, (Reg.telBoot 0).window] ∧ t.mem = b.mem) ∧
      (∀ (x : BootIn) (l : List BootIn), x.stage1 = false → Runs (.rootPllLock (x :: l)) s fun t =>
        onLock t ∧ t.power = { b.power with phase := .locked, bsync := true, stage1 := false } ∧
        fld t (.telBoot 0) 31 28 = 1 ∧ fld t (.telBoot 0) 15 0 = 5 ∧
        RegsKept b t [Reg.srlBeat.window, Reg.chkSession.window, (Reg.telBoot 0).window] ∧ t.mem = b.mem) ∧
      (∀ (x : BootIn) (l : List BootIn) (k : Nat), x.stage1 = true → x.stage2 = true → x.hangs = 0 → bootFails b < 3 →
        chooseSlot b (bootFails b) = some k → (∃ j < 16, x.trained.contains j = true ∧ isFenced b 7 j = false) →
        let goal := max (arbCount b) (slotSvn (fwSlot b k))
        Runs (.rootPllLock (x :: l)) s fun t =>
          onLock t ∧ fld t .pwrBoot 16 16 = k ∧ fld t .secStatus 2 0 = 7 ∧ (∃ e, t.power.entered = some (k, e) ∧ t.power.harts = List.replicate 4 (.startedAt e) ∧
            ((fwSlot b k).factory = false → e = leNat ((fwSlot b k).bytes 0x1C 4))) ∧
          (∃ r ∈ t.campion.buffer, recDetector r = 0x3A) ∧
          ((∀ n, x.burnt = some n → goal ≤ arbCount b + n) →
            modState t = modOperational ∧ bootFails t = 0 ∧ fld t .pwrBoot 17 17 = k ∧ fld t .secArb 7 0 = goal % 256 ∧
            fld t (.telBoot 0) 31 28 = 15 ∧ t.power.watchdog = false) ∧
          (∀ n, x.burnt = some n → arbCount b + n < goal →
            modState t = modBooting ∧ bootFails t = bootFails b + 1 ∧ fld t .secArb 7 0 = (arbCount b + n) % 256 ∧
            t.power.watchdog = true)) ∧
      (∀ xs : List BootIn, xs.length = 4 → (∀ x ∈ xs, x.stage1 = true ∧ x.stage2 = true) → bootFails b = 0 →
        (∀ c < 3, chooseSlot b c = none) → Runs (.rootPllLock xs) s fun t =>
          onLock t ∧ modState t = modMinimal ∧ bootFails t = 3 ∧ fld t .pwrBootRsn 31 16 = noSlotReason b ∧
          fld t .pwrBoot 16 16 = 0 ∧ t.power.watchdog = false ∧ t.parts = [])) ∧
    (b.power.refs = [] → booting b = true → b.power.stage1 = false → Runs (.watchdogExpiry []) s fun t =>
      ModuleLost b t [.srlBeat, .telBoot 0, .chkSession, .pwrBootRsn] ∧ rd t .srlBeat = rd b .srlBeat ∧
      rd t .pwrLastTrip = rd b .pwrLastTrip ∧ rd t .pwrBootRsn = 3 * 2 ^ 16 + fld b .pwrBootRsn 31 16 ∧
      rd t .pwrBoot = rd b .pwrBoot ∧ fld t (.telBoot 0) 31 28 = 1 ∧ t.power.phase = .locked ∧ t.power.stage1 = true ∧
      t.power.watchdog = false) ∧
    (∀ (x : BootIn) (l : List BootIn), b.power.stage1 = true → x.stage1 = false → Runs (.watchdogExpiry (x :: l)) s fun t =>
      fld t (.telBoot 0) 15 0 = 5 ∧ t.power = { b.power with stage1 := false } ∧ RegsKept b t [(Reg.telBoot 0).window] ∧
      t.mem = b.mem) ∧
    (∀ l, booting b = false → b.power.stage1 = false → Runs (.watchdogExpiry l) s (· = b)) ∧
    (b.power.phase ≠ .off →
      Runs .undervoltageTrip s (trip 2 4 0x100) ∧ Runs .overvoltageTrip s (trip 1 7 0x100) ∧
      (∀ n < 90, Runs (.hardwareTrip n) s (trip 3 15 n)) ∧
      (∀ ns < 1000, ∀ risen : Bool, Runs (.mrstN ns risen) s (· = level risen)) ∧
      (∀ ns, 1000 ≤ ns → ns < 10000 → Runs (.mrstN ns false) s (· = level false) ∧
        Runs (.mrstN ns true) s fun t => t = { level true with freeCtr := b.freeCtr + 1 } ∨
          (railsUp b = true ∧ fallen t ∧ t.power.phase = .standby ∧ blamed 4 t)) ∧
      (∀ ns, 10000 ≤ ns → ∀ risen : Bool, Runs (.mrstN ns risen) s fun t =>
        t.power.trips = b.power.trips.filter (· == 2) ∧ t.power.mrstLow = !risen ∧ t.power.phase = .standby ∧
        (railsUp b = true → fallen t ∧ blamed 4 t) ∧ (railsUp b = false → RegsKept b t [] ∧ t.mem = b.mem)) ∧
      Runs .standbyDomainOff s fun t =>
        t.power.phase = .off ∧ t.power.trips = [] ∧ t.power.cause = 0 ∧ t.power.pmbusStatus = 0 ∧
        (railsUp b = true → fallen t ∧ blamed 2 t) ∧ (railsUp b = false → RegsKept b t [] ∧ t.mem = b.mem))

/-- Each monitored condition sets its bits, records its beginning and acts; a halt begins to pause every running
partition. That a warning ends by the row that began it is the model's reading (log 59). -/
def Obligations.ConditionsAreReportedAndHalt : Prop :=
  ∀ s : State,
    let b := s.toBlock
    let quiet (t : Block) : Prop := t.campion = b.campion
    let lost (n : Nat) : List Nat := if b.power.refs.contains n then b.power.refs else b.power.refs ++ [n]
    let shown := ∀ n ∈ b.power.refs, n < 3 → flag b .pwrInStatus (refBit n) = true
    let sensed (n : Nat) (v : BitVec 16) : Nat × Block :=
      let b1 := (Act.sense n v).run b
      (if outOfRange v = false ∧ b.power.failed.contains n = false then v.toNat else sensorReading b1 n, b1)
    let senses (n : Nat) (v : BitVec 16) (t : Block) : Prop :=
      (b.power.failed.contains n = true → rd t (.pwrSensor n) = rd b (.pwrSensor n)) ∧
      (b.power.failed.contains n = false → outOfRange v = false → rd t (.pwrSensor n) = v.toNat) ∧
      (b.power.failed.contains n = false → outOfRange v = true →
        rd t (.pwrSensor n) = 0x8000 ∧ t.power.failed.contains n = true)
    (b.power.phase = .rails → Runs .ref100Lost s (· = { b with power := { b.power with phase := .standby, refs := lost 0 } })) ∧
    (b.power.phase = .standby → Runs .ref100Lost s (· = { b with power := { b.power with refs := lost 0 } })) ∧
    (monitors b = true →
      (∀ v : BitVec 16, 4800 ≤ v.toNat → v.toNat ≤ 6300 → Runs (.supplyWarning v) s fun t =>
        let low := decide (v.toNat < 5000)
        let high := decide (6000 < v.toNat)
        let begins := (low && !flag b .pwrInStatus 7) || (high && !flag b .pwrInStatus 6)
        rd t .pwrVin = v.toNat ∧ flag t .pwrInStatus 7 = low ∧ flag t .pwrInStatus 6 = high ∧
        (begins = true → LogsOne b t 0x36 ∧ flag t .pwrInLatch (if low then 7 else 6) = true) ∧ (begins = false → quiet t) ∧
        OnlyMonitored b t [Reg.pwrVin.window]) ∧
      (flag b .pwrInStatus 5 = false → shown → Runs .ref100Lost s fun t =>
        flag t .pwrInStatus 5 = true ∧ flag t .pwrInLatch 5 = true ∧
        t.power = { b.power with holdover := true, refs := lost 0 } ∧
        LogsOne b t 0x37 ∧ OnlyMonitored b t []) ∧
      (∀ n < 2, refLost b n = false → shown → Runs (.ref156Lost n) s fun t =>
        t.power = { b.power with refs := lost (n + 1) } ∧ flag t .pwrInStatus (3 + n) = true ∧ flag t .pwrInLatch (3 + n) = true ∧ LogsOne b t 0x37 ∧
        t.campion.hist = b.campion.hist ∧ t.mem = b.mem ∧ t.cores = b.cores ∧ t.parts = b.parts ∧
        (∀ p < 16, portState t p = if edgeOf p = n ∧ portState b p ≠ lnkOff then lnkDown else portState b p) ∧
        RegsKept b t (monitorWindows ++ (List.range 16).map fun p => (Reg.lnkStatus p).window) ∧
        ∀ p, (port t p).laneFails = (port b p).laneFails ∧ (port t p).func = (port b p).func) ∧
      (∀ n < 3, flag b .pwrInStatus (refBit n) = true → Runs (.referenceRestored n) s fun t =>
        flag t .pwrInStatus (refBit n) = false ∧ rd t .pwrInLatch = rd b .pwrInLatch ∧ LogsOne b t 0x37 ∧
        t.power = { b.power with
          refs := b.power.refs.filter (· != n), holdover := if n = 0 then false else b.power.holdover } ∧
        OnlyMonitored b t []) ∧
      (∀ n < 90, ∀ v : BitVec 16,
        let hot := decide (warnAt (sensed n v).2 n ≤ signedOf (sensed n v).1 16)
        let was := b.power.hotSensors.contains n
        Runs (.temperatureWarning n v) s fun t =>
          senses n v t ∧ t.power.hotSensors = (if hot && !was then b.power.hotSensors ++ [n]
            else if !hot && was then b.power.hotSensors.filter (fun i => i != n) else b.power.hotSensors) ∧
          (hot = true → was = false → flag t .pwrInStatus 0 = true ∧ flag t .pwrInLatch 0 = true ∧ LogsOne b t 0x39) ∧
          ((hot && !was) = false → quiet t ∧ rd t .pwrInLatch = rd b .pwrInLatch) ∧
          (hot = false → was = true → (flag t .pwrInStatus 0 = true ↔ flag b .pwrInStatus 0 = true ∧ t.power.hotSensors ≠ [])) ∧
          OnlyMonitored b t [(Reg.pwrSensor n).window]) ∧
      (∀ n < 90, ∀ v : BitVec 16, haltAt (sensed n v).2 n ≤ signedOf (sensed n v).1 16 →
        b.power.haltSensors.contains n = false → Runs (.thermalHalt n v) s fun t =>
          HaltBegins b t 0x39 n (sensed n v).1 ∧ senses n v t ∧ t.power.haltSensors = b.power.haltSensors ++ [n] ∧ quiet t ∧
          RegsKept b t ((Reg.pwrSensor n).window :: monitorWindows) ∧ t.mem = b.mem ∧ t.cores = b.cores) ∧
      (haltActive b = true →
        let left := b.power.haltSensors.filter (stillHot b)
        let cool := b.power.haltCoolant && coolantBad b
        Runs .thermalHaltEnd s fun t =>
          t.power.haltSensors = left ∧ t.power.haltCoolant = cool ∧ haltActive t = !(left.isEmpty && !cool) ∧
          t.power.halt = (if left.isEmpty && !cool then none else b.power.halt) ∧ quiet t ∧ t.parts = b.parts ∧
          OnlyMonitored b t []) ∧
      (∀ i q : BitVec 16,
        let cold := decide (i.toInt < 240) || decide (640 < i.toInt)
        let slow := decide (q.toNat < 1800)
        Runs (.coolantWarning i q) s fun t =>
          rd t .pwrFlow = q.toNat ∧ flag t .pwrInStatus 1 = slow ∧
          (outOfRange i = false → fld t .pwrCool 31 16 = i.toNat ∧ flag t .pwrInStatus 2 = cold) ∧
          (outOfRange i = true → t.power.failed.contains 90 = true ∧ fld t .pwrCool 31 16 = fld b .pwrCool 31 16 ∧
            flag t .pwrInStatus 2 = flag b .pwrInStatus 2) ∧
          (let n := (!outOfRange i && cold && !flag b .pwrInStatus 2).toNat + (slow && !flag b .pwrInStatus 1).toNat
           b.campion.buffer.length < 4095 → t.campion.buffer.length = b.campion.buffer.length + n ∧
            (n ≠ 0 → ∃ r ∈ t.campion.buffer, recDetector r = 0x38)) ∧
          OnlyMonitored b t [Reg.pwrCool.window, Reg.pwrFlow.window, (Reg.pwrSensor 90).window]) ∧
      (∀ i q : BitVec 16, ∀ failed : Bool, b.power.haltCoolant = false →
        let hot := !outOfRange i && decide (720 < i.toInt)
        let both := failed || (b.power.failed.contains 90 && b.power.failed.contains 91)
        (hot = true ∨ q.toNat < 900 ∨ both = true) → Runs (.coolantHalt i q failed) s fun t =>
          (∃ n v, HaltBegins b t 0x38 n v ∧ (both = true → n = 90 ∧ v = 0x8000) ∧
            (both = false → hot = true → n = 90 ∧ v = i.toNat) ∧ (both = false → hot = false → v = q.toNat)) ∧
          t.power.haltCoolant = true ∧ rd t .pwrFlow = q.toNat ∧
          fld t .pwrCool 31 16 = (if outOfRange i then fld b .pwrCool 31 16 else i.toNat) ∧
          (∀ n ∈ [90, 91], both = true → t.power.failed.contains n = true ∧
            (b.power.failed.contains n = false → rd t (.pwrSensor n) = 0x8000)) ∧
          quiet t ∧ t.mem = b.mem ∧ t.cores = b.cores) ∧
      (∀ n < 92, b.power.failed.contains n = false → Runs (.sensorFailure n) s fun t =>
        rd t (.pwrSensor n) = 0x8000 ∧ t.power = { b.power with failed := b.power.failed ++ [n] } ∧ quiet t ∧
        OnlyMonitored b t [(Reg.pwrSensor n).window]))

/-- The PMBus and I3C targets answer. -/
def Obligations.SidebandTargetsAnswer : Prop :=
  ∀ s : State,
    let b := s.toBlock
    let answer (i : Instr) (bs : Bytes) : Prop := Runs i s fun t => OnlyReplied b t (.reply bs)
    (pmbus b = true →
      (Runs .clearFaults s fun t => t = { b with power := { b.power with pmbusStatus := 0 } } ∧
        alertLow t = (rd b .pwrInLatch != 0)) ∧
      answer .statusWord (leBytes (statusWord b) 2) ∧ answer .statusInput (leBytes (b.power.pmbusStatus.toNat % 256) 1) ∧
      answer .statusTemperature (leBytes (b.power.pmbusStatus.toNat / 256 % 256) 1) ∧
      (∀ bs, (∃ i ∈ [Instr.readVin, .readIin, .readPin, .readTemperature1, .readTemperature2],
        ∃ t : State, exec i s = .next t ∧ t.outbox = b.outbox ++ [.reply bs]) → bs.length = 2) ∧
      (b.power.phase = .locked →
        answer .readVin (leBytes (linear11 (fld b .pwrVin 15 0) 100) 2) ∧
        answer .readIin (leBytes (linear11 (fld b .pwrIin 15 0) 100) 2) ∧
        answer .readPin (leBytes (linear11 (fld b .pwrPin 15 0) 1) 2) ∧
        answer .readTemperature2 (leBytes (linear11 (inletNow b) 16) 2) ∧
        ∃ j < 4, (∀ i < 4, signedOf (fld b (.pwrSensor (86 + i)) 15 0) 16 ≤ signedOf (fld b (.pwrSensor (86 + j)) 15 0) 16) ∧
          answer .readTemperature1 (leBytes (linear11 (signedOf (fld b (.pwrSensor (86 + j)) 15 0) 16) 16) 2)) ∧
      answer .pmbusRevision [0x33] ∧ answer .mfrId [8, 0x43, 0x45, 0x4C, 0x4E, 0x49, 0x4E, 0x55, 0x4D] ∧
      answer .mfrModel [6, 0x57, 0x52, 0x4E, 0x2D, 0x42, 0x33] ∧
      (∃ d : Bytes, d.length = 16 ∧ (∀ i < 16, natAt (d.map (·.toNat)) i =
          (let h := rd b .srlSerial / 16 ^ (15 - i) % 16; if h < 10 then 48 + h else 55 + h)) ∧ answer .mfrSerial (16 :: d)) ∧
      (∀ k, k ∉ pmbSupported → Runs (.pmbusUnsupportedCommand k) s fun t => OnlyReplied b t .nack)) ∧
    Runs .pmbusSclTimeout s (· = { b with power := { b.power with pmbusOpen := false } }) ∧
    Runs .i3cIdleTimeout s (· = { b with power := { b.power with i3cOpen := false } }) ∧
    (i3cUp b = true →
      (∀ d : BitVec 7, b.power.i3cAddr = none →
        Runs (.setdasa 0x4A d) s (· = { b with power := { b.power with i3cAddr := some d } })) ∧
      (b.power.i3cAddr.isSome = true →
        (∀ off < 65536, ∃ x ∈ telemetry, answer (.i3cPrivateRead off) (leBytes (rd b x.1 / 2 ^ (32 * x.2)) 4)) ∧
        (∀ off bs, Runs (.i3cPrivateWrite off bs) s fun t => OnlyReplied b t .nack)))

/-- A step is exec of the command at the front of the queue with the queue's rest; an empty queue idles (the model's
choice, log 5). -/
def Obligations.StepIsExecOfTheFrontCommand : Prop :=
  ∀ s : State, (∀ c r, s.pending = c :: r → step s = exec c { s with pending := r }) ∧ (s.pending = [] → step s = .next s)

/-- A command whose units exist completes and leaves the queue; one that names a unit the module does not have stops
with the fault that says so. No command ends in a refusal. -/
def Obligations.WellFormedCommandsComplete : Prop :=
  ∀ (i : Instr) (s : State),
    (i.wf = true → ∃ t, exec i s = .next t ∧ t.pending = s.pending) ∧ (i.wf = false → exec i s = .fault .noSuchUnit)

/-- The state after reset: no partition, function, port, controller or sequencer at work, every register at its reset
value, and the invariants hold. That the standby domain is off is the model's choice (log 11), that memory reads 0 too (log 1);
masked vectors and cleared Bus Master, MSI-X and PTM Enable are PRESUMED of PCIe (log 13). -/
def Obligations.ResetLeavesTheStatedValues : Prop :=
  let b := State.reset.toBlock
  State.reset.pending = [] ∧ b.Inv ∧ b.PlotsApart ∧ (∀ r : Reg, rd b r = r.resetVal.toNat) ∧ (∀ a, byteAt b a = 0) ∧
  b.power.phase = .off ∧ b.vfs = 0 ∧ b.ptm = false ∧
  (∀ f, (part b f).st = .empty ∧ (func b f).bme = false ∧ (func b f).msixEn = false ∧ fld b (.mbxFunc f) 28 26 = 0) ∧
  (∀ p, portState b p = lnkOff) ∧ (∀ k, lpdState b k = 0) ∧
  (∀ c, seqState b c = seqNoImage ∧ core b c = CoreState.reset ∧ fld b (.coreId c) 14 0 = c % 2 ^ 15) ∧
  (∀ f m, flag b (.mbxMb f m) 1 = false ∧ flag b (.mbxMb f m) 2 = false) ∧
  (∀ f v, flag b (.msixTable f (4 * v + 3)) 0 = true)

/-- Every step keeps the canonical form: memory lists no byte an unlisted address reads as, registers are sorted by
address, each one listed belongs to a register, differs from its reset value and fits its width; and a plot in the partition
of one function stays out of every other's (R344). -/
def Obligations.StepKeepsTheCanonicalForm : Prop :=
  ∀ s t : State, s.toBlock.Inv → step s = .next t →
    t.toBlock.Inv ∧ (s.toBlock.PlotsApart → t.toBlock.PlotsApart)

/-- R17: a core's id, its die, row and column, and its module coordinates determine one another. -/
def Obligations.CoresAreNumbered : Prop :=
  (∀ d r c : Nat, d < 8 → r < 40 → c < 80 →
    let k := d * 3200 + r * 80 + c
    let x := d % 2 * 80 + c
    let y := d / 2 * 40 + r
    isCore k = true ∧ k ≤ 25599 ∧ coreXY k = (x, y) ∧ x ≤ 159 ∧ y ≤ 159 ∧ coreAtXY x y = k) ∧
  (∀ k, isCore k = true → ∃ d r c, d < 8 ∧ r < 40 ∧ c < 80 ∧ k = d * 3200 + r * 80 + c) ∧
  (∀ x y : Nat, x ≤ 159 → y ≤ 159 → isCore (coreAtXY x y) = true ∧ coreXY (coreAtXY x y) = (x, y)) ∧
  (∀ k j, isCore k = true → isCore j = true → (plotOf k = plotOf j ↔
    k / 3200 = j / 3200 ∧ k % 3200 / 80 / 20 = j % 3200 / 80 / 20 ∧ k % 80 / 20 = j % 80 / 20))

/-- R60: a NaN element of a WF6a, WF6b or WF4 block sets the block's exponent to 255, and its 16 codes are 0 and count in
NAN. -/
def Obligations.NaNElementsPoisonTheirBlock : Prop :=
  ∀ (m : Mode) (d : Desc) (S : Q) (vs : List OutVal), d.fmt ∈ [5, 6, 7] → d.blk = true → vs.length % 16 = 0 →
    vs.length < 2 ^ 32 →
    let poisoned (j : Nat) : Bool := ((vs.drop (16 * j)).take 16).any fun o => o.v.isNaN
    let out := convRow m d S vs
    out.codes.length = vs.length ∧ out.exps.length = vs.length / 16 ∧
    (∀ j < vs.length / 16, poisoned j = true → natAt out.exps j = 255 ∧ ∀ i < 16, natAt out.codes (16 * j + i) = 0) ∧
    (∀ j < vs.length / 16, poisoned j = false → natAt out.exps j ≤ 254) ∧
    out.tally.cnt.nan = 16 * ((List.range (vs.length / 16)).filter poisoned).length

/-- Converting the value of a code with scale 1 gives the code back, and counts and raises nothing: no bit of a number
format is dropped. -/
def Obligations.ConversionInvertsDecoding : Prop :=
  ∀ (m : Mode) (f code : Nat) (sat : Bool), f < 8 → code < 2 ^ fmtBits f →
    let small := code % 2 ^ (fmtBits f - 1) / 2 ^ fmtFrac f = 0
    let back (v : Val) (sat : Bool) : Prop := convert m f sat v (Q.ofInt 1) = Converted.plain code
    (∀ q, decodeCode f code = .fin q → (isSubnormal f code = true → m = .strict ∨ m = .x32) →
      (m = .profJ → ¬ small) → back (.fin q) sat) ∧
    (∀ n, decodeCode f code = .zero n → m ≠ .profJ → back (.zero n) sat) ∧
    (∀ n, decodeCode f code = .inf n → m ≠ .profJ → back (.inf n) false)
end

