-- ==== Sys2Proof/Laws/State.lean ====
section
/-! SUPPORT. Field by field, what each update of the state leaves and sets: every lemma holds by definition. -/

namespace Sys2Proof.Machine

/-! ## setReg -/

@[simp] theorem Act.setReg_regs (r : Reg) (v : Nat) (b : Block) :
    ((Act.setReg r v).run b).regs = smSet b.regs r.addr (BitVec.ofNat 64 (v % 2 ^ r.width)) r.resetVal := (rfl)
@[simp] theorem Act.setReg_mem (r : Reg) (v : Nat) (b : Block) : ((Act.setReg r v).run b).mem = b.mem := (rfl)
@[simp] theorem Act.setReg_freeCtr (r : Reg) (v : Nat) (b : Block) :
    ((Act.setReg r v).run b).freeCtr = b.freeCtr := (rfl)
@[simp] theorem Act.setReg_outbox (r : Reg) (v : Nat) (b : Block) : ((Act.setReg r v).run b).outbox = b.outbox := (rfl)
@[simp] theorem Act.setReg_power (r : Reg) (v : Nat) (b : Block) : ((Act.setReg r v).run b).power = b.power := (rfl)
@[simp] theorem Act.setReg_cores (r : Reg) (v : Nat) (b : Block) : ((Act.setReg r v).run b).cores = b.cores := (rfl)
@[simp] theorem Act.setReg_objs (r : Reg) (v : Nat) (b : Block) : ((Act.setReg r v).run b).objs = b.objs := (rfl)
@[simp] theorem Act.setReg_syncNet (r : Reg) (v : Nat) (b : Block) :
    ((Act.setReg r v).run b).syncNet = b.syncNet := (rfl)
@[simp] theorem Act.setReg_parts (r : Reg) (v : Nat) (b : Block) : ((Act.setReg r v).run b).parts = b.parts := (rfl)
@[simp] theorem Act.setReg_funcs (r : Reg) (v : Nat) (b : Block) : ((Act.setReg r v).run b).funcs = b.funcs := (rfl)
@[simp] theorem Act.setReg_vfs (r : Reg) (v : Nat) (b : Block) : ((Act.setReg r v).run b).vfs = b.vfs := (rfl)
@[simp] theorem Act.setReg_ptm (r : Reg) (v : Nat) (b : Block) : ((Act.setReg r v).run b).ptm = b.ptm := (rfl)
@[simp] theorem Act.setReg_ports (r : Reg) (v : Nat) (b : Block) : ((Act.setReg r v).run b).ports = b.ports := (rfl)
@[simp] theorem Act.setReg_exports (r : Reg) (v : Nat) (b : Block) :
    ((Act.setReg r v).run b).exports = b.exports := (rfl)
@[simp] theorem Act.setReg_dirs (r : Reg) (v : Nat) (b : Block) : ((Act.setReg r v).run b).dirs = b.dirs := (rfl)
@[simp] theorem Act.setReg_dirReqs (r : Reg) (v : Nat) (b : Block) :
    ((Act.setReg r v).run b).dirReqs = b.dirReqs := (rfl)
@[simp] theorem Act.setReg_campion (r : Reg) (v : Nat) (b : Block) :
    ((Act.setReg r v).run b).campion = b.campion := (rfl)
@[simp] theorem Act.setReg_lpds (r : Reg) (v : Nat) (b : Block) : ((Act.setReg r v).run b).lpds = b.lpds := (rfl)
@[simp] theorem Act.setReg_lock (r : Reg) (v : Nat) (b : Block) : ((Act.setReg r v).run b).lock = b.lock := (rfl)
@[simp] theorem Act.setReg_service (r : Reg) (v : Nat) (b : Block) : ((Act.setReg r v).run b).service = b.service := (rfl)
@[simp] theorem Act.setReg_hostqs (r : Reg) (v : Nat) (b : Block) : ((Act.setReg r v).run b).hostqs = b.hostqs := (rfl)
@[simp] theorem Act.setReg_toUnits (r : Reg) (v : Nat) (b : Block) :
    ((Act.setReg r v).run b).toUnits = b.toUnits := (rfl)

/-! ## resetRegs -/

@[simp] theorem Act.resetRegs_regs (k : Nat → Bool) (b : Block) :
    ((Act.resetRegs k).run b).regs = b.regs.filter (fun e => k e.1) := (rfl)
@[simp] theorem Act.resetRegs_mem (k : Nat → Bool) (b : Block) : ((Act.resetRegs k).run b).mem = b.mem := (rfl)
@[simp] theorem Act.resetRegs_freeCtr (k : Nat → Bool) (b : Block) :
    ((Act.resetRegs k).run b).freeCtr = b.freeCtr := (rfl)
@[simp] theorem Act.resetRegs_outbox (k : Nat → Bool) (b : Block) : ((Act.resetRegs k).run b).outbox = b.outbox := (rfl)
@[simp] theorem Act.resetRegs_power (k : Nat → Bool) (b : Block) : ((Act.resetRegs k).run b).power = b.power := (rfl)
@[simp] theorem Act.resetRegs_cores (k : Nat → Bool) (b : Block) : ((Act.resetRegs k).run b).cores = b.cores := (rfl)
@[simp] theorem Act.resetRegs_objs (k : Nat → Bool) (b : Block) : ((Act.resetRegs k).run b).objs = b.objs := (rfl)
@[simp] theorem Act.resetRegs_syncNet (k : Nat → Bool) (b : Block) :
    ((Act.resetRegs k).run b).syncNet = b.syncNet := (rfl)
@[simp] theorem Act.resetRegs_parts (k : Nat → Bool) (b : Block) : ((Act.resetRegs k).run b).parts = b.parts := (rfl)
@[simp] theorem Act.resetRegs_funcs (k : Nat → Bool) (b : Block) : ((Act.resetRegs k).run b).funcs = b.funcs := (rfl)
@[simp] theorem Act.resetRegs_vfs (k : Nat → Bool) (b : Block) : ((Act.resetRegs k).run b).vfs = b.vfs := (rfl)
@[simp] theorem Act.resetRegs_ptm (k : Nat → Bool) (b : Block) : ((Act.resetRegs k).run b).ptm = b.ptm := (rfl)
@[simp] theorem Act.resetRegs_ports (k : Nat → Bool) (b : Block) : ((Act.resetRegs k).run b).ports = b.ports := (rfl)
@[simp] theorem Act.resetRegs_exports (k : Nat → Bool) (b : Block) :
    ((Act.resetRegs k).run b).exports = b.exports := (rfl)
@[simp] theorem Act.resetRegs_dirs (k : Nat → Bool) (b : Block) : ((Act.resetRegs k).run b).dirs = b.dirs := (rfl)
@[simp] theorem Act.resetRegs_dirReqs (k : Nat → Bool) (b : Block) :
    ((Act.resetRegs k).run b).dirReqs = b.dirReqs := (rfl)
@[simp] theorem Act.resetRegs_campion (k : Nat → Bool) (b : Block) :
    ((Act.resetRegs k).run b).campion = b.campion := (rfl)
@[simp] theorem Act.resetRegs_lpds (k : Nat → Bool) (b : Block) : ((Act.resetRegs k).run b).lpds = b.lpds := (rfl)
@[simp] theorem Act.resetRegs_lock (k : Nat → Bool) (b : Block) : ((Act.resetRegs k).run b).lock = b.lock := (rfl)
@[simp] theorem Act.resetRegs_service (k : Nat → Bool) (b : Block) : ((Act.resetRegs k).run b).service = b.service := (rfl)
@[simp] theorem Act.resetRegs_hostqs (k : Nat → Bool) (b : Block) : ((Act.resetRegs k).run b).hostqs = b.hostqs := (rfl)
@[simp] theorem Act.resetRegs_toUnits (k : Nat → Bool) (b : Block) :
    ((Act.resetRegs k).run b).toUnits = b.toUnits := (rfl)

/-! ## setMem -/

@[simp] theorem Act.setMem_regs (a : Nat) (bs : Bytes) (b : Block) : ((Act.setMem a bs).run b).regs = b.regs := (rfl)
@[simp] theorem Act.setMem_mem (a : Nat) (bs : Bytes) (b : Block) :
    ((Act.setMem a bs).run b).mem = cellsPut b.mem a bs := (rfl)
@[simp] theorem Act.setMem_freeCtr (a : Nat) (bs : Bytes) (b : Block) :
    ((Act.setMem a bs).run b).freeCtr = b.freeCtr := (rfl)
@[simp] theorem Act.setMem_outbox (a : Nat) (bs : Bytes) (b : Block) :
    ((Act.setMem a bs).run b).outbox = b.outbox := (rfl)
@[simp] theorem Act.setMem_power (a : Nat) (bs : Bytes) (b : Block) : ((Act.setMem a bs).run b).power = b.power := (rfl)
@[simp] theorem Act.setMem_cores (a : Nat) (bs : Bytes) (b : Block) : ((Act.setMem a bs).run b).cores = b.cores := (rfl)
@[simp] theorem Act.setMem_objs (a : Nat) (bs : Bytes) (b : Block) : ((Act.setMem a bs).run b).objs = b.objs := (rfl)
@[simp] theorem Act.setMem_syncNet (a : Nat) (bs : Bytes) (b : Block) :
    ((Act.setMem a bs).run b).syncNet = b.syncNet := (rfl)
@[simp] theorem Act.setMem_parts (a : Nat) (bs : Bytes) (b : Block) : ((Act.setMem a bs).run b).parts = b.parts := (rfl)
@[simp] theorem Act.setMem_funcs (a : Nat) (bs : Bytes) (b : Block) : ((Act.setMem a bs).run b).funcs = b.funcs := (rfl)
@[simp] theorem Act.setMem_vfs (a : Nat) (bs : Bytes) (b : Block) : ((Act.setMem a bs).run b).vfs = b.vfs := (rfl)
@[simp] theorem Act.setMem_ptm (a : Nat) (bs : Bytes) (b : Block) : ((Act.setMem a bs).run b).ptm = b.ptm := (rfl)
@[simp] theorem Act.setMem_ports (a : Nat) (bs : Bytes) (b : Block) : ((Act.setMem a bs).run b).ports = b.ports := (rfl)
@[simp] theorem Act.setMem_exports (a : Nat) (bs : Bytes) (b : Block) :
    ((Act.setMem a bs).run b).exports = b.exports := (rfl)
@[simp] theorem Act.setMem_dirs (a : Nat) (bs : Bytes) (b : Block) : ((Act.setMem a bs).run b).dirs = b.dirs := (rfl)
@[simp] theorem Act.setMem_dirReqs (a : Nat) (bs : Bytes) (b : Block) :
    ((Act.setMem a bs).run b).dirReqs = b.dirReqs := (rfl)
@[simp] theorem Act.setMem_campion (a : Nat) (bs : Bytes) (b : Block) :
    ((Act.setMem a bs).run b).campion = b.campion := (rfl)
@[simp] theorem Act.setMem_lpds (a : Nat) (bs : Bytes) (b : Block) : ((Act.setMem a bs).run b).lpds = b.lpds := (rfl)
@[simp] theorem Act.setMem_lock (a : Nat) (bs : Bytes) (b : Block) : ((Act.setMem a bs).run b).lock = b.lock := (rfl)
@[simp] theorem Act.setMem_service (a : Nat) (bs : Bytes) (b : Block) : ((Act.setMem a bs).run b).service = b.service := (rfl)
@[simp] theorem Act.setMem_hostqs (a : Nat) (bs : Bytes) (b : Block) : ((Act.setMem a bs).run b).hostqs = b.hostqs := (rfl)
@[simp] theorem Act.setMem_toUnits (a : Nat) (bs : Bytes) (b : Block) :
    ((Act.setMem a bs).run b).toUnits = b.toUnits := (rfl)

/-! ## resetMem -/

@[simp] theorem Act.resetMem_regs (k : Nat → Bool) (b : Block) : ((Act.resetMem k).run b).regs = b.regs := (rfl)
@[simp] theorem Act.resetMem_mem (k : Nat → Bool) (b : Block) :
    ((Act.resetMem k).run b).mem = b.mem.filter (fun e => k e.1) := (rfl)
@[simp] theorem Act.resetMem_freeCtr (k : Nat → Bool) (b : Block) :
    ((Act.resetMem k).run b).freeCtr = b.freeCtr := (rfl)
@[simp] theorem Act.resetMem_outbox (k : Nat → Bool) (b : Block) : ((Act.resetMem k).run b).outbox = b.outbox := (rfl)
@[simp] theorem Act.resetMem_power (k : Nat → Bool) (b : Block) : ((Act.resetMem k).run b).power = b.power := (rfl)
@[simp] theorem Act.resetMem_cores (k : Nat → Bool) (b : Block) : ((Act.resetMem k).run b).cores = b.cores := (rfl)
@[simp] theorem Act.resetMem_objs (k : Nat → Bool) (b : Block) : ((Act.resetMem k).run b).objs = b.objs := (rfl)
@[simp] theorem Act.resetMem_syncNet (k : Nat → Bool) (b : Block) :
    ((Act.resetMem k).run b).syncNet = b.syncNet := (rfl)
@[simp] theorem Act.resetMem_parts (k : Nat → Bool) (b : Block) : ((Act.resetMem k).run b).parts = b.parts := (rfl)
@[simp] theorem Act.resetMem_funcs (k : Nat → Bool) (b : Block) : ((Act.resetMem k).run b).funcs = b.funcs := (rfl)
@[simp] theorem Act.resetMem_vfs (k : Nat → Bool) (b : Block) : ((Act.resetMem k).run b).vfs = b.vfs := (rfl)
@[simp] theorem Act.resetMem_ptm (k : Nat → Bool) (b : Block) : ((Act.resetMem k).run b).ptm = b.ptm := (rfl)
@[simp] theorem Act.resetMem_ports (k : Nat → Bool) (b : Block) : ((Act.resetMem k).run b).ports = b.ports := (rfl)
@[simp] theorem Act.resetMem_exports (k : Nat → Bool) (b : Block) :
    ((Act.resetMem k).run b).exports = b.exports := (rfl)
@[simp] theorem Act.resetMem_dirs (k : Nat → Bool) (b : Block) : ((Act.resetMem k).run b).dirs = b.dirs := (rfl)
@[simp] theorem Act.resetMem_dirReqs (k : Nat → Bool) (b : Block) :
    ((Act.resetMem k).run b).dirReqs = b.dirReqs := (rfl)
@[simp] theorem Act.resetMem_campion (k : Nat → Bool) (b : Block) :
    ((Act.resetMem k).run b).campion = b.campion := (rfl)
@[simp] theorem Act.resetMem_lpds (k : Nat → Bool) (b : Block) : ((Act.resetMem k).run b).lpds = b.lpds := (rfl)
@[simp] theorem Act.resetMem_lock (k : Nat → Bool) (b : Block) : ((Act.resetMem k).run b).lock = b.lock := (rfl)
@[simp] theorem Act.resetMem_service (k : Nat → Bool) (b : Block) : ((Act.resetMem k).run b).service = b.service := (rfl)
@[simp] theorem Act.resetMem_hostqs (k : Nat → Bool) (b : Block) : ((Act.resetMem k).run b).hostqs = b.hostqs := (rfl)
@[simp] theorem Act.resetMem_toUnits (k : Nat → Bool) (b : Block) :
    ((Act.resetMem k).run b).toUnits = b.toUnits := (rfl)

/-! ## onCore -/

@[simp] theorem Act.onCore_regs (c : Nat) (g : CoreState → CoreState) (b : Block) :
    ((Act.onCore c g).run b).regs = b.regs := (rfl)
@[simp] theorem Act.onCore_mem (c : Nat) (g : CoreState → CoreState) (b : Block) :
    ((Act.onCore c g).run b).mem = b.mem := (rfl)
@[simp] theorem Act.onCore_freeCtr (c : Nat) (g : CoreState → CoreState) (b : Block) :
    ((Act.onCore c g).run b).freeCtr = b.freeCtr := (rfl)
@[simp] theorem Act.onCore_outbox (c : Nat) (g : CoreState → CoreState) (b : Block) :
    ((Act.onCore c g).run b).outbox = b.outbox := (rfl)
@[simp] theorem Act.onCore_power (c : Nat) (g : CoreState → CoreState) (b : Block) :
    ((Act.onCore c g).run b).power = b.power := (rfl)
@[simp] theorem Act.onCore_cores (c : Nat) (g : CoreState → CoreState) (b : Block) :
    ((Act.onCore c g).run b).cores = smPut b.cores c (g (smGetD b.cores c CoreState.reset)) := (rfl)
@[simp] theorem Act.onCore_objs (c : Nat) (g : CoreState → CoreState) (b : Block) :
    ((Act.onCore c g).run b).objs = b.objs := (rfl)
@[simp] theorem Act.onCore_syncNet (c : Nat) (g : CoreState → CoreState) (b : Block) :
    ((Act.onCore c g).run b).syncNet = b.syncNet := (rfl)
@[simp] theorem Act.onCore_parts (c : Nat) (g : CoreState → CoreState) (b : Block) :
    ((Act.onCore c g).run b).parts = b.parts := (rfl)
@[simp] theorem Act.onCore_funcs (c : Nat) (g : CoreState → CoreState) (b : Block) :
    ((Act.onCore c g).run b).funcs = b.funcs := (rfl)
@[simp] theorem Act.onCore_vfs (c : Nat) (g : CoreState → CoreState) (b : Block) :
    ((Act.onCore c g).run b).vfs = b.vfs := (rfl)
@[simp] theorem Act.onCore_ptm (c : Nat) (g : CoreState → CoreState) (b : Block) :
    ((Act.onCore c g).run b).ptm = b.ptm := (rfl)
@[simp] theorem Act.onCore_ports (c : Nat) (g : CoreState → CoreState) (b : Block) :
    ((Act.onCore c g).run b).ports = b.ports := (rfl)
@[simp] theorem Act.onCore_exports (c : Nat) (g : CoreState → CoreState) (b : Block) :
    ((Act.onCore c g).run b).exports = b.exports := (rfl)
@[simp] theorem Act.onCore_dirs (c : Nat) (g : CoreState → CoreState) (b : Block) :
    ((Act.onCore c g).run b).dirs = b.dirs := (rfl)
@[simp] theorem Act.onCore_dirReqs (c : Nat) (g : CoreState → CoreState) (b : Block) :
    ((Act.onCore c g).run b).dirReqs = b.dirReqs := (rfl)
@[simp] theorem Act.onCore_campion (c : Nat) (g : CoreState → CoreState) (b : Block) :
    ((Act.onCore c g).run b).campion = b.campion := (rfl)
@[simp] theorem Act.onCore_lpds (c : Nat) (g : CoreState → CoreState) (b : Block) :
    ((Act.onCore c g).run b).lpds = b.lpds := (rfl)
@[simp] theorem Act.onCore_lock (c : Nat) (g : CoreState → CoreState) (b : Block) :
    ((Act.onCore c g).run b).lock = b.lock := (rfl)
@[simp] theorem Act.onCore_service (c : Nat) (g : CoreState → CoreState) (b : Block) :
    ((Act.onCore c g).run b).service = b.service := (rfl)
@[simp] theorem Act.onCore_hostqs (c : Nat) (g : CoreState → CoreState) (b : Block) :
    ((Act.onCore c g).run b).hostqs = b.hostqs := (rfl)

/-! ## onObj -/

@[simp] theorem Act.onObj_regs (o : Nat) (g : ObjState → ObjState) (b : Block) :
    ((Act.onObj o g).run b).regs = b.regs := (rfl)
@[simp] theorem Act.onObj_mem (o : Nat) (g : ObjState → ObjState) (b : Block) :
    ((Act.onObj o g).run b).mem = b.mem := (rfl)
@[simp] theorem Act.onObj_freeCtr (o : Nat) (g : ObjState → ObjState) (b : Block) :
    ((Act.onObj o g).run b).freeCtr = b.freeCtr := (rfl)
@[simp] theorem Act.onObj_outbox (o : Nat) (g : ObjState → ObjState) (b : Block) :
    ((Act.onObj o g).run b).outbox = b.outbox := (rfl)
@[simp] theorem Act.onObj_power (o : Nat) (g : ObjState → ObjState) (b : Block) :
    ((Act.onObj o g).run b).power = b.power := (rfl)
@[simp] theorem Act.onObj_cores (o : Nat) (g : ObjState → ObjState) (b : Block) :
    ((Act.onObj o g).run b).cores = b.cores := (rfl)
@[simp] theorem Act.onObj_objs (o : Nat) (g : ObjState → ObjState) (b : Block) :
    ((Act.onObj o g).run b).objs = smPut b.objs o (g (smGetD b.objs o ObjState.reset)) := (rfl)
@[simp] theorem Act.onObj_syncNet (o : Nat) (g : ObjState → ObjState) (b : Block) :
    ((Act.onObj o g).run b).syncNet = b.syncNet := (rfl)
@[simp] theorem Act.onObj_parts (o : Nat) (g : ObjState → ObjState) (b : Block) :
    ((Act.onObj o g).run b).parts = b.parts := (rfl)
@[simp] theorem Act.onObj_funcs (o : Nat) (g : ObjState → ObjState) (b : Block) :
    ((Act.onObj o g).run b).funcs = b.funcs := (rfl)
@[simp] theorem Act.onObj_vfs (o : Nat) (g : ObjState → ObjState) (b : Block) :
    ((Act.onObj o g).run b).vfs = b.vfs := (rfl)
@[simp] theorem Act.onObj_ptm (o : Nat) (g : ObjState → ObjState) (b : Block) :
    ((Act.onObj o g).run b).ptm = b.ptm := (rfl)
@[simp] theorem Act.onObj_ports (o : Nat) (g : ObjState → ObjState) (b : Block) :
    ((Act.onObj o g).run b).ports = b.ports := (rfl)
@[simp] theorem Act.onObj_exports (o : Nat) (g : ObjState → ObjState) (b : Block) :
    ((Act.onObj o g).run b).exports = b.exports := (rfl)
@[simp] theorem Act.onObj_dirs (o : Nat) (g : ObjState → ObjState) (b : Block) :
    ((Act.onObj o g).run b).dirs = b.dirs := (rfl)
@[simp] theorem Act.onObj_dirReqs (o : Nat) (g : ObjState → ObjState) (b : Block) :
    ((Act.onObj o g).run b).dirReqs = b.dirReqs := (rfl)
@[simp] theorem Act.onObj_campion (o : Nat) (g : ObjState → ObjState) (b : Block) :
    ((Act.onObj o g).run b).campion = b.campion := (rfl)
@[simp] theorem Act.onObj_lpds (o : Nat) (g : ObjState → ObjState) (b : Block) :
    ((Act.onObj o g).run b).lpds = b.lpds := (rfl)
@[simp] theorem Act.onObj_lock (o : Nat) (g : ObjState → ObjState) (b : Block) :
    ((Act.onObj o g).run b).lock = b.lock := (rfl)
@[simp] theorem Act.onObj_service (o : Nat) (g : ObjState → ObjState) (b : Block) :
    ((Act.onObj o g).run b).service = b.service := (rfl)
@[simp] theorem Act.onObj_hostqs (o : Nat) (g : ObjState → ObjState) (b : Block) :
    ((Act.onObj o g).run b).hostqs = b.hostqs := (rfl)

/-! ## onPart -/

@[simp] theorem Act.onPart_regs (f : Nat) (g : Partition → Partition) (b : Block) :
    ((Act.onPart f g).run b).regs = b.regs := (rfl)
@[simp] theorem Act.onPart_mem (f : Nat) (g : Partition → Partition) (b : Block) :
    ((Act.onPart f g).run b).mem = b.mem := (rfl)
@[simp] theorem Act.onPart_freeCtr (f : Nat) (g : Partition → Partition) (b : Block) :
    ((Act.onPart f g).run b).freeCtr = b.freeCtr := (rfl)
@[simp] theorem Act.onPart_outbox (f : Nat) (g : Partition → Partition) (b : Block) :
    ((Act.onPart f g).run b).outbox = b.outbox := (rfl)
@[simp] theorem Act.onPart_power (f : Nat) (g : Partition → Partition) (b : Block) :
    ((Act.onPart f g).run b).power = b.power := (rfl)
@[simp] theorem Act.onPart_cores (f : Nat) (g : Partition → Partition) (b : Block) :
    ((Act.onPart f g).run b).cores = b.cores := (rfl)
@[simp] theorem Act.onPart_objs (f : Nat) (g : Partition → Partition) (b : Block) :
    ((Act.onPart f g).run b).objs = b.objs := (rfl)
@[simp] theorem Act.onPart_syncNet (f : Nat) (g : Partition → Partition) (b : Block) :
    ((Act.onPart f g).run b).syncNet = b.syncNet := (rfl)
@[simp] theorem Act.onPart_parts (f : Nat) (g : Partition → Partition) (b : Block) :
    ((Act.onPart f g).run b).parts = smPut b.parts f (g (smGetD b.parts f Partition.reset)) := (rfl)
@[simp] theorem Act.onPart_funcs (f : Nat) (g : Partition → Partition) (b : Block) :
    ((Act.onPart f g).run b).funcs = b.funcs := (rfl)
@[simp] theorem Act.onPart_vfs (f : Nat) (g : Partition → Partition) (b : Block) :
    ((Act.onPart f g).run b).vfs = b.vfs := (rfl)
@[simp] theorem Act.onPart_ptm (f : Nat) (g : Partition → Partition) (b : Block) :
    ((Act.onPart f g).run b).ptm = b.ptm := (rfl)
@[simp] theorem Act.onPart_ports (f : Nat) (g : Partition → Partition) (b : Block) :
    ((Act.onPart f g).run b).ports = b.ports := (rfl)
@[simp] theorem Act.onPart_exports (f : Nat) (g : Partition → Partition) (b : Block) :
    ((Act.onPart f g).run b).exports = b.exports := (rfl)
@[simp] theorem Act.onPart_dirs (f : Nat) (g : Partition → Partition) (b : Block) :
    ((Act.onPart f g).run b).dirs = b.dirs := (rfl)
@[simp] theorem Act.onPart_dirReqs (f : Nat) (g : Partition → Partition) (b : Block) :
    ((Act.onPart f g).run b).dirReqs = b.dirReqs := (rfl)
@[simp] theorem Act.onPart_campion (f : Nat) (g : Partition → Partition) (b : Block) :
    ((Act.onPart f g).run b).campion = b.campion := (rfl)
@[simp] theorem Act.onPart_lpds (f : Nat) (g : Partition → Partition) (b : Block) :
    ((Act.onPart f g).run b).lpds = b.lpds := (rfl)
@[simp] theorem Act.onPart_lock (f : Nat) (g : Partition → Partition) (b : Block) :
    ((Act.onPart f g).run b).lock = b.lock := (rfl)
@[simp] theorem Act.onPart_service (f : Nat) (g : Partition → Partition) (b : Block) :
    ((Act.onPart f g).run b).service = b.service := (rfl)
@[simp] theorem Act.onPart_hostqs (f : Nat) (g : Partition → Partition) (b : Block) :
    ((Act.onPart f g).run b).hostqs = b.hostqs := (rfl)

/-! ## onFunc -/

@[simp] theorem Act.onFunc_regs (f : Nat) (g : Func → Func) (b : Block) :
    ((Act.onFunc f g).run b).regs = b.regs := (rfl)
@[simp] theorem Act.onFunc_mem (f : Nat) (g : Func → Func) (b : Block) : ((Act.onFunc f g).run b).mem = b.mem := (rfl)
@[simp] theorem Act.onFunc_freeCtr (f : Nat) (g : Func → Func) (b : Block) :
    ((Act.onFunc f g).run b).freeCtr = b.freeCtr := (rfl)
@[simp] theorem Act.onFunc_outbox (f : Nat) (g : Func → Func) (b : Block) :
    ((Act.onFunc f g).run b).outbox = b.outbox := (rfl)
@[simp] theorem Act.onFunc_power (f : Nat) (g : Func → Func) (b : Block) :
    ((Act.onFunc f g).run b).power = b.power := (rfl)
@[simp] theorem Act.onFunc_cores (f : Nat) (g : Func → Func) (b : Block) :
    ((Act.onFunc f g).run b).cores = b.cores := (rfl)
@[simp] theorem Act.onFunc_objs (f : Nat) (g : Func → Func) (b : Block) :
    ((Act.onFunc f g).run b).objs = b.objs := (rfl)
@[simp] theorem Act.onFunc_syncNet (f : Nat) (g : Func → Func) (b : Block) :
    ((Act.onFunc f g).run b).syncNet = b.syncNet := (rfl)
@[simp] theorem Act.onFunc_parts (f : Nat) (g : Func → Func) (b : Block) :
    ((Act.onFunc f g).run b).parts = b.parts := (rfl)
@[simp] theorem Act.onFunc_funcs (f : Nat) (g : Func → Func) (b : Block) :
    ((Act.onFunc f g).run b).funcs = smPut b.funcs f (g (smGetD b.funcs f Func.reset)) := (rfl)
@[simp] theorem Act.onFunc_vfs (f : Nat) (g : Func → Func) (b : Block) : ((Act.onFunc f g).run b).vfs = b.vfs := (rfl)
@[simp] theorem Act.onFunc_ptm (f : Nat) (g : Func → Func) (b : Block) : ((Act.onFunc f g).run b).ptm = b.ptm := (rfl)
@[simp] theorem Act.onFunc_ports (f : Nat) (g : Func → Func) (b : Block) :
    ((Act.onFunc f g).run b).ports = b.ports := (rfl)
@[simp] theorem Act.onFunc_exports (f : Nat) (g : Func → Func) (b : Block) :
    ((Act.onFunc f g).run b).exports = b.exports := (rfl)
@[simp] theorem Act.onFunc_dirs (f : Nat) (g : Func → Func) (b : Block) :
    ((Act.onFunc f g).run b).dirs = b.dirs := (rfl)
@[simp] theorem Act.onFunc_dirReqs (f : Nat) (g : Func → Func) (b : Block) :
    ((Act.onFunc f g).run b).dirReqs = b.dirReqs := (rfl)
@[simp] theorem Act.onFunc_campion (f : Nat) (g : Func → Func) (b : Block) :
    ((Act.onFunc f g).run b).campion = b.campion := (rfl)
@[simp] theorem Act.onFunc_lpds (f : Nat) (g : Func → Func) (b : Block) :
    ((Act.onFunc f g).run b).lpds = b.lpds := (rfl)
@[simp] theorem Act.onFunc_lock (f : Nat) (g : Func → Func) (b : Block) :
    ((Act.onFunc f g).run b).lock = b.lock := (rfl)
@[simp] theorem Act.onFunc_service (f : Nat) (g : Func → Func) (b : Block) :
    ((Act.onFunc f g).run b).service = b.service := (rfl)
@[simp] theorem Act.onFunc_hostqs (f : Nat) (g : Func → Func) (b : Block) :
    ((Act.onFunc f g).run b).hostqs = b.hostqs := (rfl)

/-! ## onPort -/

@[simp] theorem Act.onPort_regs (p : Nat) (g : PortState → PortState) (b : Block) :
    ((Act.onPort p g).run b).regs = b.regs := (rfl)
@[simp] theorem Act.onPort_mem (p : Nat) (g : PortState → PortState) (b : Block) :
    ((Act.onPort p g).run b).mem = b.mem := (rfl)
@[simp] theorem Act.onPort_freeCtr (p : Nat) (g : PortState → PortState) (b : Block) :
    ((Act.onPort p g).run b).freeCtr = b.freeCtr := (rfl)
@[simp] theorem Act.onPort_outbox (p : Nat) (g : PortState → PortState) (b : Block) :
    ((Act.onPort p g).run b).outbox = b.outbox := (rfl)
@[simp] theorem Act.onPort_power (p : Nat) (g : PortState → PortState) (b : Block) :
    ((Act.onPort p g).run b).power = b.power := (rfl)
@[simp] theorem Act.onPort_cores (p : Nat) (g : PortState → PortState) (b : Block) :
    ((Act.onPort p g).run b).cores = b.cores := (rfl)
@[simp] theorem Act.onPort_objs (p : Nat) (g : PortState → PortState) (b : Block) :
    ((Act.onPort p g).run b).objs = b.objs := (rfl)
@[simp] theorem Act.onPort_syncNet (p : Nat) (g : PortState → PortState) (b : Block) :
    ((Act.onPort p g).run b).syncNet = b.syncNet := (rfl)
@[simp] theorem Act.onPort_parts (p : Nat) (g : PortState → PortState) (b : Block) :
    ((Act.onPort p g).run b).parts = b.parts := (rfl)
@[simp] theorem Act.onPort_funcs (p : Nat) (g : PortState → PortState) (b : Block) :
    ((Act.onPort p g).run b).funcs = b.funcs := (rfl)
@[simp] theorem Act.onPort_vfs (p : Nat) (g : PortState → PortState) (b : Block) :
    ((Act.onPort p g).run b).vfs = b.vfs := (rfl)
@[simp] theorem Act.onPort_ptm (p : Nat) (g : PortState → PortState) (b : Block) :
    ((Act.onPort p g).run b).ptm = b.ptm := (rfl)
@[simp] theorem Act.onPort_ports (p : Nat) (g : PortState → PortState) (b : Block) :
    ((Act.onPort p g).run b).ports = smPut b.ports p (g (smGetD b.ports p PortState.reset)) := (rfl)
@[simp] theorem Act.onPort_exports (p : Nat) (g : PortState → PortState) (b : Block) :
    ((Act.onPort p g).run b).exports = b.exports := (rfl)
@[simp] theorem Act.onPort_dirs (p : Nat) (g : PortState → PortState) (b : Block) :
    ((Act.onPort p g).run b).dirs = b.dirs := (rfl)
@[simp] theorem Act.onPort_dirReqs (p : Nat) (g : PortState → PortState) (b : Block) :
    ((Act.onPort p g).run b).dirReqs = b.dirReqs := (rfl)
@[simp] theorem Act.onPort_campion (p : Nat) (g : PortState → PortState) (b : Block) :
    ((Act.onPort p g).run b).campion = b.campion := (rfl)
@[simp] theorem Act.onPort_lpds (p : Nat) (g : PortState → PortState) (b : Block) :
    ((Act.onPort p g).run b).lpds = b.lpds := (rfl)
@[simp] theorem Act.onPort_lock (p : Nat) (g : PortState → PortState) (b : Block) :
    ((Act.onPort p g).run b).lock = b.lock := (rfl)
@[simp] theorem Act.onPort_service (p : Nat) (g : PortState → PortState) (b : Block) :
    ((Act.onPort p g).run b).service = b.service := (rfl)
@[simp] theorem Act.onPort_hostqs (p : Nat) (g : PortState → PortState) (b : Block) :
    ((Act.onPort p g).run b).hostqs = b.hostqs := (rfl)

/-! ## onDir -/

@[simp] theorem Act.onDir_regs (f : Nat) (g : DirFn → DirFn) (b : Block) :
    ((Act.onDir f g).run b).regs = b.regs := (rfl)
@[simp] theorem Act.onDir_mem (f : Nat) (g : DirFn → DirFn) (b : Block) : ((Act.onDir f g).run b).mem = b.mem := (rfl)
@[simp] theorem Act.onDir_freeCtr (f : Nat) (g : DirFn → DirFn) (b : Block) :
    ((Act.onDir f g).run b).freeCtr = b.freeCtr := (rfl)
@[simp] theorem Act.onDir_outbox (f : Nat) (g : DirFn → DirFn) (b : Block) :
    ((Act.onDir f g).run b).outbox = b.outbox := (rfl)
@[simp] theorem Act.onDir_power (f : Nat) (g : DirFn → DirFn) (b : Block) :
    ((Act.onDir f g).run b).power = b.power := (rfl)
@[simp] theorem Act.onDir_cores (f : Nat) (g : DirFn → DirFn) (b : Block) :
    ((Act.onDir f g).run b).cores = b.cores := (rfl)
@[simp] theorem Act.onDir_objs (f : Nat) (g : DirFn → DirFn) (b : Block) :
    ((Act.onDir f g).run b).objs = b.objs := (rfl)
@[simp] theorem Act.onDir_syncNet (f : Nat) (g : DirFn → DirFn) (b : Block) :
    ((Act.onDir f g).run b).syncNet = b.syncNet := (rfl)
@[simp] theorem Act.onDir_parts (f : Nat) (g : DirFn → DirFn) (b : Block) :
    ((Act.onDir f g).run b).parts = b.parts := (rfl)
@[simp] theorem Act.onDir_funcs (f : Nat) (g : DirFn → DirFn) (b : Block) :
    ((Act.onDir f g).run b).funcs = b.funcs := (rfl)
@[simp] theorem Act.onDir_vfs (f : Nat) (g : DirFn → DirFn) (b : Block) : ((Act.onDir f g).run b).vfs = b.vfs := (rfl)
@[simp] theorem Act.onDir_ptm (f : Nat) (g : DirFn → DirFn) (b : Block) : ((Act.onDir f g).run b).ptm = b.ptm := (rfl)
@[simp] theorem Act.onDir_ports (f : Nat) (g : DirFn → DirFn) (b : Block) :
    ((Act.onDir f g).run b).ports = b.ports := (rfl)
@[simp] theorem Act.onDir_exports (f : Nat) (g : DirFn → DirFn) (b : Block) :
    ((Act.onDir f g).run b).exports = b.exports := (rfl)
@[simp] theorem Act.onDir_dirs (f : Nat) (g : DirFn → DirFn) (b : Block) :
    ((Act.onDir f g).run b).dirs = smPut b.dirs f (g (smGetD b.dirs f DirFn.reset)) := (rfl)
@[simp] theorem Act.onDir_dirReqs (f : Nat) (g : DirFn → DirFn) (b : Block) :
    ((Act.onDir f g).run b).dirReqs = b.dirReqs := (rfl)
@[simp] theorem Act.onDir_campion (f : Nat) (g : DirFn → DirFn) (b : Block) :
    ((Act.onDir f g).run b).campion = b.campion := (rfl)
@[simp] theorem Act.onDir_lpds (f : Nat) (g : DirFn → DirFn) (b : Block) :
    ((Act.onDir f g).run b).lpds = b.lpds := (rfl)
@[simp] theorem Act.onDir_lock (f : Nat) (g : DirFn → DirFn) (b : Block) :
    ((Act.onDir f g).run b).lock = b.lock := (rfl)
@[simp] theorem Act.onDir_service (f : Nat) (g : DirFn → DirFn) (b : Block) :
    ((Act.onDir f g).run b).service = b.service := (rfl)
@[simp] theorem Act.onDir_hostqs (f : Nat) (g : DirFn → DirFn) (b : Block) :
    ((Act.onDir f g).run b).hostqs = b.hostqs := (rfl)

/-! ## onLpd -/

@[simp] theorem Act.onLpd_regs (k : Nat) (g : Lpd → Lpd) (b : Block) : ((Act.onLpd k g).run b).regs = b.regs := (rfl)
@[simp] theorem Act.onLpd_mem (k : Nat) (g : Lpd → Lpd) (b : Block) : ((Act.onLpd k g).run b).mem = b.mem := (rfl)
@[simp] theorem Act.onLpd_freeCtr (k : Nat) (g : Lpd → Lpd) (b : Block) :
    ((Act.onLpd k g).run b).freeCtr = b.freeCtr := (rfl)
@[simp] theorem Act.onLpd_outbox (k : Nat) (g : Lpd → Lpd) (b : Block) :
    ((Act.onLpd k g).run b).outbox = b.outbox := (rfl)
@[simp] theorem Act.onLpd_power (k : Nat) (g : Lpd → Lpd) (b : Block) : ((Act.onLpd k g).run b).power = b.power := (rfl)
@[simp] theorem Act.onLpd_cores (k : Nat) (g : Lpd → Lpd) (b : Block) : ((Act.onLpd k g).run b).cores = b.cores := (rfl)
@[simp] theorem Act.onLpd_objs (k : Nat) (g : Lpd → Lpd) (b : Block) : ((Act.onLpd k g).run b).objs = b.objs := (rfl)
@[simp] theorem Act.onLpd_syncNet (k : Nat) (g : Lpd → Lpd) (b : Block) :
    ((Act.onLpd k g).run b).syncNet = b.syncNet := (rfl)
@[simp] theorem Act.onLpd_parts (k : Nat) (g : Lpd → Lpd) (b : Block) : ((Act.onLpd k g).run b).parts = b.parts := (rfl)
@[simp] theorem Act.onLpd_funcs (k : Nat) (g : Lpd → Lpd) (b : Block) : ((Act.onLpd k g).run b).funcs = b.funcs := (rfl)
@[simp] theorem Act.onLpd_vfs (k : Nat) (g : Lpd → Lpd) (b : Block) : ((Act.onLpd k g).run b).vfs = b.vfs := (rfl)
@[simp] theorem Act.onLpd_ptm (k : Nat) (g : Lpd → Lpd) (b : Block) : ((Act.onLpd k g).run b).ptm = b.ptm := (rfl)
@[simp] theorem Act.onLpd_ports (k : Nat) (g : Lpd → Lpd) (b : Block) : ((Act.onLpd k g).run b).ports = b.ports := (rfl)
@[simp] theorem Act.onLpd_exports (k : Nat) (g : Lpd → Lpd) (b : Block) :
    ((Act.onLpd k g).run b).exports = b.exports := (rfl)
@[simp] theorem Act.onLpd_dirs (k : Nat) (g : Lpd → Lpd) (b : Block) : ((Act.onLpd k g).run b).dirs = b.dirs := (rfl)
@[simp] theorem Act.onLpd_dirReqs (k : Nat) (g : Lpd → Lpd) (b : Block) :
    ((Act.onLpd k g).run b).dirReqs = b.dirReqs := (rfl)
@[simp] theorem Act.onLpd_campion (k : Nat) (g : Lpd → Lpd) (b : Block) :
    ((Act.onLpd k g).run b).campion = b.campion := (rfl)
@[simp] theorem Act.onLpd_lpds (k : Nat) (g : Lpd → Lpd) (b : Block) :
    ((Act.onLpd k g).run b).lpds = smPut b.lpds k (g (smGetD b.lpds k Lpd.reset)) := (rfl)
@[simp] theorem Act.onLpd_lock (k : Nat) (g : Lpd → Lpd) (b : Block) : ((Act.onLpd k g).run b).lock = b.lock := (rfl)
@[simp] theorem Act.onLpd_service (k : Nat) (g : Lpd → Lpd) (b : Block) : ((Act.onLpd k g).run b).service = b.service := (rfl)
@[simp] theorem Act.onLpd_hostqs (k : Nat) (g : Lpd → Lpd) (b : Block) : ((Act.onLpd k g).run b).hostqs = b.hostqs := (rfl)

/-! ## onHostq -/

@[simp] theorem Act.onHostq_regs (e : Nat) (g : HostQ → HostQ) (b : Block) : ((Act.onHostq e g).run b).regs = b.regs := (rfl)
@[simp] theorem Act.onHostq_mem (e : Nat) (g : HostQ → HostQ) (b : Block) : ((Act.onHostq e g).run b).mem = b.mem := (rfl)
@[simp] theorem Act.onHostq_freeCtr (e : Nat) (g : HostQ → HostQ) (b : Block) :
    ((Act.onHostq e g).run b).freeCtr = b.freeCtr := (rfl)
@[simp] theorem Act.onHostq_outbox (e : Nat) (g : HostQ → HostQ) (b : Block) :
    ((Act.onHostq e g).run b).outbox = b.outbox := (rfl)
@[simp] theorem Act.onHostq_power (e : Nat) (g : HostQ → HostQ) (b : Block) : ((Act.onHostq e g).run b).power = b.power := (rfl)
@[simp] theorem Act.onHostq_cores (e : Nat) (g : HostQ → HostQ) (b : Block) : ((Act.onHostq e g).run b).cores = b.cores := (rfl)
@[simp] theorem Act.onHostq_objs (e : Nat) (g : HostQ → HostQ) (b : Block) : ((Act.onHostq e g).run b).objs = b.objs := (rfl)
@[simp] theorem Act.onHostq_syncNet (e : Nat) (g : HostQ → HostQ) (b : Block) :
    ((Act.onHostq e g).run b).syncNet = b.syncNet := (rfl)
@[simp] theorem Act.onHostq_parts (e : Nat) (g : HostQ → HostQ) (b : Block) : ((Act.onHostq e g).run b).parts = b.parts := (rfl)
@[simp] theorem Act.onHostq_funcs (e : Nat) (g : HostQ → HostQ) (b : Block) : ((Act.onHostq e g).run b).funcs = b.funcs := (rfl)
@[simp] theorem Act.onHostq_vfs (e : Nat) (g : HostQ → HostQ) (b : Block) : ((Act.onHostq e g).run b).vfs = b.vfs := (rfl)
@[simp] theorem Act.onHostq_ptm (e : Nat) (g : HostQ → HostQ) (b : Block) : ((Act.onHostq e g).run b).ptm = b.ptm := (rfl)
@[simp] theorem Act.onHostq_ports (e : Nat) (g : HostQ → HostQ) (b : Block) : ((Act.onHostq e g).run b).ports = b.ports := (rfl)
@[simp] theorem Act.onHostq_exports (e : Nat) (g : HostQ → HostQ) (b : Block) :
    ((Act.onHostq e g).run b).exports = b.exports := (rfl)
@[simp] theorem Act.onHostq_dirs (e : Nat) (g : HostQ → HostQ) (b : Block) : ((Act.onHostq e g).run b).dirs = b.dirs := (rfl)
@[simp] theorem Act.onHostq_dirReqs (e : Nat) (g : HostQ → HostQ) (b : Block) :
    ((Act.onHostq e g).run b).dirReqs = b.dirReqs := (rfl)
@[simp] theorem Act.onHostq_campion (e : Nat) (g : HostQ → HostQ) (b : Block) :
    ((Act.onHostq e g).run b).campion = b.campion := (rfl)
@[simp] theorem Act.onHostq_lpds (e : Nat) (g : HostQ → HostQ) (b : Block) :
    ((Act.onHostq e g).run b).lpds = b.lpds := (rfl)
@[simp] theorem Act.onHostq_lock (e : Nat) (g : HostQ → HostQ) (b : Block) : ((Act.onHostq e g).run b).lock = b.lock := (rfl)
@[simp] theorem Act.onHostq_service (e : Nat) (g : HostQ → HostQ) (b : Block) : ((Act.onHostq e g).run b).service = b.service := (rfl)
@[simp] theorem Act.onHostq_hostqs (e : Nat) (g : HostQ → HostQ) (b : Block) :
    ((Act.onHostq e g).run b).hostqs = smPut b.hostqs e (g (smGetD b.hostqs e HostQ.reset)) := (rfl)

/-! ## power -/

@[simp] theorem Act.power_regs (g : Power → Power) (b : Block) : ((Act.power g).run b).regs = b.regs := (rfl)
@[simp] theorem Act.power_mem (g : Power → Power) (b : Block) : ((Act.power g).run b).mem = b.mem := (rfl)
@[simp] theorem Act.power_freeCtr (g : Power → Power) (b : Block) : ((Act.power g).run b).freeCtr = b.freeCtr := (rfl)
@[simp] theorem Act.power_outbox (g : Power → Power) (b : Block) : ((Act.power g).run b).outbox = b.outbox := (rfl)
@[simp] theorem Act.power_power (g : Power → Power) (b : Block) : ((Act.power g).run b).power = g b.power := (rfl)
@[simp] theorem Act.power_cores (g : Power → Power) (b : Block) : ((Act.power g).run b).cores = b.cores := (rfl)
@[simp] theorem Act.power_objs (g : Power → Power) (b : Block) : ((Act.power g).run b).objs = b.objs := (rfl)
@[simp] theorem Act.power_syncNet (g : Power → Power) (b : Block) : ((Act.power g).run b).syncNet = b.syncNet := (rfl)
@[simp] theorem Act.power_parts (g : Power → Power) (b : Block) : ((Act.power g).run b).parts = b.parts := (rfl)
@[simp] theorem Act.power_funcs (g : Power → Power) (b : Block) : ((Act.power g).run b).funcs = b.funcs := (rfl)
@[simp] theorem Act.power_vfs (g : Power → Power) (b : Block) : ((Act.power g).run b).vfs = b.vfs := (rfl)
@[simp] theorem Act.power_ptm (g : Power → Power) (b : Block) : ((Act.power g).run b).ptm = b.ptm := (rfl)
@[simp] theorem Act.power_ports (g : Power → Power) (b : Block) : ((Act.power g).run b).ports = b.ports := (rfl)
@[simp] theorem Act.power_exports (g : Power → Power) (b : Block) : ((Act.power g).run b).exports = b.exports := (rfl)
@[simp] theorem Act.power_dirs (g : Power → Power) (b : Block) : ((Act.power g).run b).dirs = b.dirs := (rfl)
@[simp] theorem Act.power_dirReqs (g : Power → Power) (b : Block) : ((Act.power g).run b).dirReqs = b.dirReqs := (rfl)
@[simp] theorem Act.power_campion (g : Power → Power) (b : Block) : ((Act.power g).run b).campion = b.campion := (rfl)
@[simp] theorem Act.power_lpds (g : Power → Power) (b : Block) : ((Act.power g).run b).lpds = b.lpds := (rfl)
@[simp] theorem Act.power_lock (g : Power → Power) (b : Block) : ((Act.power g).run b).lock = b.lock := (rfl)
@[simp] theorem Act.power_service (g : Power → Power) (b : Block) : ((Act.power g).run b).service = b.service := (rfl)
@[simp] theorem Act.power_hostqs (g : Power → Power) (b : Block) : ((Act.power g).run b).hostqs = b.hostqs := (rfl)

/-! ## lock -/

@[simp] theorem Act.lock_regs (g : Lock → Lock) (b : Block) : ((Act.lock g).run b).regs = b.regs := (rfl)
@[simp] theorem Act.lock_mem (g : Lock → Lock) (b : Block) : ((Act.lock g).run b).mem = b.mem := (rfl)
@[simp] theorem Act.lock_freeCtr (g : Lock → Lock) (b : Block) : ((Act.lock g).run b).freeCtr = b.freeCtr := (rfl)
@[simp] theorem Act.lock_outbox (g : Lock → Lock) (b : Block) : ((Act.lock g).run b).outbox = b.outbox := (rfl)
@[simp] theorem Act.lock_power (g : Lock → Lock) (b : Block) : ((Act.lock g).run b).power = b.power := (rfl)
@[simp] theorem Act.lock_cores (g : Lock → Lock) (b : Block) : ((Act.lock g).run b).cores = b.cores := (rfl)
@[simp] theorem Act.lock_objs (g : Lock → Lock) (b : Block) : ((Act.lock g).run b).objs = b.objs := (rfl)
@[simp] theorem Act.lock_syncNet (g : Lock → Lock) (b : Block) : ((Act.lock g).run b).syncNet = b.syncNet := (rfl)
@[simp] theorem Act.lock_parts (g : Lock → Lock) (b : Block) : ((Act.lock g).run b).parts = b.parts := (rfl)
@[simp] theorem Act.lock_funcs (g : Lock → Lock) (b : Block) : ((Act.lock g).run b).funcs = b.funcs := (rfl)
@[simp] theorem Act.lock_vfs (g : Lock → Lock) (b : Block) : ((Act.lock g).run b).vfs = b.vfs := (rfl)
@[simp] theorem Act.lock_ptm (g : Lock → Lock) (b : Block) : ((Act.lock g).run b).ptm = b.ptm := (rfl)
@[simp] theorem Act.lock_ports (g : Lock → Lock) (b : Block) : ((Act.lock g).run b).ports = b.ports := (rfl)
@[simp] theorem Act.lock_exports (g : Lock → Lock) (b : Block) : ((Act.lock g).run b).exports = b.exports := (rfl)
@[simp] theorem Act.lock_dirs (g : Lock → Lock) (b : Block) : ((Act.lock g).run b).dirs = b.dirs := (rfl)
@[simp] theorem Act.lock_dirReqs (g : Lock → Lock) (b : Block) : ((Act.lock g).run b).dirReqs = b.dirReqs := (rfl)
@[simp] theorem Act.lock_campion (g : Lock → Lock) (b : Block) : ((Act.lock g).run b).campion = b.campion := (rfl)
@[simp] theorem Act.lock_lpds (g : Lock → Lock) (b : Block) : ((Act.lock g).run b).lpds = b.lpds := (rfl)
@[simp] theorem Act.lock_lock (g : Lock → Lock) (b : Block) : ((Act.lock g).run b).lock = g b.lock := (rfl)
@[simp] theorem Act.lock_service (g : Lock → Lock) (b : Block) : ((Act.lock g).run b).service = b.service := (rfl)
@[simp] theorem Act.lock_hostqs (g : Lock → Lock) (b : Block) : ((Act.lock g).run b).hostqs = b.hostqs := (rfl)

/-! ## campion -/

@[simp] theorem Act.campion_regs (g : Campion → Campion) (b : Block) : ((Act.campion g).run b).regs = b.regs := (rfl)
@[simp] theorem Act.campion_mem (g : Campion → Campion) (b : Block) : ((Act.campion g).run b).mem = b.mem := (rfl)
@[simp] theorem Act.campion_freeCtr (g : Campion → Campion) (b : Block) :
    ((Act.campion g).run b).freeCtr = b.freeCtr := (rfl)
@[simp] theorem Act.campion_outbox (g : Campion → Campion) (b : Block) :
    ((Act.campion g).run b).outbox = b.outbox := (rfl)
@[simp] theorem Act.campion_power (g : Campion → Campion) (b : Block) : ((Act.campion g).run b).power = b.power := (rfl)
@[simp] theorem Act.campion_cores (g : Campion → Campion) (b : Block) : ((Act.campion g).run b).cores = b.cores := (rfl)
@[simp] theorem Act.campion_objs (g : Campion → Campion) (b : Block) : ((Act.campion g).run b).objs = b.objs := (rfl)
@[simp] theorem Act.campion_syncNet (g : Campion → Campion) (b : Block) :
    ((Act.campion g).run b).syncNet = b.syncNet := (rfl)
@[simp] theorem Act.campion_parts (g : Campion → Campion) (b : Block) : ((Act.campion g).run b).parts = b.parts := (rfl)
@[simp] theorem Act.campion_funcs (g : Campion → Campion) (b : Block) : ((Act.campion g).run b).funcs = b.funcs := (rfl)
@[simp] theorem Act.campion_vfs (g : Campion → Campion) (b : Block) : ((Act.campion g).run b).vfs = b.vfs := (rfl)
@[simp] theorem Act.campion_ptm (g : Campion → Campion) (b : Block) : ((Act.campion g).run b).ptm = b.ptm := (rfl)
@[simp] theorem Act.campion_ports (g : Campion → Campion) (b : Block) : ((Act.campion g).run b).ports = b.ports := (rfl)
@[simp] theorem Act.campion_exports (g : Campion → Campion) (b : Block) :
    ((Act.campion g).run b).exports = b.exports := (rfl)
@[simp] theorem Act.campion_dirs (g : Campion → Campion) (b : Block) : ((Act.campion g).run b).dirs = b.dirs := (rfl)
@[simp] theorem Act.campion_dirReqs (g : Campion → Campion) (b : Block) :
    ((Act.campion g).run b).dirReqs = b.dirReqs := (rfl)
@[simp] theorem Act.campion_campion (g : Campion → Campion) (b : Block) :
    ((Act.campion g).run b).campion = g b.campion := (rfl)
@[simp] theorem Act.campion_lpds (g : Campion → Campion) (b : Block) : ((Act.campion g).run b).lpds = b.lpds := (rfl)
@[simp] theorem Act.campion_lock (g : Campion → Campion) (b : Block) : ((Act.campion g).run b).lock = b.lock := (rfl)
@[simp] theorem Act.campion_service (g : Campion → Campion) (b : Block) : ((Act.campion g).run b).service = b.service := (rfl)
@[simp] theorem Act.campion_hostqs (g : Campion → Campion) (b : Block) : ((Act.campion g).run b).hostqs = b.hostqs := (rfl)

/-! ## emit -/

@[simp] theorem Act.emit_regs (o : Output) (b : Block) : ((Act.emit o).run b).regs = b.regs := (rfl)
@[simp] theorem Act.emit_mem (o : Output) (b : Block) : ((Act.emit o).run b).mem = b.mem := (rfl)
@[simp] theorem Act.emit_freeCtr (o : Output) (b : Block) : ((Act.emit o).run b).freeCtr = b.freeCtr := (rfl)
@[simp] theorem Act.emit_outbox (o : Output) (b : Block) : ((Act.emit o).run b).outbox = b.outbox ++ [o] := (rfl)
@[simp] theorem Act.emit_power (o : Output) (b : Block) : ((Act.emit o).run b).power = b.power := (rfl)
@[simp] theorem Act.emit_cores (o : Output) (b : Block) : ((Act.emit o).run b).cores = b.cores := (rfl)
@[simp] theorem Act.emit_objs (o : Output) (b : Block) : ((Act.emit o).run b).objs = b.objs := (rfl)
@[simp] theorem Act.emit_syncNet (o : Output) (b : Block) : ((Act.emit o).run b).syncNet = b.syncNet := (rfl)
@[simp] theorem Act.emit_parts (o : Output) (b : Block) : ((Act.emit o).run b).parts = b.parts := (rfl)
@[simp] theorem Act.emit_funcs (o : Output) (b : Block) : ((Act.emit o).run b).funcs = b.funcs := (rfl)
@[simp] theorem Act.emit_vfs (o : Output) (b : Block) : ((Act.emit o).run b).vfs = b.vfs := (rfl)
@[simp] theorem Act.emit_ptm (o : Output) (b : Block) : ((Act.emit o).run b).ptm = b.ptm := (rfl)
@[simp] theorem Act.emit_ports (o : Output) (b : Block) : ((Act.emit o).run b).ports = b.ports := (rfl)
@[simp] theorem Act.emit_exports (o : Output) (b : Block) : ((Act.emit o).run b).exports = b.exports := (rfl)
@[simp] theorem Act.emit_dirs (o : Output) (b : Block) : ((Act.emit o).run b).dirs = b.dirs := (rfl)
@[simp] theorem Act.emit_dirReqs (o : Output) (b : Block) : ((Act.emit o).run b).dirReqs = b.dirReqs := (rfl)
@[simp] theorem Act.emit_campion (o : Output) (b : Block) : ((Act.emit o).run b).campion = b.campion := (rfl)
@[simp] theorem Act.emit_lpds (o : Output) (b : Block) : ((Act.emit o).run b).lpds = b.lpds := (rfl)
@[simp] theorem Act.emit_lock (o : Output) (b : Block) : ((Act.emit o).run b).lock = b.lock := (rfl)
@[simp] theorem Act.emit_service (o : Output) (b : Block) : ((Act.emit o).run b).service = b.service := (rfl)
@[simp] theorem Act.emit_hostqs (o : Output) (b : Block) : ((Act.emit o).run b).hostqs = b.hostqs := (rfl)

/-! ## bump -/

@[simp] theorem Act.bump_regs (b : Block) : ((Act.bump).run b).regs = b.regs := (rfl)
@[simp] theorem Act.bump_mem (b : Block) : ((Act.bump).run b).mem = b.mem := (rfl)
@[simp] theorem Act.bump_freeCtr (b : Block) : ((Act.bump).run b).freeCtr = b.freeCtr + 1 := (rfl)
@[simp] theorem Act.bump_outbox (b : Block) : ((Act.bump).run b).outbox = b.outbox := (rfl)
@[simp] theorem Act.bump_power (b : Block) : ((Act.bump).run b).power = b.power := (rfl)
@[simp] theorem Act.bump_cores (b : Block) : ((Act.bump).run b).cores = b.cores := (rfl)
@[simp] theorem Act.bump_objs (b : Block) : ((Act.bump).run b).objs = b.objs := (rfl)
@[simp] theorem Act.bump_syncNet (b : Block) : ((Act.bump).run b).syncNet = b.syncNet := (rfl)
@[simp] theorem Act.bump_parts (b : Block) : ((Act.bump).run b).parts = b.parts := (rfl)
@[simp] theorem Act.bump_funcs (b : Block) : ((Act.bump).run b).funcs = b.funcs := (rfl)
@[simp] theorem Act.bump_vfs (b : Block) : ((Act.bump).run b).vfs = b.vfs := (rfl)
@[simp] theorem Act.bump_ptm (b : Block) : ((Act.bump).run b).ptm = b.ptm := (rfl)
@[simp] theorem Act.bump_ports (b : Block) : ((Act.bump).run b).ports = b.ports := (rfl)
@[simp] theorem Act.bump_exports (b : Block) : ((Act.bump).run b).exports = b.exports := (rfl)
@[simp] theorem Act.bump_dirs (b : Block) : ((Act.bump).run b).dirs = b.dirs := (rfl)
@[simp] theorem Act.bump_dirReqs (b : Block) : ((Act.bump).run b).dirReqs = b.dirReqs := (rfl)
@[simp] theorem Act.bump_campion (b : Block) : ((Act.bump).run b).campion = b.campion := (rfl)
@[simp] theorem Act.bump_lpds (b : Block) : ((Act.bump).run b).lpds = b.lpds := (rfl)
@[simp] theorem Act.bump_lock (b : Block) : ((Act.bump).run b).lock = b.lock := (rfl)
@[simp] theorem Act.bump_service (b : Block) : ((Act.bump).run b).service = b.service := (rfl)
@[simp] theorem Act.bump_hostqs (b : Block) : ((Act.bump).run b).hostqs = b.hostqs := (rfl)

/-! ## issue -/

@[simp] theorem Act.issue_regs (m : SyncMsg) (b : Block) : ((Act.issue m).run b).regs = b.regs := (rfl)
@[simp] theorem Act.issue_mem (m : SyncMsg) (b : Block) : ((Act.issue m).run b).mem = b.mem := (rfl)
@[simp] theorem Act.issue_freeCtr (m : SyncMsg) (b : Block) : ((Act.issue m).run b).freeCtr = b.freeCtr := (rfl)
@[simp] theorem Act.issue_outbox (m : SyncMsg) (b : Block) : ((Act.issue m).run b).outbox = b.outbox := (rfl)
@[simp] theorem Act.issue_power (m : SyncMsg) (b : Block) : ((Act.issue m).run b).power = b.power := (rfl)
@[simp] theorem Act.issue_cores (m : SyncMsg) (b : Block) : ((Act.issue m).run b).cores = b.cores := (rfl)
@[simp] theorem Act.issue_objs (m : SyncMsg) (b : Block) : ((Act.issue m).run b).objs = b.objs := (rfl)
@[simp] theorem Act.issue_syncNet (m : SyncMsg) (b : Block) : ((Act.issue m).run b).syncNet = b.syncNet ++ [m] := (rfl)
@[simp] theorem Act.issue_parts (m : SyncMsg) (b : Block) : ((Act.issue m).run b).parts = b.parts := (rfl)
@[simp] theorem Act.issue_funcs (m : SyncMsg) (b : Block) : ((Act.issue m).run b).funcs = b.funcs := (rfl)
@[simp] theorem Act.issue_vfs (m : SyncMsg) (b : Block) : ((Act.issue m).run b).vfs = b.vfs := (rfl)
@[simp] theorem Act.issue_ptm (m : SyncMsg) (b : Block) : ((Act.issue m).run b).ptm = b.ptm := (rfl)
@[simp] theorem Act.issue_ports (m : SyncMsg) (b : Block) : ((Act.issue m).run b).ports = b.ports := (rfl)
@[simp] theorem Act.issue_exports (m : SyncMsg) (b : Block) : ((Act.issue m).run b).exports = b.exports := (rfl)
@[simp] theorem Act.issue_dirs (m : SyncMsg) (b : Block) : ((Act.issue m).run b).dirs = b.dirs := (rfl)
@[simp] theorem Act.issue_dirReqs (m : SyncMsg) (b : Block) : ((Act.issue m).run b).dirReqs = b.dirReqs := (rfl)
@[simp] theorem Act.issue_campion (m : SyncMsg) (b : Block) : ((Act.issue m).run b).campion = b.campion := (rfl)
@[simp] theorem Act.issue_lpds (m : SyncMsg) (b : Block) : ((Act.issue m).run b).lpds = b.lpds := (rfl)
@[simp] theorem Act.issue_lock (m : SyncMsg) (b : Block) : ((Act.issue m).run b).lock = b.lock := (rfl)
@[simp] theorem Act.issue_service (m : SyncMsg) (b : Block) : ((Act.issue m).run b).service = b.service := (rfl)
@[simp] theorem Act.issue_hostqs (m : SyncMsg) (b : Block) : ((Act.issue m).run b).hostqs = b.hostqs := (rfl)

/-! ## Units in general -/

@[simp] theorem Act.units_regs (g : Units → Units) (b : Block) : ((Act.units g).run b).regs = b.regs := (rfl)
@[simp] theorem Act.units_mem (g : Units → Units) (b : Block) : ((Act.units g).run b).mem = b.mem := (rfl)
@[simp] theorem Act.units_toUnits (g : Units → Units) (b : Block) : ((Act.units g).run b).toUnits = g b.toUnits := (rfl)

end Sys2Proof.Machine
end

