-- ==== Sys2Proof/Laws/Store.lean ====
section
/-! SUPPORT. Sparse lists, bit fields and byte strings: reads after writes, and the canonical order. -/

namespace Sys2Proof.Machine

/-! ## Reads after writes of a sparse list -/

@[simp] theorem smGet_nil {α : Type} (k : Nat) : smGet ([] : List (Nat × α)) k = none := rfl

theorem smGet_cons {α : Type} (j : Nat) (v : α) (r : List (Nat × α)) (k : Nat) :
    smGet ((j, v) :: r) k = if j = k then some v else smGet r k := rfl

theorem smGet_smPut {α : Type} (l : List (Nat × α)) (k : Nat) (v : α) (j : Nat) :
    smGet (smPut l k v) j = if k = j then some v else smGet l j := by
  induction l with
  | nil => simp [smPut, smGet]
  | cons e r ih =>
    obtain ⟨i, w⟩ := e
    simp only [smPut]
    split
    · simp only [smGet, ih]; split <;> split <;> simp_all
    · split
      · simp only [smGet]; split <;> simp_all
      · simp only [smGet]

@[simp] theorem smGet_smPut_same {α : Type} (l : List (Nat × α)) (k : Nat) (v : α) :
    smGet (smPut l k v) k = some v := by simp [smGet_smPut]

theorem smGet_smPut_other {α : Type} (l : List (Nat × α)) {k j : Nat} (v : α) (h : k ≠ j) :
    smGet (smPut l k v) j = smGet l j := by simp [smGet_smPut, h]

theorem smGet_smDel {α : Type} (l : List (Nat × α)) (k j : Nat) :
    smGet (smDel l k) j = if k = j then none else smGet l j := by
  induction l with
  | nil => simp [smDel, smGet]
  | cons e r ih =>
    obtain ⟨i, w⟩ := e
    simp only [smDel]
    split
    · simp only [ih, smGet]; split <;> simp_all
    · simp only [smGet, ih]; split <;> split <;> simp_all

theorem smGetD_smPut {α : Type} (l : List (Nat × α)) (k : Nat) (v : α) (j : Nat) (d : α) :
    smGetD (smPut l k v) j d = if k = j then v else smGetD l j d := by
  unfold smGetD; rw [smGet_smPut]; split <;> rfl

@[simp] theorem smGetD_smPut_same {α : Type} (l : List (Nat × α)) (k : Nat) (v d : α) :
    smGetD (smPut l k v) k d = v := by simp [smGetD_smPut]

theorem smGetD_smSet {α : Type} [DecidableEq α] (l : List (Nat × α)) (k : Nat) (v d : α) (j : Nat) :
    smGetD (smSet l k v d) j d = if k = j then v else smGetD l j d := by
  unfold smSet smGetD
  split
  · rw [smGet_smDel]; split <;> simp_all
  · rw [smGet_smPut]; split <;> simp_all

theorem smGet_smSet_other {α : Type} [DecidableEq α] (l : List (Nat × α)) {k j : Nat} (v d : α) (h : k ≠ j) :
    smGet (smSet l k v d) j = smGet l j := by
  unfold smSet; split
  · simp [smGet_smDel, h]
  · simp [smGet_smPut, h]

theorem smGet_filter {α : Type} (l : List (Nat × α)) (p : Nat → Bool) (k : Nat) :
    smGet (l.filter fun e => p e.1) k = if p k then smGet l k else none := by
  induction l with
  | nil => simp [smGet]
  | cons e r ih =>
    obtain ⟨i, w⟩ := e
    by_cases hp : p i <;> by_cases hk : i = k <;> simp_all [smGet]

/-! ## The canonical order -/

/-- Every key of the list is above k. -/
def above {α : Type} (k : Nat) (l : List (Nat × α)) : Prop := ∀ e ∈ l, k < e.1

theorem smSorted_cons {α : Type} (j : Nat) (v : α) (r : List (Nat × α)) :
    smSorted ((j, v) :: r) = true ↔ above j r ∧ smSorted r = true := by
  induction r generalizing j v with
  | nil => simp [smSorted, above]
  | cons e r ih =>
    obtain ⟨k, w⟩ := e
    simp only [smSorted, Bool.and_eq_true, decide_eq_true_eq, ih, above, List.mem_cons, forall_eq_or_imp]
    constructor
    · rintro ⟨h, h1, h2⟩; exact ⟨⟨h, fun e he => Nat.lt_trans h (h1 e he)⟩, h1, h2⟩
    · rintro ⟨⟨h, _⟩, h1, h2⟩; exact ⟨h, h1, h2⟩

theorem above_smPut {α : Type} (l : List (Nat × α)) {j k : Nat} (v : α) (h : j < k) (hl : above j l) :
    above j (smPut l k v) := by
  induction l with
  | nil => simpa [smPut, above] using h
  | cons e r ih =>
    obtain ⟨i, w⟩ := e
    have hi : j < i := hl (i, w) (by simp)
    have hr : above j r := fun e he => hl e (by simp [he])
    simp only [smPut]
    split
    · intro e he
      rcases List.mem_cons.1 he with rfl | he
      · exact hi
      · exact ih hr e he
    · split
      · intro e he
        rcases List.mem_cons.1 he with rfl | he
        · exact h
        · exact hr e he
      · intro e he
        rcases List.mem_cons.1 he with rfl | he
        · exact h
        · exact hl e he

theorem smSorted_smPut {α : Type} (l : List (Nat × α)) (k : Nat) (v : α) (h : smSorted l = true) :
    smSorted (smPut l k v) = true := by
  induction l with
  | nil => simp [smPut, smSorted]
  | cons e r ih =>
    obtain ⟨i, w⟩ := e
    obtain ⟨ha, hs⟩ := (smSorted_cons i w r).1 h
    simp only [smPut]
    split
    · rename_i hik
      exact (smSorted_cons i w _).2 ⟨above_smPut r v hik ha, ih hs⟩
    · split
      · rename_i hik; subst hik; exact (smSorted_cons i v r).2 ⟨ha, hs⟩
      · rename_i h1 h2
        refine (smSorted_cons k v _).2 ⟨?_, h⟩
        intro e he
        have hk : k < i := by omega
        rcases List.mem_cons.1 he with rfl | he
        · exact hk
        · exact Nat.lt_trans hk (ha e he)

theorem mem_smDel {α : Type} (l : List (Nat × α)) (k : Nat) (e : Nat × α) :
    e ∈ smDel l k ↔ e ∈ l ∧ e.1 ≠ k := by
  induction l with
  | nil => simp [smDel]
  | cons x r ih =>
    obtain ⟨i, w⟩ := x
    simp only [smDel]
    split
    · rename_i h
      rw [ih, List.mem_cons]
      constructor
      · rintro ⟨h1, h2⟩; exact ⟨Or.inr h1, h2⟩
      · rintro ⟨h1 | h1, h2⟩
        · subst h1; exact absurd h h2
        · exact ⟨h1, h2⟩
    · rename_i h
      rw [List.mem_cons, ih, List.mem_cons]
      constructor
      · rintro (h1 | ⟨h1, h2⟩)
        · subst h1; exact ⟨Or.inl rfl, h⟩
        · exact ⟨Or.inr h1, h2⟩
      · rintro ⟨h1 | h1, h2⟩
        · exact Or.inl h1
        · exact Or.inr ⟨h1, h2⟩

theorem smSorted_smDel {α : Type} (l : List (Nat × α)) (k : Nat) (h : smSorted l = true) :
    smSorted (smDel l k) = true := by
  induction l with
  | nil => rfl
  | cons e r ih =>
    obtain ⟨i, w⟩ := e
    obtain ⟨ha, hs⟩ := (smSorted_cons i w r).1 h
    simp only [smDel]
    split
    · exact ih hs
    · exact (smSorted_cons i w _).2 ⟨fun e he => ha e ((mem_smDel r k e).1 he).1, ih hs⟩

theorem smSorted_filter {α : Type} (l : List (Nat × α)) (p : Nat × α → Bool) (h : smSorted l = true) :
    smSorted (l.filter p) = true := by
  induction l with
  | nil => rfl
  | cons e r ih =>
    obtain ⟨i, w⟩ := e
    obtain ⟨ha, hs⟩ := (smSorted_cons i w r).1 h
    simp only [List.filter]
    split
    · exact (smSorted_cons i w _).2 ⟨fun e he => ha e (List.mem_filter.1 he).1, ih hs⟩
    · exact ih hs

theorem mem_smPut {α : Type} (l : List (Nat × α)) (k : Nat) (v : α) (e : Nat × α) (h : e ∈ smPut l k v) :
    e = (k, v) ∨ e ∈ l := by
  induction l with
  | nil => simp [smPut] at h; exact Or.inl h
  | cons x r ih =>
    obtain ⟨i, w⟩ := x
    simp only [smPut] at h
    split at h
    · rcases List.mem_cons.1 h with h | h
      · exact Or.inr (by simp [h])
      · rcases ih h with h | h
        · exact Or.inl h
        · exact Or.inr (by simp [h])
    · split at h
      · rcases List.mem_cons.1 h with h | h
        · exact Or.inl h
        · exact Or.inr (by simp [h])
      · rcases List.mem_cons.1 h with h | h
        · exact Or.inl h
        · exact Or.inr h

theorem smSorted_smSet {α : Type} [DecidableEq α] (l : List (Nat × α)) (k : Nat) (v d : α)
    (h : smSorted l = true) : smSorted (smSet l k v d) = true := by
  unfold smSet; split
  · exact smSorted_smDel l k h
  · exact smSorted_smPut l k v h

theorem mem_smSet {α : Type} [DecidableEq α] (l : List (Nat × α)) (k : Nat) (v d : α) (e : Nat × α)
    (h : e ∈ smSet l k v d) : e = (k, v) ∧ v ≠ d ∨ e ∈ l := by
  unfold smSet at h; split at h
  · exact Or.inr ((mem_smDel l k e).1 h).1
  · rename_i hv
    rcases mem_smPut l k v e h with h | h
    · exact Or.inl ⟨h, hv⟩
    · exact Or.inr h

/-! ## Bit fields and byte strings -/

theorem leBytes_length (x n : Nat) : (leBytes x n).length = n := by
  induction n generalizing x with
  | zero => rfl
  | succ n ih => simp [leBytes, ih]

theorem leNat_leBytes (x n : Nat) : leNat (leBytes x n) = x % 256 ^ n := by
  induction n generalizing x with
  | zero => simp [leBytes, leNat, Nat.mod_one]
  | succ n ih =>
    show (BitVec.ofNat 8 x).toNat + 256 * leNat (leBytes (x / 256) n) = _
    rw [BitVec.toNat_ofNat, ih, Nat.pow_succ 256 n, Nat.mul_comm (256 ^ n), Nat.mod_mul]

/-- The field just written reads back. -/
theorem bitsOf_putBits_same (n hi lo x : Nat) :
    bitsOf (putBits n hi lo x) hi lo = x % 2 ^ (hi + 1 - lo) := by
  have hw : 0 < 2 ^ lo := Nat.two_pow_pos lo
  have hm : 0 < 2 ^ (hi + 1 - lo) := Nat.two_pow_pos _
  have hle : bitsOf n hi lo * 2 ^ lo ≤ n :=
    Nat.le_trans (Nat.mul_le_mul_right _ (Nat.mod_le _ _)) (Nat.div_mul_le_self n (2 ^ lo))
  have hdiv : (n - bitsOf n hi lo * 2 ^ lo) / 2 ^ lo = n / 2 ^ lo - bitsOf n hi lo := by
    rw [Nat.mul_comm, Nat.sub_mul_div]
  simp only [putBits]
  have key : bitsOf (n - bitsOf n hi lo * 2 ^ lo + x % 2 ^ (hi + 1 - lo) * 2 ^ lo) hi lo =
      (n / 2 ^ lo - bitsOf n hi lo + x % 2 ^ (hi + 1 - lo)) % 2 ^ (hi + 1 - lo) := by
    show (_ / 2 ^ lo) % _ = _
    rw [Nat.add_mul_div_right _ _ hw, hdiv]
  rw [key]
  have hd : n / 2 ^ lo - bitsOf n hi lo = 2 ^ (hi + 1 - lo) * (n / 2 ^ lo / 2 ^ (hi + 1 - lo)) := by
    have := Nat.div_add_mod (n / 2 ^ lo) (2 ^ (hi + 1 - lo))
    unfold bitsOf; omega
  rw [hd, Nat.mul_add_mod, Nat.mod_mod]

/-- What a list reads as after one element is replaced. -/
theorem getD_putAt {α : Type} (l : List α) (d : α) (i : Nat) (v : α) (j : Nat) :
    ((putAt l d i v)[j]?).getD d = if i = j then v else (l[j]?).getD d := by
  induction l, i using putAt.induct generalizing j with
  | case1 => cases j <;> simp [putAt]
  | case2 i ih => cases j <;> simp [putAt, ih]
  | case3 x r => cases j <;> simp [putAt]
  | case4 x r i ih => cases j <;> simp [putAt, ih]

end Sys2Proof.Machine
end

