-- ==== Sys2Proof/Laws/Act.lean ====
section
/-! SUPPORT. How effects run: one lemma per combinator, and what a register, a byte and a unit read as after the
primitive effects. -/

namespace Sys2Proof.Machine

/-! ## Combinators -/

@[simp] theorem Act.nop_run (b : Block) : Act.nop.run b = b := (rfl)
@[simp] theorem Act.seq_run (x y : Act) (b : Block) : (x.seq y).run b = y.run (x.run b) := (rfl)
@[simp] theorem Act.all_nil (b : Block) : (Act.all []).run b = b := (rfl)
@[simp] theorem Act.all_cons (x : Act) (r : List Act) (b : Block) :
    (Act.all (x :: r)).run b = (Act.all r).run (x.run b) := (rfl)
@[simp] theorem Act.read_run (k : Block → Act) (b : Block) : (Act.read k).run b = (k b).run b := (rfl)
@[simp] theorem Act.each_nil {α : Type} (k : α → Act) (b : Block) : (Act.each [] k).run b = b := (rfl)
@[simp] theorem Act.each_cons {α : Type} (x : α) (r : List α) (k : α → Act) (b : Block) :
    (Act.each (x :: r) k).run b = (Act.each r k).run ((k x).run b) := (rfl)
@[simp] theorem Act.when_true (x : Act) : Act.when true x = x := (rfl)
@[simp] theorem Act.when_false (x : Act) : Act.when false x = Act.nop := (rfl)
@[simp] theorem Act.opt_some {α : Type} (x : α) (k : α → Act) : Act.opt (some x) k = k x := (rfl)
@[simp] theorem Act.opt_none {α : Type} (k : α → Act) : Act.opt none k = Act.nop := (rfl)
@[simp] theorem Act.whenB_run (c : Block → Bool) (x : Act) (b : Block) :
    (Act.whenB c x).run b = if c b then x.run b else b := by
  unfold Act.whenB Act.when; simp only [Act.read_run]; split <;> simp_all

/-- A command whose units exist answers the next state its effect gives. -/
@[simp] theorem perform_true (x : Act) (s : State) :
    perform true x s = .next { s with toBlock := x.run s.toBlock } := (rfl)

/-- A command that names a unit the module does not have is a fault. -/
@[simp] theorem perform_false (x : Act) (s : State) : perform false x s = .fault .noSuchUnit := (rfl)

/-- What a command that answers a next state did. -/
theorem perform_next {e : Bool} {x : Act} {s t : State} (h : perform e x s = .next t) :
    e = true ∧ t = { s with toBlock := x.run s.toBlock } := by
  cases e
  · simp at h
  · simp only [perform_true, Host.Outcome.next.injEq] at h; exact ⟨rfl, h.symm⟩

/-! ## Registers -/

/-- A register after another one's, or its own, write. -/
theorem rd_setReg (r q : Reg) (v : Nat) (b : Block) (h : r.addr ≠ q.addr) :
    rd ((Act.setReg r v).run b) q = rd b q := by
  unfold rd
  rw [Act.setReg_regs]
  unfold smGetD
  rw [smGet_smSet_other _ _ _ h]

/-- A register reads back what was written, cut to its width. -/
theorem rd_setReg_same (r : Reg) (v : Nat) (b : Block) (h : r.width ≤ 64) :
    rd ((Act.setReg r v).run b) r = v % 2 ^ r.width := by
  unfold rd
  rw [Act.setReg_regs, smGetD_smSet, if_pos rfl, BitVec.toNat_ofNat, Nat.mod_eq_of_lt]
  exact Nat.lt_of_lt_of_le (Nat.mod_lt _ (Nat.two_pow_pos _)) (Nat.pow_le_pow_right (by decide) h)

/-- Registers do not depend on memory and units. -/
theorem rd_congr {b c : Block} (h : b.regs = c.regs) (r : Reg) : rd b r = rd c r := by unfold rd; rw [h]

@[simp] theorem rd_setMem (a : Nat) (bs : Bytes) (b : Block) (r : Reg) : rd ((Act.setMem a bs).run b) r = rd b r := (rfl)
@[simp] theorem rd_resetMem (k : Nat → Bool) (b : Block) (r : Reg) : rd ((Act.resetMem k).run b) r = rd b r := (rfl)
@[simp] theorem rd_units (g : Units → Units) (b : Block) (r : Reg) : rd ((Act.units g).run b) r = rd b r := (rfl)

/-! ## Bytes -/

/-- A byte after a run of bytes was written. -/
theorem smGetD_cellsPut (m : List Host.Cell) (a : Nat) (bs : Bytes) (x : Nat) :
    smGetD (cellsPut m a bs) x memDefault =
      if a ≤ x ∧ x < a + bs.length then (bs[x - a]?).getD memDefault else smGetD m x memDefault := by
  induction bs generalizing m a with
  | nil => rw [if_neg (by simp only [List.length_nil]; omega)]; rfl
  | cons y r ih =>
    simp only [cellsPut, ih, List.length_cons]
    by_cases hx : x = a
    · subst hx
      rw [if_neg (by omega), if_pos (by omega), smGetD_smSet, if_pos rfl]; simp
    · rw [smGetD_smSet, if_neg (by omega : ¬ a = x)]
      by_cases h : a + 1 ≤ x ∧ x < a + 1 + r.length
      · rw [if_pos h, if_pos (by omega), show x - a = (x - (a + 1)) + 1 by omega, List.getElem?_cons_succ]
      · rw [if_neg h, if_neg (by omega)]

/-- Bytes written read back. -/
theorem byteAt_setMem (a : Nat) (bs : Bytes) (b : Block) (x : Nat) :
    byteAt ((Act.setMem a bs).run b) x =
      if a ≤ x ∧ x < a + bs.length then (bs[x - a]?).getD memDefault else byteAt b x :=
  smGetD_cellsPut b.mem a bs x

/-- Bytes outside a run keep their values. -/
theorem byteAt_setMem_other (a : Nat) (bs : Bytes) (b : Block) (x : Nat) (h : x < a ∨ a + bs.length ≤ x) :
    byteAt ((Act.setMem a bs).run b) x = byteAt b x := by
  rw [byteAt_setMem, if_neg (by omega)]

/-! ## Units -/

theorem core_onCore (c d : Nat) (g : CoreState → CoreState) (b : Block) :
    core ((Act.onCore c g).run b) d = if c = d then g (core b c) else core b d := by
  simp only [core, Act.onCore_cores, smGetD_smPut]
theorem obj_onObj (c d : Nat) (g : ObjState → ObjState) (b : Block) :
    obj ((Act.onObj c g).run b) d = if c = d then g (obj b c) else obj b d := by
  simp only [obj, Act.onObj_objs, smGetD_smPut]
theorem part_onPart (c d : Nat) (g : Partition → Partition) (b : Block) :
    part ((Act.onPart c g).run b) d = if c = d then g (part b c) else part b d := by
  simp only [part, Act.onPart_parts, smGetD_smPut]
theorem func_onFunc (c d : Nat) (g : Func → Func) (b : Block) :
    func ((Act.onFunc c g).run b) d = if c = d then g (func b c) else func b d := by
  simp only [func, Act.onFunc_funcs, smGetD_smPut]
theorem port_onPort (c d : Nat) (g : PortState → PortState) (b : Block) :
    port ((Act.onPort c g).run b) d = if c = d then g (port b c) else port b d := by
  simp only [port, Act.onPort_ports, smGetD_smPut]
theorem dir_onDir (c d : Nat) (g : DirFn → DirFn) (b : Block) :
    dir ((Act.onDir c g).run b) d = if c = d then g (dir b c) else dir b d := by
  simp only [dir, Act.onDir_dirs, smGetD_smPut]
theorem lpd_onLpd (c d : Nat) (g : Lpd → Lpd) (b : Block) :
    lpd ((Act.onLpd c g).run b) d = if c = d then g (lpd b c) else lpd b d := by
  simp only [lpd, Act.onLpd_lpds, smGetD_smPut]

end Sys2Proof.Machine
end

