-- ==== Sys2Proof/Laws/Canon.lean ====
section
/-! SUPPORT. What every command keeps: the canonical form of memory, and registers that hold words of their width. -/

namespace Sys2Proof.Machine

theorem Memory.wf_iff (m : List Host.Cell) :
    Memory.wf m = true ↔ smSorted m = true ∧ ∀ e ∈ m, e.2 ≠ memDefault := by
  simp [Memory.wf, List.all_eq_true]

/-- Writing one byte keeps the canonical form. -/
theorem Memory.wf_smSet (m : List Host.Cell) (a : Nat) (v : Byte) (h : Memory.wf m = true) :
    Memory.wf (smSet m a v memDefault) = true := by
  rw [Memory.wf_iff] at h ⊢
  refine ⟨smSorted_smSet m a v _ h.1, fun e he => ?_⟩
  rcases mem_smSet m a v memDefault e he with ⟨rfl, hv⟩ | he
  · exact hv
  · exact h.2 e he

/-- Writing a run of bytes keeps the canonical form. -/
theorem Memory.wf_cellsPut (m : List Host.Cell) (a : Nat) (bs : Bytes) (h : Memory.wf m = true) :
    Memory.wf (cellsPut m a bs) = true := by
  induction bs generalizing m a with
  | nil => exact h
  | cons b r ih => exact ih _ _ (Memory.wf_smSet m a b h)

/-- Clearing bytes keeps the canonical form. -/
theorem Memory.wf_filter (m : List Host.Cell) (p : Nat → Bool) (h : Memory.wf m = true) :
    Memory.wf (m.filter fun e => p e.1) = true := by
  rw [Memory.wf_iff] at h ⊢
  exact ⟨smSorted_filter m _ h.1, fun e he => h.2 e (List.mem_filter.1 he).1⟩

/-- Every command keeps the canonical form of memory. -/
theorem Steps.mem_wf {b c : Block} (h : Steps b c) (hb : Memory.wf b.mem = true) : Memory.wf c.mem = true := by
  induction h with
  | refl => exact hb
  | reg c r v _ ih => exact ih
  | regReset c k _ ih => exact ih
  | mem c a bs _ ih => exact Memory.wf_cellsPut c.mem a bs ih
  | memReset c k _ ih => exact Memory.wf_filter c.mem k ih
  | unit c u _ ih => exact ih

/-- What a command can do: an effect on everything but the queue, performed where its units exist. -/
theorem exec_performs (i : Instr) (s : State) : ∃ x : Act, exec i s = perform i.wf x s := by
  cases i <;> exact ⟨_, rfl⟩

/-- The empty memory is canonical. -/
theorem Memory.wf_reset : Memory.wf State.reset.mem = true := by decide

end Sys2Proof.Machine
end

