-- ==== Sys2Proof/Laws/Cells.lean ====
section
/-! SUPPORT. The cells and frames that the module makes are good (10_links.md R276, R295), and
so is an image that carries its CRC (09_schedules.md R245). -/

namespace Sys2Proof.Machine

/-- Four bytes replaced between a head of n and a tail. -/
theorem splice_at (n : Nat) (h m t d : Bytes) (hh : h.length = n) (hm : m.length = 4) (hd : d.length = 4) :
    spliceBytes (h ++ m ++ t) n d = h ++ d ++ t := by
  have e1 : (h ++ m ++ t).take n = h := by
    rw [List.append_assoc, List.take_append_of_le_length (by omega), List.take_of_length_le (by omega)]
  have e2 : (h ++ m ++ t).drop (n + 4) = t := by
    rw [List.drop_append_of_le_length (by simp; omega), List.drop_of_length_le (by simp; omega), List.nil_append]
  unfold spliceBytes
  rw [hd, e1, e2, List.take_of_length_le (by simp; omega)]

theorem leAt_mid (n : Nat) (h m t : Bytes) (hh : h.length = n) (hm : m.length = 4) : leAt (h ++ m ++ t) n 4 = leNat m := by
  unfold leAt
  rw [List.append_assoc, List.drop_append_of_le_length (by omega), List.drop_of_length_le (by omega), List.nil_append,
    List.take_append_of_le_length (by omega), List.take_of_length_le (by omega)]

/-- A cell that the module makes is good. -/
theorem cellOk_cellBytes (typ flags ch e f : Nat) (p : Bytes) (hp : p.length ≤ 384) :
    cellOk (cellBytes typ flags ch e f p) = true := by
  let h := leBytes typ 1 ++ leBytes flags 1 ++ leBytes ch 2 ++ leBytes p.length 2 ++ leBytes e 2 ++ leBytes f 4
  let t := p ++ List.replicate (384 - p.length) (0 : Byte)
  have hh : h.length = 12 := by simp only [h, List.length_append, leBytes_length]
  have ht : t.length = 384 := by simp only [t, List.length_append, List.length_replicate]; omega
  have e0 : cellBytes typ flags ch e f p =
      spliceBytes (h ++ leBytes 0 4 ++ t) 12 (leBytes (crc32c (h ++ leBytes 0 4 ++ t)).toNat 4) := by
    simp only [cellBytes, h, t, List.append_assoc]
  have z := leBytes_length 0 4
  have l := leBytes_length (crc32c (h ++ leBytes 0 4 ++ t)).toNat 4
  rw [e0, splice_at 12 h _ t _ hh z l]
  unfold cellOk
  rw [splice_at 12 h _ t _ hh l z, leAt_mid 12 h _ t hh l, leNat_leBytes]
  have := (crc32c (h ++ leBytes 0 4 ++ t)).isLt
  simp only [List.length_append, hh, ht, l,
    Nat.mod_eq_of_lt (show (crc32c (h ++ leBytes 0 4 ++ t)).toNat < 256 ^ 4 from this), beq_self_eq_true, Bool.and_self]

/-- An image between a head of 40 bytes and the rest carries the CRC over itself with that field as 0. -/
theorem imageCrcOk_of (h t : Bytes) (hh : h.length = 0x28) :
    imageCrcOk (h ++ leBytes (crc32c (h ++ leBytes 0 4 ++ t)).toNat 4 ++ t) = true := by
  have l := leBytes_length (crc32c (h ++ leBytes 0 4 ++ t)).toNat 4
  have := (crc32c (h ++ leBytes 0 4 ++ t)).isLt
  unfold imageCrcOk
  rw [splice_at 0x28 h _ t _ hh l (leBytes_length 0 4), leAt_mid 0x28 h _ t hh l, leNat_leBytes,
    Nat.mod_eq_of_lt (show (crc32c (h ++ leBytes 0 4 ++ t)).toNat < 256 ^ 4 from this), beq_self_eq_true]

/-- So is a frame that it makes. -/
theorem frameOk_withFcs (f : Bytes) (h : f.length ≤ 9212) : frameOk (withFcs f) = true := by
  let g := f ++ List.replicate (60 - f.length) (0 : Byte)
  have hg : g.length = max f.length 60 := by simp only [g, List.length_append, List.length_replicate]; omega
  have l := leBytes_length (crc32 g).toNat 4
  have e : withFcs f = g ++ leBytes (crc32 g).toNat 4 := rfl
  have n : (withFcs f).length = g.length + 4 := by rw [e, List.length_append, l]
  have := (crc32 g).isLt
  unfold frameOk leAt
  rw [n, e, Nat.add_sub_cancel, List.take_append_of_le_length (Nat.le_refl _), List.take_of_length_le (Nat.le_refl _),
    List.drop_append_of_le_length (Nat.le_refl _), List.drop_of_length_le (Nat.le_refl _), List.nil_append,
    List.take_of_length_le (by omega), leNat_leBytes, Nat.mod_eq_of_lt (show (crc32 g).toNat < 256 ^ 4 from this),
    beq_self_eq_true, Bool.and_true]
  simp only [Bool.and_eq_true, decide_eq_true_eq]
  omega

end Sys2Proof.Machine
end

