-- ==== Sys2Proof/Laws/Regs.lean ====
section
/-! SUPPORT. The address of each register, by definition. -/

namespace Sys2Proof.Machine

@[simp] theorem Reg.addr_srlId : Reg.srlId.addr = srlBase := (rfl)
@[simp] theorem Reg.addr_srlSerial : Reg.srlSerial.addr = srlBase + 0x8 := (rfl)
@[simp] theorem Reg.addr_srlFencedPlots : Reg.srlFencedPlots.addr = srlBase + 0x10 := (rfl)
@[simp] theorem Reg.addr_srlBeat : Reg.srlBeat.addr = srlBase + 0x100 := (rfl)
@[simp] theorem Reg.addr_srlDomId : Reg.srlDomId.addr = srlBase + 0x108 := (rfl)
@[simp] theorem Reg.addr_srlDomStatus : Reg.srlDomStatus.addr = srlBase + 0x110 := (rfl)
@[simp] theorem Reg.addr_srlDomLosses : Reg.srlDomLosses.addr = srlBase + 0x114 := (rfl)
@[simp] theorem Reg.addr_srlDomLate : Reg.srlDomLate.addr = srlBase + 0x118 := (rfl)
@[simp] theorem Reg.addr_coreId (c : Nat) : (Reg.coreId c).addr = coreBase c + 0x0 := (rfl)
@[simp] theorem Reg.addr_coreStatus (c : Nat) : (Reg.coreStatus c).addr = coreBase c + 0x4 := (rfl)
@[simp] theorem Reg.addr_coreBankWait (c : Nat) : (Reg.coreBankWait c).addr = coreBase c + 0x10 := (rfl)
@[simp] theorem Reg.addr_coreSslotScale (c n : Nat) :
    (Reg.coreSslotScale c n).addr = coreBase c + 0x400 + n * 0x10 := (rfl)
@[simp] theorem Reg.addr_coreSslotAmax (c n : Nat) :
    (Reg.coreSslotAmax c n).addr = coreBase c + 0x404 + n * 0x10 := (rfl)
@[simp] theorem Reg.addr_coreSslotCfg (c n : Nat) : (Reg.coreSslotCfg c n).addr = coreBase c + 0x408 + n * 0x10 := (rfl)
@[simp] theorem Reg.addr_coreCnvSat (c : Nat) : (Reg.coreCnvSat c).addr = coreBase c + 0x800 := (rfl)
@[simp] theorem Reg.addr_coreCnvFlush (c : Nat) : (Reg.coreCnvFlush c).addr = coreBase c + 0x804 := (rfl)
@[simp] theorem Reg.addr_coreCnvNan (c : Nat) : (Reg.coreCnvNan c).addr = coreBase c + 0x808 := (rfl)
@[simp] theorem Reg.addr_coreCnvOvf (c : Nat) : (Reg.coreCnvOvf c).addr = coreBase c + 0x80c := (rfl)
@[simp] theorem Reg.addr_arrStatus (c a : Nat) : (Reg.arrStatus c a).addr = coreBase c + 0x1000 + a * 0x1000 := (rfl)
@[simp] theorem Reg.addr_arrTiles (c a : Nat) :
    (Reg.arrTiles c a).addr = coreBase c + 0x1000 + a * 0x1000 + 0x8 := (rfl)
@[simp] theorem Reg.addr_arrAccCyc (c a : Nat) :
    (Reg.arrAccCyc c a).addr = coreBase c + 0x1000 + a * 0x1000 + 0x10 := (rfl)
@[simp] theorem Reg.addr_arrHoldCyc (c a : Nat) :
    (Reg.arrHoldCyc c a).addr = coreBase c + 0x1000 + a * 0x1000 + 0x18 := (rfl)
@[simp] theorem Reg.addr_arrDrainWait (c a : Nat) :
    (Reg.arrDrainWait c a).addr = coreBase c + 0x1000 + a * 0x1000 + 0x20 := (rfl)
@[simp] theorem Reg.addr_seqStatus (c : Nat) : (Reg.seqStatus c).addr = coreBase c + 0x3000 := (rfl)
@[simp] theorem Reg.addr_seqInvoc (c : Nat) : (Reg.seqInvoc c).addr = coreBase c + 0x3008 := (rfl)
@[simp] theorem Reg.addr_seqFault (c : Nat) : (Reg.seqFault c).addr = coreBase c + 0x3010 := (rfl)
@[simp] theorem Reg.addr_seqCrec (c w : Nat) : (Reg.seqCrec c w).addr = coreBase c + 0x3040 + w * 4 := (rfl)
@[simp] theorem Reg.addr_seqLoop (c n : Nat) : (Reg.seqLoop c n).addr = coreBase c + 0x3060 + n * 4 := (rfl)
@[simp] theorem Reg.addr_seqRs (c st w : Nat) :
    (Reg.seqRs c st w).addr = coreBase c + 0x3100 + st * 0x20 + w * 4 := (rfl)
@[simp] theorem Reg.addr_strStatus (c : Nat) : (Reg.strStatus c).addr = coreBase c + 0x4000 := (rfl)
@[simp] theorem Reg.addr_strFault (c : Nat) : (Reg.strFault c).addr = coreBase c + 0x4004 := (rfl)
@[simp] theorem Reg.addr_strInqHwm (c : Nat) : (Reg.strInqHwm c).addr = coreBase c + 0x4008 := (rfl)
@[simp] theorem Reg.addr_strMoves (c : Nat) : (Reg.strMoves c).addr = coreBase c + 0x4010 := (rfl)
@[simp] theorem Reg.addr_strCtx (c x : Nat) : (Reg.strCtx c x).addr = coreBase c + 0x4040 + x * 4 := (rfl)
@[simp] theorem Reg.addr_strRingBase (c n : Nat) : (Reg.strRingBase c n).addr = coreBase c + 0x4100 + n * 0x10 := (rfl)
@[simp] theorem Reg.addr_strRingGeom (c n : Nat) : (Reg.strRingGeom c n).addr = coreBase c + 0x4104 + n * 0x10 := (rfl)
@[simp] theorem Reg.addr_strRingObj (c n : Nat) : (Reg.strRingObj c n).addr = coreBase c + 0x4108 + n * 0x10 := (rfl)
@[simp] theorem Reg.addr_strRingPtr (c n : Nat) : (Reg.strRingPtr c n).addr = coreBase c + 0x410C + n * 0x10 := (rfl)
@[simp] theorem Reg.addr_chkStatus (c : Nat) : (Reg.chkStatus c).addr = coreBase c + 0x5000 := (rfl)
@[simp] theorem Reg.addr_chkInject (c : Nat) : (Reg.chkInject c).addr = coreBase c + 0x5004 := (rfl)
@[simp] theorem Reg.addr_chkDetections (c : Nat) : (Reg.chkDetections c).addr = coreBase c + 0x5008 := (rfl)
@[simp] theorem Reg.addr_chkReplays (c : Nat) : (Reg.chkReplays c).addr = coreBase c + 0x5010 := (rfl)
@[simp] theorem Reg.addr_chkEccCorr (c : Nat) : (Reg.chkEccCorr c).addr = coreBase c + 0x5018 := (rfl)
@[simp] theorem Reg.addr_chkKatRuns (c : Nat) : (Reg.chkKatRuns c).addr = coreBase c + 0x5020 := (rfl)
@[simp] theorem Reg.addr_chkKatGapMax (c : Nat) : (Reg.chkKatGapMax c).addr = coreBase c + 0x5028 := (rfl)
@[simp] theorem Reg.addr_chkKatLastA0 (c : Nat) : (Reg.chkKatLastA0 c).addr = coreBase c + 0x5030 := (rfl)
@[simp] theorem Reg.addr_chkKatLastA1 (c : Nat) : (Reg.chkKatLastA1 c).addr = coreBase c + 0x5038 := (rfl)
@[simp] theorem Reg.addr_chkKatLastVec (c : Nat) : (Reg.chkKatLastVec c).addr = coreBase c + 0x5040 := (rfl)
@[simp] theorem Reg.addr_mbxPage (f w : Nat) : (Reg.mbxPage f w).addr = mbxBase + f * 0x10000 + w * 4 := (rfl)
@[simp] theorem Reg.addr_mbxMb (f m : Nat) : (Reg.mbxMb f m).addr = mbxBase + f * 0x10000 + 0x8000 + m * 4 := (rfl)
@[simp] theorem Reg.addr_mbxFunc (f : Nat) : (Reg.mbxFunc f).addr = mbxBase + f * 0x10000 + 0x8100 := (rfl)
@[simp] theorem Reg.addr_mbxWinBase (f : Nat) : (Reg.mbxWinBase f).addr = mbxBase + f * 0x10000 + 0x8108 := (rfl)
@[simp] theorem Reg.addr_mbxExpDone (f n : Nat) :
    (Reg.mbxExpDone f n).addr = mbxBase + f * 0x10000 + 0x8110 + n * 4 := (rfl)
@[simp] theorem Reg.addr_mbxEvent (f : Nat) : (Reg.mbxEvent f).addr = mbxBase + f * 0x10000 + 0x8120 := (rfl)
@[simp] theorem Reg.addr_msixTable (f w : Nat) :
    (Reg.msixTable f w).addr = mbxBase + f * 0x10000 + 0x9000 + w * 4 := (rfl)
@[simp] theorem Reg.addr_msixPba (f : Nat) : (Reg.msixPba f).addr = mbxBase + f * 0x10000 + 0x9800 := (rfl)
@[simp] theorem Reg.addr_expTable (f w : Nat) :
    (Reg.expTable f w).addr = mbxBase + f * 0x10000 + 0xA000 + w * 4 := (rfl)
@[simp] theorem Reg.addr_synStatus : Reg.synStatus.addr = synBase := (rfl)
@[simp] theorem Reg.addr_synOverruns : Reg.synOverruns.addr = synBase + 0x8 := (rfl)
@[simp] theorem Reg.addr_synObjCfg (n : Nat) : (Reg.synObjCfg n).addr = synBase + 0x100000 + n * 0x10 := (rfl)
@[simp] theorem Reg.addr_synObjState (n : Nat) : (Reg.synObjState n).addr = synBase + 0x100000 + n * 0x10 + 0x4 := (rfl)
@[simp] theorem Reg.addr_synObjWaiters (n : Nat) :
    (Reg.synObjWaiters n).addr = synBase + 0x100000 + n * 0x10 + 0x8 := (rfl)
@[simp] theorem Reg.addr_synObjOwner (n : Nat) : (Reg.synObjOwner n).addr = synBase + 0x100000 + n * 0x10 + 0xC := (rfl)
@[simp] theorem Reg.addr_chkPerm : Reg.chkPerm.addr = chkBase := (rfl)
@[simp] theorem Reg.addr_chkSession : Reg.chkSession.addr = chkBase + 0x4 := (rfl)
@[simp] theorem Reg.addr_chkUtcOffset : Reg.chkUtcOffset.addr = chkBase + 0x8 := (rfl)
@[simp] theorem Reg.addr_chkLogSeq : Reg.chkLogSeq.addr = chkBase + 0x10 := (rfl)
@[simp] theorem Reg.addr_chkLogDropped : Reg.chkLogDropped.addr = chkBase + 0x14 := (rfl)
@[simp] theorem Reg.addr_chkFenced : Reg.chkFenced.addr = chkBase + 0x18 := (rfl)
@[simp] theorem Reg.addr_chkEpochsFailed : Reg.chkEpochsFailed.addr = chkBase + 0x20 := (rfl)
@[simp] theorem Reg.addr_chkUncontained : Reg.chkUncontained.addr = chkBase + 0x28 := (rfl)
@[simp] theorem Reg.addr_lnkCfg (p : Nat) : (Reg.lnkCfg p).addr = lnkBase + p * 0x10000 := (rfl)
@[simp] theorem Reg.addr_lnkStatus (p : Nat) : (Reg.lnkStatus p).addr = lnkBase + p * 0x10000 + 0x4 := (rfl)
@[simp] theorem Reg.addr_lnkDelay (p : Nat) : (Reg.lnkDelay p).addr = lnkBase + p * 0x10000 + 0x8 := (rfl)
@[simp] theorem Reg.addr_lnkTxCells (p : Nat) : (Reg.lnkTxCells p).addr = lnkBase + p * 0x10000 + 0x10 := (rfl)
@[simp] theorem Reg.addr_lnkRxCells (p : Nat) : (Reg.lnkRxCells p).addr = lnkBase + p * 0x10000 + 0x18 := (rfl)
@[simp] theorem Reg.addr_lnkRxBad (p : Nat) : (Reg.lnkRxBad p).addr = lnkBase + p * 0x10000 + 0x20 := (rfl)
@[simp] theorem Reg.addr_lnkReplays (p : Nat) : (Reg.lnkReplays p).addr = lnkBase + p * 0x10000 + 0x28 := (rfl)
@[simp] theorem Reg.addr_lnkFecCorr (p : Nat) : (Reg.lnkFecCorr p).addr = lnkBase + p * 0x10000 + 0x30 := (rfl)
@[simp] theorem Reg.addr_lnkFecUncorr (p : Nat) : (Reg.lnkFecUncorr p).addr = lnkBase + p * 0x10000 + 0x38 := (rfl)
@[simp] theorem Reg.addr_lnkDownshifts (p : Nat) : (Reg.lnkDownshifts p).addr = lnkBase + p * 0x10000 + 0x40 := (rfl)
@[simp] theorem Reg.addr_lnkEthDiscard (p : Nat) : (Reg.lnkEthDiscard p).addr = lnkBase + p * 0x10000 + 0x48 := (rfl)
@[simp] theorem Reg.addr_lnkEthMac (p : Nat) : (Reg.lnkEthMac p).addr = lnkBase + p * 0x10000 + 0x100 := (rfl)
@[simp] theorem Reg.addr_lnkEthIp6 (p w : Nat) :
    (Reg.lnkEthIp6 p w).addr = lnkBase + p * 0x10000 + 0x110 + w * 4 := (rfl)
@[simp] theorem Reg.addr_lnkEthIp4 (p : Nat) : (Reg.lnkEthIp4 p).addr = lnkBase + p * 0x10000 + 0x120 := (rfl)
@[simp] theorem Reg.addr_lnkEthL4 (p : Nat) : (Reg.lnkEthL4 p).addr = lnkBase + p * 0x10000 + 0x124 := (rfl)
@[simp] theorem Reg.addr_lnkEthSeg (p : Nat) : (Reg.lnkEthSeg p).addr = lnkBase + p * 0x10000 + 0x128 := (rfl)
@[simp] theorem Reg.addr_lnkEthRto (p : Nat) : (Reg.lnkEthRto p).addr = lnkBase + p * 0x10000 + 0x12C := (rfl)
@[simp] theorem Reg.addr_tslStatus (e : Nat) : (Reg.tslStatus e).addr = tslBase + e * 0x100000 := (rfl)
@[simp] theorem Reg.addr_tslPages (e : Nat) : (Reg.tslPages e).addr = tslBase + e * 0x100000 + 0x10 := (rfl)
@[simp] theorem Reg.addr_tslBytes (e : Nat) : (Reg.tslBytes e).addr = tslBase + e * 0x100000 + 0x18 := (rfl)
@[simp] theorem Reg.addr_tslRetx (e : Nat) : (Reg.tslRetx e).addr = tslBase + e * 0x100000 + 0x20 := (rfl)
@[simp] theorem Reg.addr_tslCnvSat (e : Nat) : (Reg.tslCnvSat e).addr = tslBase + e * 0x100000 + 0x28 := (rfl)
@[simp] theorem Reg.addr_tslCnvFlush (e : Nat) : (Reg.tslCnvFlush e).addr = tslBase + e * 0x100000 + 0x2c := (rfl)
@[simp] theorem Reg.addr_tslCnvNan (e : Nat) : (Reg.tslCnvNan e).addr = tslBase + e * 0x100000 + 0x30 := (rfl)
@[simp] theorem Reg.addr_tslPoisoned (e : Nat) : (Reg.tslPoisoned e).addr = tslBase + e * 0x100000 + 0x34 := (rfl)
@[simp] theorem Reg.addr_tslRate (e f : Nat) : (Reg.tslRate e f).addr = tslBase + e * 0x100000 + 0x100 + f * 4 := (rfl)
@[simp] theorem Reg.addr_tslDirCfg (e f : Nat) :
    (Reg.tslDirCfg e f).addr = tslBase + e * 0x100000 + 0x80000 + f * 0x40 := (rfl)
@[simp] theorem Reg.addr_tslDirQuota (e f : Nat) :
    (Reg.tslDirQuota e f).addr = tslBase + e * 0x100000 + 0x80000 + f * 0x40 + 0x4 := (rfl)
@[simp] theorem Reg.addr_tslDirEntries (e f : Nat) :
    (Reg.tslDirEntries e f).addr = tslBase + e * 0x100000 + 0x80000 + f * 0x40 + 0x8 := (rfl)
@[simp] theorem Reg.addr_tslDirPool (e f : Nat) :
    (Reg.tslDirPool e f).addr = tslBase + e * 0x100000 + 0x80000 + f * 0x40 + 0xC := (rfl)
@[simp] theorem Reg.addr_tslDirFree (e f : Nat) :
    (Reg.tslDirFree e f).addr = tslBase + e * 0x100000 + 0x80000 + f * 0x40 + 0x10 := (rfl)
@[simp] theorem Reg.addr_tslDirHits (e f : Nat) :
    (Reg.tslDirHits e f).addr = tslBase + e * 0x100000 + 0x80000 + f * 0x40 + 0x18 := (rfl)
@[simp] theorem Reg.addr_tslDirMisses (e f : Nat) :
    (Reg.tslDirMisses e f).addr = tslBase + e * 0x100000 + 0x80000 + f * 0x40 + 0x20 := (rfl)
@[simp] theorem Reg.addr_tslDirDrops (e f : Nat) :
    (Reg.tslDirDrops e f).addr = tslBase + e * 0x100000 + 0x80000 + f * 0x40 + 0x28 := (rfl)
@[simp] theorem Reg.addr_tslDirInsSkip (e f : Nat) :
    (Reg.tslDirInsSkip e f).addr = tslBase + e * 0x100000 + 0x80000 + f * 0x40 + 0x30 := (rfl)
@[simp] theorem Reg.addr_lpdStatus (k : Nat) : (Reg.lpdStatus k).addr = lpdBase + k * 0x10000 := (rfl)
@[simp] theorem Reg.addr_lpdTrnOvr (k : Nat) : (Reg.lpdTrnOvr k).addr = lpdBase + k * 0x10000 + 0x4 := (rfl)
@[simp] theorem Reg.addr_lpdScrub (k : Nat) : (Reg.lpdScrub k).addr = lpdBase + k * 0x10000 + 0x8 := (rfl)
@[simp] theorem Reg.addr_lpdEccCorr (k : Nat) : (Reg.lpdEccCorr k).addr = lpdBase + k * 0x10000 + 0x10 := (rfl)
@[simp] theorem Reg.addr_lpdEccUncorr (k : Nat) : (Reg.lpdEccUncorr k).addr = lpdBase + k * 0x10000 + 0x18 := (rfl)
@[simp] theorem Reg.addr_lpdRdBytes (k : Nat) : (Reg.lpdRdBytes k).addr = lpdBase + k * 0x10000 + 0x20 := (rfl)
@[simp] theorem Reg.addr_lpdWrBytes (k : Nat) : (Reg.lpdWrBytes k).addr = lpdBase + k * 0x10000 + 0x28 := (rfl)
@[simp] theorem Reg.addr_lpdScrubPasses (k : Nat) : (Reg.lpdScrubPasses k).addr = lpdBase + k * 0x10000 + 0x30 := (rfl)
@[simp] theorem Reg.addr_lpdSlot (k n : Nat) : (Reg.lpdSlot k n).addr = lpdBase + k * 0x10000 + 0x100 + n * 4 := (rfl)
@[simp] theorem Reg.addr_xltRoot (f : Nat) : (Reg.xltRoot f).addr = xltBase + 0x100 + f * 0x40 := (rfl)
@[simp] theorem Reg.addr_xltFltVa (f : Nat) : (Reg.xltFltVa f).addr = xltBase + 0x100 + f * 0x40 + 0x8 := (rfl)
@[simp] theorem Reg.addr_xltFltInfo (f : Nat) : (Reg.xltFltInfo f).addr = xltBase + 0x100 + f * 0x40 + 0x10 := (rfl)
@[simp] theorem Reg.addr_xltWalks (f : Nat) : (Reg.xltWalks f).addr = xltBase + 0x100 + f * 0x40 + 0x18 := (rfl)
@[simp] theorem Reg.addr_xltDrops (f : Nat) : (Reg.xltDrops f).addr = xltBase + 0x100 + f * 0x40 + 0x20 := (rfl)
@[simp] theorem Reg.addr_pwrInStatus : Reg.pwrInStatus.addr = pwrBase := (rfl)
@[simp] theorem Reg.addr_pwrInLatch : Reg.pwrInLatch.addr = pwrBase + 0x4 := (rfl)
@[simp] theorem Reg.addr_pwrVin : Reg.pwrVin.addr = pwrBase + 0x8 := (rfl)
@[simp] theorem Reg.addr_pwrIin : Reg.pwrIin.addr = pwrBase + 0xc := (rfl)
@[simp] theorem Reg.addr_pwrPin : Reg.pwrPin.addr = pwrBase + 0x10 := (rfl)
@[simp] theorem Reg.addr_pwrCool : Reg.pwrCool.addr = pwrBase + 0x14 := (rfl)
@[simp] theorem Reg.addr_pwrFlow : Reg.pwrFlow.addr = pwrBase + 0x18 := (rfl)
@[simp] theorem Reg.addr_pwrLastTrip : Reg.pwrLastTrip.addr = pwrBase + 0x1C := (rfl)
@[simp] theorem Reg.addr_pwrModstate : Reg.pwrModstate.addr = pwrBase + 0x20 := (rfl)
@[simp] theorem Reg.addr_pwrBoot : Reg.pwrBoot.addr = pwrBase + 0x24 := (rfl)
@[simp] theorem Reg.addr_pwrBootRsn : Reg.pwrBootRsn.addr = pwrBase + 0x28 := (rfl)
@[simp] theorem Reg.addr_pwrLimit : Reg.pwrLimit.addr = pwrBase + 0x100 := (rfl)
@[simp] theorem Reg.addr_pwrFix : Reg.pwrFix.addr = pwrBase + 0x104 := (rfl)
@[simp] theorem Reg.addr_pwrExcess : Reg.pwrExcess.addr = pwrBase + 0x108 := (rfl)
@[simp] theorem Reg.addr_pwrAlloc (f : Nat) : (Reg.pwrAlloc f).addr = pwrBase + 0x140 + f * 4 := (rfl)
@[simp] theorem Reg.addr_pwrSensor (i : Nat) : (Reg.pwrSensor i).addr = pwrBase + 0x400 + i * 4 := (rfl)
@[simp] theorem Reg.addr_telBoot (e : Nat) : (Reg.telBoot e).addr = telBase + e * 0x100000 := (rfl)
@[simp] theorem Reg.addr_telBootTime (e : Nat) : (Reg.telBootTime e).addr = telBase + e * 0x100000 + 0x8 := (rfl)
@[simp] theorem Reg.addr_secStatus : Reg.secStatus.addr = secBase := (rfl)
@[simp] theorem Reg.addr_secArb : Reg.secArb.addr = secBase + 0x4 := (rfl)
@[simp] theorem Reg.addr_secKeyhash (k w : Nat) :
    (Reg.secKeyhash k w).addr = secBase + 0x100 + k * 0x40 + w * 8 := (rfl)
@[simp] theorem Reg.addr_uciStatus (e : Nat) : (Reg.uciStatus e).addr = uciBase + e * 0x100000 := (rfl)
@[simp] theorem Reg.addr_uciCfg (e : Nat) : (Reg.uciCfg e).addr = uciBase + e * 0x100000 + 0x4 := (rfl)
@[simp] theorem Reg.addr_uciCrcErr (e : Nat) : (Reg.uciCrcErr e).addr = uciBase + e * 0x100000 + 0x8 := (rfl)
@[simp] theorem Reg.addr_uciReplays (e : Nat) : (Reg.uciReplays e).addr = uciBase + e * 0x100000 + 0x10 := (rfl)
@[simp] theorem Reg.addr_uciDowns (e : Nat) : (Reg.uciDowns e).addr = uciBase + e * 0x100000 + 0x18 := (rfl)

end Sys2Proof.Machine
end

