-- ==== Sys2Proof/Laws/Frame.lean ====
section
/-! SUPPORT. What effects leave: one predicate for any part of the block, closed under the combinators, and what the
named operations of Machine/Ops.lean and Machine/Sequencer.lean do. -/

namespace Sys2Proof.Machine

/-- A command whose units exist runs, and its block is what its effect makes. -/
theorem Runs.of_perform {i : Instr} {s : State} {P : Block → Prop} {u : Bool} {x : Act} (h : exec i s = perform u x s)
    (hu : u = true) (hp : P (x.run s.toBlock)) : Runs i s P := by
  subst hu; exact ⟨_, h, rfl, hp⟩

/-- Core ids are below 25,600. -/
theorem isCore_lt {c : Nat} (h : isCore c = true) : c < 25600 := of_decide_eq_true h

/-- The effect leaves the part π of every block. -/
structure Act.Keeps {α : Type} (π : Block → α) (x : Act) : Prop where
  eq : ∀ b, π (x.run b) = π b

section
variable {α β : Type} {π : Block → α}

theorem Act.Keeps.nop : Act.nop.Keeps π := ⟨fun _ => rfl⟩
theorem Act.Keeps.seq {x y : Act} (hx : x.Keeps π) (hy : y.Keeps π) : (x.seq y).Keeps π :=
  ⟨fun b => (hy.1 _).trans (hx.1 b)⟩
theorem Act.Keeps.nil : (Act.all []).Keeps π := ⟨fun _ => rfl⟩
theorem Act.Keeps.cons {x : Act} {l : List Act} (hx : x.Keeps π) (hl : (Act.all l).Keeps π) :
    (Act.all (x :: l)).Keeps π := ⟨fun b => (hl.1 _).trans (hx.1 b)⟩
theorem Act.Keeps.read {k : Block → Act} (h : ∀ b, (k b).Keeps π) : (Act.read k).Keeps π := ⟨fun b => (h b).1 b⟩
theorem Act.Keeps.each {l : List β} {k : β → Act} (h : ∀ x, (k x).Keeps π) : (Act.each l k).Keeps π := by
  induction l with
  | nil => exact ⟨fun _ => rfl⟩
  | cons x r ih => exact ⟨fun b => (ih.1 _).trans ((h x).1 b)⟩
theorem Act.Keeps.eachMem {l : List β} {k : β → Act} (h : ∀ x ∈ l, (k x).Keeps π) : (Act.each l k).Keeps π := by
  induction l with
  | nil => exact ⟨fun _ => rfl⟩
  | cons x r ih =>
    exact ⟨fun b => ((ih fun y hy => h y (List.mem_cons_of_mem _ hy)).1 _).trans ((h x List.mem_cons_self).1 b)⟩
theorem Act.Keeps.when {c : Bool} {x : Act} (h : x.Keeps π) : (Act.when c x).Keeps π := by
  unfold Act.when; split
  · exact h
  · exact ⟨fun _ => rfl⟩
theorem Act.Keeps.whenB {c : Block → Bool} {x : Act} (h : x.Keeps π) : (Act.whenB c x).Keeps π :=
  Act.Keeps.read fun _ => Act.Keeps.when h
theorem Act.Keeps.opt {o : Option β} {k : β → Act} (h : ∀ x, (k x).Keeps π) : (Act.opt o k).Keeps π := by
  cases o with
  | none => exact ⟨fun _ => rfl⟩
  | some x => exact h x
theorem Act.Keeps.ite {p : Prop} [Decidable p] {x y : Act} (hx : x.Keeps π) (hy : y.Keeps π) :
    (if p then x else y).Keeps π := by split <;> assumption
theorem Act.Keeps.units {g : Units → Units} (h : ∀ b : Block, π { b with toUnits := g b.toUnits } = π b) :
    (Act.units g).Keeps π := ⟨h⟩
end

/-- A register's word, by its address. -/
abbrev wordAt (a : Nat) (b : Block) : Option DWord := smGet b.regs a

theorem Act.Keeps.setReg {a : Nat} {r : Reg} {v : Nat} (h : r.addr ≠ a) : (Act.setReg r v).Keeps (wordAt a) :=
  ⟨fun b => by simp only [wordAt, Act.setReg_regs]; exact smGet_smSet_other _ _ _ h⟩
theorem Act.Keeps.setFld {a : Nat} {r : Reg} {hi lo v : Nat} (h : r.addr ≠ a) :
    (Act.setFld r hi lo v).Keeps (wordAt a) := Act.Keeps.read fun _ => Act.Keeps.setReg h
theorem Act.Keeps.count {a : Nat} {r : Reg} {n : Nat} (h : r.addr ≠ a) : (Act.count r n).Keeps (wordAt a) :=
  Act.Keeps.read fun _ => Act.Keeps.setReg h

/-- Two blocks agree on a register when they agree on its address. -/
theorem rd_of_wordAt {b b' : Block} {r : Reg} (h : wordAt r.addr b' = wordAt r.addr b) : rd b' r = rd b r := by
  unfold rd smGetD; rw [show smGet b'.regs r.addr = smGet b.regs r.addr from h]

/-- An effect that leaves every register outside some windows. -/
theorem Act.regsKept {x : Act} {w : List (Nat × Nat)}
    (h : ∀ a, (∀ y ∈ w, a < y.1 ∨ y.1 + y.2 ≤ a) → x.Keeps (wordAt a)) (b : Block) : RegsKept b (x.run b) w :=
  fun r hr => rd_of_wordAt ((h r.addr hr).1 b)

/-- An effect that leaves every byte outside some windows. -/
theorem Act.bytesKept {x : Act} {w : List (Nat × Nat)}
    (h : ∀ a, (∀ y ∈ w, a < y.1 ∨ y.1 + y.2 ≤ a) → x.Keeps (fun b => byteAt b a)) (b : Block) :
    BytesKept b (x.run b) w := fun a ha => (h a ha).1 b

theorem RegsKept.trans {b c d : Block} {w : List (Nat × Nat)} (h : RegsKept b c w) (k : RegsKept c d w) :
    RegsKept b d w := fun r hr => (k r hr).trans (h r hr)
theorem RegsKept.refl (b : Block) (w : List (Nat × Nat)) : RegsKept b b w := fun _ _ => rfl
theorem BytesKept.of_mem {b c : Block} {w : List (Nat × Nat)} (h : c.mem = b.mem) : BytesKept b c w :=
  fun a _ => by unfold byteAt; rw [h]

/-! ## Bit fields -/

theorem bitsOf_mod (n w hi lo : Nat) (hl : lo ≤ hi) (hw : hi < w) : bitsOf (n % 2 ^ w) hi lo = bitsOf n hi lo := by
  obtain ⟨m, rfl⟩ : ∃ m, w = lo + ((hi + 1 - lo) + m) := ⟨w - (hi + 1), by omega⟩
  unfold bitsOf
  rw [Nat.pow_add 2 lo, Nat.mod_mul_right_div_self, Nat.pow_add, Nat.mod_mod_of_dvd _ (Nat.dvd_mul_right _ _)]

/-- What putBits makes: the bits above, the new field, the bits below. -/
theorem putBits_eq (n hi lo x : Nat) (hl : lo ≤ hi) :
    putBits n hi lo x = n / 2 ^ (hi + 1) * 2 ^ (hi + 1) + x % 2 ^ (hi + 1 - lo) * 2 ^ lo + n % 2 ^ lo := by
  have hp : (2 : Nat) ^ (hi + 1) = 2 ^ lo * 2 ^ (hi + 1 - lo) := by rw [← Nat.pow_add]; congr 1; omega
  have h1 := Nat.div_add_mod n (2 ^ lo)
  have h2 := Nat.div_add_mod (n / 2 ^ lo) (2 ^ (hi + 1 - lo))
  rw [Nat.div_div_eq_div_mul, ← hp] at h2
  unfold putBits bitsOf
  generalize n / 2 ^ lo % 2 ^ (hi + 1 - lo) = b at *
  generalize x % 2 ^ (hi + 1 - lo) = y at *
  generalize n % 2 ^ lo = z at *
  generalize n / 2 ^ (hi + 1) = u at *
  generalize n / 2 ^ lo = v at *
  rw [hp]
  have h3 : n = u * (2 ^ lo * 2 ^ (hi + 1 - lo)) + b * 2 ^ lo + z := by
    rw [← h1, ← h2, Nat.mul_add, Nat.mul_comm u, Nat.mul_assoc, Nat.mul_comm b]
  omega

/-- Another field of a word is as it was. -/
theorem bitsOf_putBits_other (n hi lo x h l : Nat) (hl : lo ≤ hi) (hh : l ≤ h) (hd : h < lo ∨ hi < l) :
    bitsOf (putBits n hi lo x) h l = bitsOf n h l := by
  rw [putBits_eq n hi lo x hl]
  rcases hd with hd | hd
  · rw [← bitsOf_mod _ lo h l hh hd, ← bitsOf_mod n lo h l hh hd]
    congr 1
    have hp : (2 : Nat) ^ (hi + 1) = 2 ^ lo * 2 ^ (hi + 1 - lo) := by rw [← Nat.pow_add]; congr 1; omega
    rw [hp, Nat.mul_comm (2 ^ lo), ← Nat.mul_assoc, ← Nat.add_mul, Nat.add_comm, Nat.add_mul_mod_self_right,
      Nat.mod_mod]
  · have hlt : x % 2 ^ (hi + 1 - lo) * 2 ^ lo + n % 2 ^ lo < 2 ^ (hi + 1) := by
      have hp : (2 : Nat) ^ (hi + 1) = 2 ^ (hi + 1 - lo) * 2 ^ lo := by rw [← Nat.pow_add]; congr 1; omega
      have h1 := Nat.mod_lt x (Nat.two_pow_pos (hi + 1 - lo))
      have h2 := Nat.mod_lt n (Nat.two_pow_pos lo)
      have h3 : (x % 2 ^ (hi + 1 - lo) + 1) * 2 ^ lo ≤ 2 ^ (hi + 1 - lo) * 2 ^ lo := Nat.mul_le_mul_right _ h1
      rw [Nat.add_mul] at h3; omega
    unfold bitsOf
    obtain ⟨k, rfl⟩ : ∃ k, l = hi + 1 + k := ⟨l - (hi + 1), by omega⟩
    rw [Nat.pow_add 2 (hi + 1) k, ← Nat.div_div_eq_div_mul, ← Nat.div_div_eq_div_mul, Nat.add_assoc,
      Nat.mul_comm, Nat.mul_add_div (Nat.two_pow_pos _), Nat.div_eq_of_lt hlt, Nat.add_zero]

/-- A register other than the one a field is set in. -/
theorem rd_setFld_other (r q : Reg) (hi lo v : Nat) (b : Block) (h : r.addr ≠ q.addr) :
    rd ((Act.setFld r hi lo v).run b) q = rd b q := rd_setReg r q _ b h

/-- A field of a register after it is set. -/
theorem fld_setFld (r : Reg) (hi lo v : Nat) (b : Block) (h : r.width ≤ 64) (hw : hi < r.width) (hl : lo ≤ hi) :
    fld ((Act.setFld r hi lo v).run b) r hi lo = v % 2 ^ (hi + 1 - lo) := by
  unfold fld
  show bitsOf (rd ((Act.setReg r _).run b) r) hi lo = _
  rw [rd_setReg_same _ _ _ h, bitsOf_mod _ _ _ _ hl hw, bitsOf_putBits_same]

/-- Another field of the register. -/
theorem fld_setFld_other (r : Reg) (hi lo v h l : Nat) (b : Block) (hr : r.width ≤ 64) (hw : h < r.width)
    (hl : lo ≤ hi) (hh : l ≤ h) (hd : h < lo ∨ hi < l) :
    fld ((Act.setFld r hi lo v).run b) r h l = fld b r h l := by
  unfold fld
  show bitsOf (rd ((Act.setReg r _).run b) r) h l = _
  rw [rd_setReg_same _ _ _ hr, bitsOf_mod _ _ _ _ hh hw, bitsOf_putBits_other _ _ _ _ _ _ hl hh hd]

/-- Registers are 32 or 64 bits wide. -/
theorem Reg.width_le (r : Reg) : r.width ≤ 64 := by cases r <;> simp [Reg.width]

/-! ## Registers after the named updates -/

section
variable (b : Block) (r : Reg)
@[simp] theorem rd_onCore (c : Nat) (g) : rd ((Act.onCore c g).run b) r = rd b r := (rfl)
@[simp] theorem rd_onObj (c : Nat) (g) : rd ((Act.onObj c g).run b) r = rd b r := (rfl)
@[simp] theorem rd_onPart (c : Nat) (g) : rd ((Act.onPart c g).run b) r = rd b r := (rfl)
@[simp] theorem rd_onFunc (c : Nat) (g) : rd ((Act.onFunc c g).run b) r = rd b r := (rfl)
@[simp] theorem rd_onPort (c : Nat) (g) : rd ((Act.onPort c g).run b) r = rd b r := (rfl)
@[simp] theorem rd_onDir (c : Nat) (g) : rd ((Act.onDir c g).run b) r = rd b r := (rfl)
@[simp] theorem rd_onLpd (c : Nat) (g) : rd ((Act.onLpd c g).run b) r = rd b r := (rfl)
@[simp] theorem rd_power (g) : rd ((Act.power g).run b) r = rd b r := (rfl)
@[simp] theorem rd_lock (g) : rd ((Act.lock g).run b) r = rd b r := (rfl)
@[simp] theorem rd_campion (g) : rd ((Act.campion g).run b) r = rd b r := (rfl)
@[simp] theorem rd_emit (g) : rd ((Act.emit g).run b) r = rd b r := (rfl)
@[simp] theorem rd_bump : rd (Act.bump.run b) r = rd b r := (rfl)
@[simp] theorem rd_issue (g) : rd ((Act.issue g).run b) r = rd b r := (rfl)
end

theorem setFld_run (r : Reg) (hi lo v : Nat) (b : Block) :
    (Act.setFld r hi lo v).run b = (Act.setReg r (putBits (rd b r) hi lo v)).run b := (rfl)

theorem rd_setReg_self (r : Reg) (v : Nat) (b : Block) : rd ((Act.setReg r v).run b) r = v % 2 ^ r.width :=
  rd_setReg_same r v b r.width_le

theorem liveObj_congr {b b' : Block} (f i : Nat) (hp : b'.parts = b.parts)
    (hr : ∀ o, rd b' (.synObjCfg o) = rd b (.synObjCfg o)) : liveObj b' f i = liveObj b f i := by
  unfold liveObj physObj part
  rw [hp]
  congr 1
  funext o
  unfold objType fld; rw [hr]

theorem coreBase_lt {c : Nat} (h : c < 25600) : coreBase c + 0x10000 ≤ 0x0F0080000000 := by unfold coreBase; omega
theorem coreBase_ge (c : Nat) : 0x0F0000000000 ≤ coreBase c := by unfold coreBase; omega

/-! ## Units after the named updates -/

section
variable (b : Block)
@[simp] theorem Act.onCore_toUnits (c : Nat) (g : CoreState → CoreState) :
    ((Act.onCore c g).run b).toUnits = { b.toUnits with cores := smPut b.cores c (g (core b c)) } := (rfl)
@[simp] theorem Act.onObj_toUnits (c : Nat) (g : ObjState → ObjState) :
    ((Act.onObj c g).run b).toUnits = { b.toUnits with objs := smPut b.objs c (g (obj b c)) } := (rfl)
@[simp] theorem Act.onPart_toUnits (c : Nat) (g : Partition → Partition) :
    ((Act.onPart c g).run b).toUnits = { b.toUnits with parts := smPut b.parts c (g (part b c)) } := (rfl)
@[simp] theorem Act.onFunc_toUnits (c : Nat) (g : Func → Func) :
    ((Act.onFunc c g).run b).toUnits = { b.toUnits with funcs := smPut b.funcs c (g (func b c)) } := (rfl)
@[simp] theorem Act.onPort_toUnits (c : Nat) (g : PortState → PortState) :
    ((Act.onPort c g).run b).toUnits = { b.toUnits with ports := smPut b.ports c (g (port b c)) } := (rfl)
@[simp] theorem Act.onDir_toUnits (c : Nat) (g : DirFn → DirFn) :
    ((Act.onDir c g).run b).toUnits = { b.toUnits with dirs := smPut b.dirs c (g (dir b c)) } := (rfl)
@[simp] theorem Act.onLpd_toUnits (c : Nat) (g : Lpd → Lpd) :
    ((Act.onLpd c g).run b).toUnits = { b.toUnits with lpds := smPut b.lpds c (g (lpd b c)) } := (rfl)
@[simp] theorem Act.issue_toUnits (m : SyncMsg) :
    ((Act.issue m).run b).toUnits = { b.toUnits with syncNet := b.syncNet ++ [m] } := (rfl)
@[simp] theorem Act.emit_toUnits (o : Output) :
    ((Act.emit o).run b).toUnits = { b.toUnits with outbox := b.outbox ++ [o] } := (rfl)
@[simp] theorem Act.power_toUnits (g : Power → Power) :
    ((Act.power g).run b).toUnits = { b.toUnits with power := g b.power } := (rfl)
@[simp] theorem Act.lock_toUnits (g : Lock → Lock) :
    ((Act.lock g).run b).toUnits = { b.toUnits with lock := g b.lock } := (rfl)
@[simp] theorem Act.campion_toUnits (g : Campion → Campion) :
    ((Act.campion g).run b).toUnits = { b.toUnits with campion := g b.campion } := (rfl)
@[simp] theorem Act.bump_toUnits : (Act.bump.run b).toUnits = { b.toUnits with freeCtr := b.freeCtr + 1 } := (rfl)
end

end Sys2Proof.Machine
end

