-- ==== Sys2Proof/Laws/Rings.lean ====
section
/-! SUPPORT. What releasing slots of rings does (Machine/Sequencer.lean, 06_streams.md R171). -/

namespace Sys2Proof.Machine

/-- Freeing received slots changes nothing but ports. -/
theorem freeSlots_keeps (c f r n : Nat) :
    (Act.freeSlots c f r n).Keeps fun b => (b.regs, b.mem, { b.toUnits with ports := [] }) := by
  refine Act.Keeps.read fun b => Act.Keeps.each fun p => Act.Keeps.when ?_
  exact Act.Keeps.cons (Act.Keeps.units fun _ => rfl)
    (Act.Keeps.cons (Act.Keeps.read fun _ => Act.Keeps.units fun _ => rfl) Act.Keeps.nil)

/-- The records of other rings do not matter to a ring. -/
theorem ringBroken_withUser_other (s : CoreState) (n m : Nat) (id : Nat × Nat × Nat) (pub : Bool) (h : n ≠ m) :
    ringBroken (s.withUser n id pub) m = ringBroken s m := by
  have key (l : List (Nat × Nat × Nat × Nat)) :
      (if l.contains (n, id) then l else l ++ [(n, id)]).filter (fun x => x.1 == m) = l.filter (fun x => x.1 == m) := by
    split
    · rfl
    · simp [h]
  cases pub
  · simp only [ringBroken, CoreState.withUser, Bool.false_eq_true, if_false, key]
  · simp only [ringBroken, CoreState.withUser, if_true, key]

/-- Block m is block b but for HEAD of some rings of core c, its record of who released them, and its ports. -/
structure Released (c : Nat) (w : List (Nat × Nat)) (b m : Block) : Prop where
  regs : RegsKept b m w
  mem : m.mem = b.mem
  units : m.toUnits = { b.toUnits with cores := m.cores, ports := m.ports }
  others : OtherCoresKept b m c
  core : core m c = { core b c with ringRel := (core m c).ringRel }

theorem Released.refl (c : Nat) (w : List (Nat × Nat)) (b : Block) : Released c w b b :=
  ⟨.refl b w, rfl, rfl, fun _ _ => rfl, rfl⟩

theorem Released.trans {c : Nat} {w : List (Nat × Nat)} {b m t : Block} (h : Released c w b m) (k : Released c w m t) :
    Released c w b t :=
  ⟨h.regs.trans k.regs, k.mem.trans h.mem, by rw [k.units, h.units], fun d hd => (k.others d hd).trans (h.others d hd),
   by rw [k.core, h.core]⟩

theorem RegsKept.mono {b b' : Block} {w v : List (Nat × Nat)} (h : RegsKept b b' w) (hs : ∀ x ∈ w, x ∈ v) :
    RegsKept b b' v := fun r hr => h r fun x hx => hr x (hs x hx)

theorem Released.mono {c : Nat} {w v : List (Nat × Nat)} {b m : Block} (h : Released c w b m) (hs : ∀ x ∈ w, x ∈ v) :
    Released c v b m := ⟨h.regs.mono hs, h.mem, h.units, h.others, h.core⟩

/-- HEAD and TAIL of core c's rings do not say who the agent is (R165). -/
def Agent.Steady (a : Agent) (c : Nat) : Prop :=
  ∀ b m : Block, RegsKept b m [((Reg.strRingPtr c 0).addr, 0x100)] → agentId m a = agentId b a

theorem Agent.steady_seq (d c : Nat) : (Agent.seq d).Steady c := fun _ _ _ => rfl

theorem Agent.steady_ctx (d x c : Nat) (hx : x < 4) : (Agent.ctx d x).Steady c := by
  intro b m h
  have := h (.strCtx d x) (by simp [coreBase]; omega)
  simp [agentId, ctxProg, fld, this]

variable {a : Agent} {c f n : Nat}

/-- One ring's release, by its sound consumer. -/
theorem releaseRing_run (ha : a.Steady c) {b : Block} {r : Nat} (hr : r < 16)
    (hs : ringSound b c r a false = true) :
    let t := (Act.releaseRing a c f n r).run b
    Released c [(Reg.strRingPtr c r).window] b t ∧
      (core t c).ringRel = ((core b c).withUser r (agentId b a) false).ringRel ∧
      ringHead t c r = (ringHead b c r + n) % 65536 ∧ ringTail t c r = ringTail b c r := by
  intro t
  obtain ⟨b1, hb1⟩ : ∃ y, y = (Act.setFld (.strRingPtr c r) 15 0 ((ringHead b c r + n) % 65536)).run b := ⟨_, rfl⟩
  obtain ⟨b2, hb2⟩ : ∃ y, y = (Act.onCore c (fun s => s.withUser r (agentId b a) false)).run b1 := ⟨_, rfl⟩
  have hu1 : b1.toUnits = b.toUnits := by rw [hb1]; rfl
  have hc1 : core b1 c = core b c := by unfold core; rw [hu1]
  have hid : agentId b1 a = agentId b a := by
    apply ha; intro q hq; rw [hb1]; apply rd_setFld_other
    have := hq _ List.mem_cons_self; simp only [Reg.addr_strRingPtr] at this ⊢; omega
  have ht : t = (Act.freeSlots c f r n).run b2 := by
    have : ringBroken (core b2 c) r = false := by
      rw [hb2, core_onCore, if_pos rfl, hc1]; simpa [ringSound] using hs
    simp only [t, Act.releaseRing, Act.read_run, Act.all_cons, Act.all_nil, Act.useRing, Act.breakRing]
    rw [← hb1, hid, ← hb2, this]; rfl
  have hk := (freeSlots_keeps c f r n).1 b2
  rw [← ht] at hk
  have hregs : t.regs = b2.regs := congrArg (fun x => x.1) hk
  have hmem : t.mem = b2.mem := congrArg (fun x => x.2.1) hk
  have hcores : t.cores = b2.cores := congrArg (fun x => x.2.2.cores) hk
  have hun : t.toUnits = { b2.toUnits with ports := t.ports } :=
    congrArg (fun x => { x.2.2 with ports := t.ports }) hk
  have hcore : ∀ d, core t d = if c = d then (core b c).withUser r (agentId b a) false else core b d := by
    intro d; unfold core at *; rw [hcores, hb2]
    have := core_onCore c d (fun s => s.withUser r (agentId b a) false) b1
    unfold core at this; rw [this]; split
    · rw [hc1]
    · rw [hu1]
  have hrd : ∀ q, rd t q = rd b1 q := fun q => by
    rw [show rd t q = rd b2 q from rd_congr hregs q, hb2]; rfl
  refine ⟨⟨?_, ?_, ?_, ?_, ?_⟩, ?_, ?_, ?_⟩
  · intro q hq
    rw [hrd, hb1]; apply rd_setFld_other
    have := hq _ List.mem_cons_self; simp only [Reg.window] at this; omega
  · rw [hmem, hb2, hb1]; rfl
  · rw [hun, hb2]; simp only [Act.onCore_toUnits, hu1]
  · intro d hd; rw [hcore, if_neg (Ne.symm hd)]
  · rw [hcore, if_pos rfl]; simp [CoreState.withUser]
  · rw [hcore, if_pos rfl]
  · unfold ringHead fld; rw [hrd, hb1]
    refine (fld_setFld (.strRingPtr c r) 15 0 _ b (by simp [Reg.width]) (by simp [Reg.width]) (by omega)).trans ?_
    unfold ringHead fld; omega
  · unfold ringTail fld; rw [hrd, hb1]
    exact fld_setFld_other (.strRingPtr c r) 15 0 _ 31 16 b (by simp [Reg.width]) (by simp [Reg.width]) (by omega)
      (by omega) (by omega)

/-- Another ring is as sound after one ring's release. -/
theorem ringSound_after (ha : a.Steady c) {b : Block} {r q : Nat} (hr : r < 16) (hne : r ≠ q)
    (hs : ringSound b c r a false = true) (h0 : ringSound b c q a false = true) :
    ringSound ((Act.releaseRing a c f n r).run b) c q a false = true := by
  obtain ⟨hk, hrel, _, _⟩ := releaseRing_run (f := f) (n := n) ha hr hs
  generalize (Act.releaseRing a c f n r).run b = m at *
  have hid : agentId m a = agentId b a := ha b m fun q hq => hk.regs q (by
    have := hq _ List.mem_cons_self
    simp only [Reg.window, List.mem_singleton, forall_eq, Reg.addr_strRingPtr] at this ⊢; omega)
  unfold ringSound at h0 ⊢
  rw [← h0, hid]
  congr 1
  have e1 : core m c = (core b c).withUser r (agentId b a) false := by
    rw [hk.core, hrel]; simp [CoreState.withUser]
  rw [e1]
  have key (l : List (Nat × Nat × Nat × Nat)) (id : Nat × Nat × Nat) :
      (if (if l.contains (r, id) then l else l ++ [(r, id)]).contains (q, id) then
          (if l.contains (r, id) then l else l ++ [(r, id)])
        else (if l.contains (r, id) then l else l ++ [(r, id)]) ++ [(q, id)]).filter (fun x => x.1 == q) =
      (if l.contains (q, id) then l else l ++ [(q, id)]).filter (fun x => x.1 == q) := by
    have h2 : (if l.contains (r, id) then l else l ++ [(r, id)]).contains (q, id) = l.contains (q, id) := by
      split
      · rfl
      · simp [Ne.symm hne]
    have h3 : (if l.contains (r, id) then l else l ++ [(r, id)]).filter (fun x => x.1 == q) =
        l.filter (fun x => x.1 == q) := by
      split
      · rfl
      · simp [hne]
    rw [h2]
    split
    · exact h3
    · rw [List.filter_append, h3, List.filter_append]
  simp only [ringBroken, CoreState.withUser, Bool.false_eq_true, if_false, key]

/-- Rings l of core c released one after another by their sound consumer. -/
theorem releaseRings_run (ha : a.Steady c) (l : List Nat) :
    ∀ {b : Block}, l.Nodup → (∀ r ∈ l, r < 16) → (∀ r ∈ l, ringSound b c r a false = true) →
    let t := (Act.each l (.releaseRing a c f n)).run b
    Released c (l.map fun r => (Reg.strRingPtr c r).window) b t ∧
      ∀ r < 16, ringHead t c r = (ringHead b c r + if r ∈ l then n else 0) % 65536 ∧ ringTail t c r = ringTail b c r := by
  induction l with
  | nil =>
    intro b _ _ _
    refine ⟨.refl _ _ _, fun r _ => ⟨?_, rfl⟩⟩
    simp only [List.not_mem_nil, if_false, Act.each_nil, Nat.add_zero]
    exact (Nat.mod_eq_of_lt (Nat.mod_lt _ (by decide))).symm
  | cons r l ih =>
    intro b hn hl hs
    have hr16 := hl r List.mem_cons_self
    obtain ⟨hr, hrel, hh, htl⟩ := releaseRing_run (f := f) (n := n) ha hr16 (hs r List.mem_cons_self)
    simp only [Act.each_cons]
    obtain ⟨m, hm⟩ : ∃ y, y = (Act.releaseRing a c f n r).run b := ⟨_, rfl⟩
    rw [← hm] at hr hrel hh htl ⊢
    have hkeep : ∀ q : Reg, q.addr ≠ (Reg.strRingPtr c r).addr → rd m q = rd b q := fun q hq =>
      hr.regs q (by simp only [Reg.window, List.mem_singleton, forall_eq]; omega)
    have hid : agentId m a = agentId b a := ha b m fun q hq => hkeep q (by
      have := hq _ List.mem_cons_self; simp only [Reg.addr_strRingPtr] at this ⊢; omega)
    have hsound : ∀ q ∈ l, ringSound m c q a false = true := fun q hq => by
      subst hm
      exact ringSound_after ha hr16 (fun e => (List.nodup_cons.1 hn).1 (e ▸ hq)) (hs r List.mem_cons_self)
        (hs q (List.mem_cons_of_mem _ hq))
    obtain ⟨k1, k2⟩ := ih (List.nodup_cons.1 hn).2 (fun q hq => hl q (List.mem_cons_of_mem _ hq)) hsound
    generalize (Act.each l (Act.releaseRing a c f n)).run m = t at *
    refine ⟨(hr.mono ?_).trans (k1.mono ?_), fun q hq => ?_⟩
    · intro x hx; simp at hx; simp [hx]
    · intro x hx; simp only [List.map_cons]; exact List.mem_cons_of_mem _ hx
    · obtain ⟨h1, h2⟩ := k2 q hq
      by_cases hqr : q = r
      · subst hqr
        rw [h1, h2, hh, htl, if_neg (List.nodup_cons.1 hn).1, if_pos List.mem_cons_self]
        exact ⟨by omega, rfl⟩
      · have hp : rd m (.strRingPtr c q) = rd b (.strRingPtr c q) := hkeep _ (by simp; omega)
        have e1 : ringHead m c q = ringHead b c q := by unfold ringHead fld; rw [hp]
        have e2 : ringTail m c q = ringTail b c q := by unfold ringTail fld; rw [hp]
        rw [h1, h2, e1, e2]
        simp only [List.mem_cons, hqr, false_or, and_true]

/-- What a signal of relative object o releases, where its agent is the one consumer of every ring that it releases. -/
theorem slotsReleased_spec (ha : a.Steady c) {b : Block} {o : Nat} (hs : slotsSound b c o a = true) :
    Released c (ringWindows b c o) b (slotsReleased b a c f o n) ∧
      HeadsMoved b (slotsReleased b a c f o n) c (headStep b c o n) :=
  releaseRings_run ha (freedRings b c o) (List.Pairwise.filter _ List.nodup_range)
    (fun _ hr => List.mem_range.1 (List.mem_filter.1 hr).1)
    (fun r hr => List.all_eq_true.1 hs r hr)

/-- What SIGOBJ of an entry releases. -/
theorem sigReleased_spec {b : Block} {e : BitVec 512} (hs : sigSound b c f e = true) :
    Released c (sigWindows b c e) b (sigReleased b c f e) ∧ HeadsMoved b (sigReleased b c f e) c (sigStep b c e) := by
  unfold sigReleased sigWindows
  by_cases h : bitOf e.toNat 47 = true
  · have hst : sigStep b c e = headStep b c (ef e 46 32) 1 := funext fun r => by simp [sigStep, h]
    simp only [sigSound, h, Bool.not_true, Bool.false_or, Bool.and_eq_true] at hs
    simp only [h, if_true, hst]
    exact slotsReleased_spec (Agent.steady_seq c c) hs.2
  · simp only [h, Bool.false_eq_true, if_false]
    refine ⟨.refl _ _ _, fun r _ => ⟨?_, rfl⟩⟩
    simp only [sigStep, h, Bool.false_eq_true, if_false, Nat.add_zero]
    exact (Nat.mod_eq_of_lt (Nat.mod_lt _ (by decide))).symm

/-! ## Two blocks that agree on what a release reads -/

/-- Blocks b and m agree on what releasing slots of core c's rings reads. -/
structure RelSame (c : Nat) (b m : Block) : Prop where
  parts : m.parts = b.parts
  ports : m.ports = b.ports
  beat : rd m .srlBeat = rd b .srlBeat
  rel : (core m c).ringRel = (core b c).ringRel
  pub : (core m c).ringPub = (core b c).ringPub

/-- An effect that, run on two blocks with the same ports in the same beat, leaves them so. -/
def Act.PortsFollow (x : Act) : Prop :=
  ∀ b m : Block, m.ports = b.ports → rd m .srlBeat = rd b .srlBeat →
    (x.run m).ports = (x.run b).ports ∧ rd (x.run m) .srlBeat = rd (x.run b) .srlBeat

theorem Act.PortsFollow.onPort (p : Nat) (g : PortState → PortState) : (Act.onPort p g).PortsFollow := by
  intro b m hp hb
  refine ⟨?_, hb⟩
  simp only [Act.onPort_ports, hp]

theorem Act.PortsFollow.issueCredits (p : Nat) : (Act.issueCredits p).PortsFollow := by
  intro b m hp hb
  refine ⟨?_, hb⟩
  simp only [Act.issueCredits, Act.read_run, Act.onPort_ports, hp, Machine.beat, hb]

theorem Act.PortsFollow.each {l : List Nat} {k : Nat → Act} (h : ∀ p, (k p).PortsFollow) : (Act.each l k).PortsFollow := by
  induction l with
  | nil => exact fun _ _ hp hb => ⟨hp, hb⟩
  | cons p r ih => exact fun b m hp hb => ih _ _ (h p b m hp hb).1 (h p b m hp hb).2

theorem freeSlots_follow {b m : Block} (r : Nat) (hp : m.parts = b.parts) (hq : m.ports = b.ports)
    (hb : rd m .srlBeat = rd b .srlBeat) :
    ((Act.freeSlots c f r n).run m).ports = ((Act.freeSlots c f r n).run b).ports := by
  have h1 : ∀ p, rxRecs m f p = rxRecs b f p := fun p => by unfold rxRecs part; rw [hp]
  have h2 : ∀ x, coreOfLogical m f x = coreOfLogical b f x := fun x => by
    unfold coreOfLogical coresOf placement part; rw [hp]
  have h3 : ∀ p, port m p = port b p := fun p => by unfold port; rw [hq]
  simp only [Act.freeSlots, Act.read_run, h1, h2, h3]
  refine (Act.PortsFollow.each (fun p => ?_) b m hq hb).1
  intro b m hp hb
  unfold Act.when
  split
  · exact Act.PortsFollow.issueCredits p _ _ (Act.PortsFollow.onPort p _ b m hp hb).1 hb
  · exact ⟨hp, hb⟩

theorem ringSound_congr {b m : Block} (h : RelSame c b m) (r : Nat) :
    ringSound m c r (.seq c) false = ringSound b c r (.seq c) false := by
  simp only [ringSound, ringBroken, CoreState.withUser, agentId, Bool.false_eq_true, if_false, h.rel, h.pub]
  rfl

theorem srlBeat_ne_ring (c r : Nat) : Reg.addr .srlBeat ≠ (Reg.strRingPtr c r).addr := by
  simp [coreBase, srlBase]; omega

/-- The ports after one ring's release. -/
theorem releaseRing_ports {b : Block} {r : Nat} (hs : ringSound b c r (.seq c) false = true) :
    ((Act.releaseRing (.seq c) c f n r).run b).ports = ((Act.freeSlots c f r n).run b).ports := by
  have hb : rd ((Act.setFld (.strRingPtr c r) 15 0 ((ringHead b c r + n) % 65536)).run b) .srlBeat = rd b .srlBeat :=
    rd_setFld_other _ _ _ _ _ _ (Ne.symm (srlBeat_ne_ring c r))
  simp only [Act.releaseRing, Act.read_run, Act.all_cons, Act.all_nil, Act.useRing, Act.breakRing, agentId]
  have hc : core ((Act.setFld (.strRingPtr c r) 15 0 ((ringHead b c r + n) % 65536)).run b) c = core b c := rfl
  rw [core_onCore, if_pos rfl, hc]
  rw [show ringBroken ((core b c).withUser r (0, c, 0) false) r = false by simpa [ringSound, agentId] using hs]
  exact freeSlots_follow r rfl rfl hb

theorem releaseRing_follow {b m : Block} {r : Nat} (hr : r < 16) (h : RelSame c b m)
    (hs : ringSound b c r (.seq c) false = true) :
    RelSame c ((Act.releaseRing (.seq c) c f n r).run b) ((Act.releaseRing (.seq c) c f n r).run m) := by
  have hm := (ringSound_congr h r).trans hs
  obtain ⟨k, kr, _, _⟩ := releaseRing_run (f := f) (n := n) (Agent.steady_seq c c) hr hs
  obtain ⟨j, jr, _, _⟩ := releaseRing_run (f := f) (n := n) (Agent.steady_seq c c) hr hm
  have hb := srlBeat_ne_ring c r
  refine ⟨?_, ?_, ?_, ?_, ?_⟩
  · rw [j.units, k.units]; exact h.parts
  · rw [releaseRing_ports hs, releaseRing_ports hm]; exact freeSlots_follow r h.parts h.ports h.beat
  · rw [j.regs .srlBeat, k.regs .srlBeat]
    · exact h.beat
    all_goals simp only [Reg.window, List.mem_singleton, forall_eq]; omega
  · rw [jr, kr]; simp only [CoreState.withUser, agentId, h.rel, Bool.false_eq_true, if_false]; rfl
  · rw [j.core, k.core]; exact h.pub

theorem releaseRings_follow (l : List Nat) : ∀ {b m : Block}, l.Nodup → (∀ r ∈ l, r < 16) → RelSame c b m →
    (∀ r ∈ l, ringSound b c r (.seq c) false = true) →
    RelSame c ((Act.each l (.releaseRing (.seq c) c f n)).run b) ((Act.each l (.releaseRing (.seq c) c f n)).run m) := by
  induction l with
  | nil => exact fun _ _ h _ => h
  | cons r l ih =>
    intro b m hn hl h hs
    have hr := hl r List.mem_cons_self
    refine ih (List.nodup_cons.1 hn).2 (fun q hq => hl q (List.mem_cons_of_mem _ hq))
      (releaseRing_follow hr h (hs r List.mem_cons_self)) ?_
    intro q hq
    exact ringSound_after (f := f) (n := n) (Agent.steady_seq c c) hr (fun e => (List.nodup_cons.1 hn).1 (e ▸ hq))
      (hs r List.mem_cons_self) (hs q (List.mem_cons_of_mem _ hq))

/-- Blocks that agree on the rings too have the same slots released by SIGOBJ of an entry. -/
theorem sigReleased_follow {b m : Block} {e : BitVec 512} (h : RelSame c b m)
    (hg : ∀ r < 16, rd m (.strRingGeom c r) = rd b (.strRingGeom c r))
    (ho : ∀ r < 16, rd m (.strRingObj c r) = rd b (.strRingObj c r)) (hs : sigSound b c f e = true) :
    RelSame c (sigReleased b c f e) (sigReleased m c f e) := by
  unfold sigReleased
  by_cases hb : bitOf e.toNat 47 = true
  · simp only [sigSound, hb, Bool.not_true, Bool.false_or, Bool.and_eq_true] at hs
    have hf : freedRings m c (ef e 46 32) = freedRings b c (ef e 46 32) := by
      refine List.filter_congr fun r hr => ?_
      have := List.mem_range.1 hr
      unfold ringSlots ringFree fld; rw [hg r this, ho r this]
    simp only [hb, if_true, slotsReleased, Act.releaseSlots, Act.read_run, hf]
    exact releaseRings_follow _ (List.Pairwise.filter _ List.nodup_range)
      (fun r hr => List.mem_range.1 (List.mem_filter.1 hr).1) h (fun r hr => List.all_eq_true.1 hs.2 r hr)
  · simpa [hb] using h

end Sys2Proof.Machine
end

