-- ==== Sys2Proof/Laws/Entries.lean ====
section
/-! SUPPORT. What recording and completing an entry do, and where a sequencer goes (Machine/Sequencer.lean). -/

namespace Sys2Proof.Machine

/-- A signal of a live object issues its message. -/
theorem issueSignal_run (a : Agent) (f o n q : Nat) (b : Block) (ho : liveObj b f o = some q) :
    (Act.issueSignal a f o n).run b = (Act.issue (.sig q n a (posOf b a))).run b := by
  simp only [Act.issueSignal, Act.read_run, ho]

theorem range8 : List.range 8 = [0, 1, 2, 3, 4, 5, 6, 7] := rfl

@[simp] theorem Act.record_toUnits (c : Nat) (e : BitVec 512) (bs : Bytes) (b : Block) :
    ((Act.record c e bs).run b).toUnits = b.toUnits := by
  simp only [Act.record, range8, Act.all_cons, Act.all_nil, Act.each_cons, Act.each_nil, Act.setReg_toUnits]
  unfold Act.when; split <;> simp [Act.setScr]

theorem rd_setScr (c o : Nat) (bs : Bytes) (b : Block) (r : Reg) : rd ((Act.setScr c o bs).run b) r = rd b r := rfl

theorem rd_when_setScr (p : Bool) (c o : Nat) (bs : Bytes) (b : Block) (r : Reg) :
    rd ((Act.when p (Act.setScr c o bs)).run b) r = rd b r := by unfold Act.when; split <;> rfl

/-- Registers outside SEQ_CREC. -/
theorem rd_record (c : Nat) (e : BitVec 512) (bs : Bytes) (b : Block) (r : Reg)
    (h : r.addr < (Reg.seqCrec c 0).addr ∨ (Reg.seqCrec c 0).addr + 0x20 ≤ r.addr) :
    rd ((Act.record c e bs).run b) r = rd b r := by
  simp only [Reg.addr_seqCrec] at h
  simp only [Act.record, range8, Act.all_cons, Act.all_nil, Act.each_cons, Act.each_nil]
  repeat rw [rd_setReg _ _ _ _ (by simp only [Reg.addr_seqCrec]; omega)]
  exact rd_when_setScr _ _ _ _ _ _

theorem leNat_lt (bs : Bytes) : leNat bs < 256 ^ bs.length := by
  induction bs with
  | nil => simp [leNat]
  | cons x r ih => 
    have := x.isLt
    simp only [leNat, List.length_cons, Nat.pow_succ]; omega

theorem leAt_lt (bs : Bytes) (o n : Nat) : leAt bs o n < 256 ^ n := by
  unfold leAt
  refine Nat.lt_of_lt_of_le (leNat_lt _) (Nat.pow_le_pow_right (by omega) ?_)
  simp only [List.length_take, List.length_drop]; omega

/-- SEQ_CREC holds the record. -/
theorem rd_record_crec (c : Nat) (e : BitVec 512) (bs : Bytes) (b : Block) (w : Nat) (hw : w < 8) :
    rd ((Act.record c e bs).run b) (.seqCrec c w) = leAt bs (4 * w) 4 := by
  have hm : ∀ w, leAt bs (4 * w) 4 % 2 ^ 32 = leAt bs (4 * w) 4 := fun w => Nat.mod_eq_of_lt (leAt_lt bs _ 4)
  have hx : ∀ w, (Reg.seqCrec c w).width = 32 := fun _ => rfl
  simp only [Act.record, range8, Act.all_cons, Act.all_nil, Act.each_cons, Act.each_nil]
  obtain h | h | h | h | h | h | h | h : w = 0 ∨ w = 1 ∨ w = 2 ∨ w = 3 ∨ w = 4 ∨ w = 5 ∨ w = 6 ∨ w = 7 := by omega
  all_goals
    subst h
    simp (disch := (simp only [Reg.addr_seqCrec, ne_eq]; omega)) only [rd_setReg, rd_setReg_self, hx, hm]

theorem record_mem (c : Nat) (e : BitVec 512) (bs : Bytes) (b : Block) :
    ((Act.record c e bs).run b).mem = if ef e 63 48 = 0xFFFF then b.mem else cellsPut b.mem (scratchAt c (ef e 63 48 * 32)) bs := by
  simp only [Act.record, range8, Act.all_cons, Act.all_nil, Act.each_cons, Act.each_nil, Act.setReg_mem]
  unfold Act.when
  by_cases h : ef e 63 48 = 0xFFFF <;> simp [h, Act.setScr]

theorem creBytes_length (en op st : Nat) (fl : BitVec 4) (iv sk : Nat) (k : Counters) :
    (creBytes en op st fl iv sk k).length = 32 := by
  simp [creBytes, leBytes_length]

/-- Bytes just written read back. -/
theorem bytesAt_cellsPut (b : Block) (m : List Host.Cell) (a : Nat) (bs : Bytes) (h : b.mem = cellsPut m a bs) :
    bytesAt b a bs.length = bs := by
  unfold bytesAt byteAt
  apply List.ext_getElem
  · simp
  · intro i h1 h2
    simp only [List.getElem_map, List.getElem_range, h, smGetD_cellsPut]
    rw [if_pos (by omega)]
    simp [h2]

theorem bytesKept_cellsPut (b b' : Block) (a : Nat) (bs : Bytes) (n : Nat) (hn : bs.length = n)
    (h : b'.mem = cellsPut b.mem a bs) : BytesKept b b' [(a, n)] := by
  intro x hx
  simp at hx
  unfold byteAt
  rw [h, smGetD_cellsPut, if_neg (by omega)]

variable {c f : Nat} {e : BitVec 512} {st : Nat} {fl : BitVec 4} {sk : Nat} {k : Counters}

/-- SIGOBJ's slots are released as the sequencer's own act. -/
theorem sigRelease_run (c f : Nat) (e : BitVec 512) (b : Block) :
    (Act.sigRelease c f e).run b = sigReleased b c f e := by
  unfold Act.sigRelease sigReleased slotsReleased Act.when; split <;> rfl

/-- SIGOBJ writes registers of the rings only. -/
theorem sigWindows_ring (b : Block) (c : Nat) (e : BitVec 512) :
    ∀ x ∈ sigWindows b c e, (Reg.strRingPtr c 0).addr ≤ x.1 ∧ x.1 + x.2 ≤ (Reg.strRingPtr c 0).addr + 0x100 := by
  intro x hx
  unfold sigWindows ringWindows at hx
  split at hx
  · obtain ⟨q, hq, rfl⟩ := List.mem_map.1 hx
    have := List.mem_range.1 (List.mem_filter.1 hq).1
    simp only [Reg.window, Reg.addr_strRingPtr]; omega
  · simp at hx

/-- What completing an entry does. -/
theorem finish_run (b : Block) (hc : c < 25600) (hq : sigSound b c f e = true) :
    let bs := creBytes (seqEntry b c) (opcodeOf e) st fl (rd b (.seqInvoc c) % 2 ^ 32) sk k
    let t := (Act.finish c f e st fl sk k).run b
    RecordWritten b t c e bs ∧
    t.toUnits = { (sigReleased b c f e).toUnits with syncNet := b.syncNet ++ sigMsgs b c f e } ∧
    HeadsMoved b t c (sigStep b c e) ∧
    RegsKept b t ([(Reg.seqInvoc c).window, ((Reg.seqCrec c 0).addr, 0x20)] ++ sigWindows b c e) ∧
    BytesKept b t (recordWindows c e) := by
  intro bs t
  have hlt := coreBase_lt hc
  obtain ⟨hrel, hheads⟩ := sigReleased_spec hq
  have hwin := sigWindows_ring b c e
  obtain ⟨b1, hb1⟩ : ∃ y, y = sigReleased b c f e := ⟨_, rfl⟩
  rw [← hb1] at hrel hheads ⊢
  let b2 := (Act.setReg (.seqInvoc c) ((rd b (.seqInvoc c) + 1) % 2 ^ 64)).run ((Act.record c e bs).run b1)
  have hkeep1 : ∀ r : Reg, r.addr ≠ (Reg.seqInvoc c).addr →
      (r.addr < (Reg.seqCrec c 0).addr ∨ (Reg.seqCrec c 0).addr + 0x20 ≤ r.addr) → rd b2 r = rd b1 r := by
    intro r h1 h2
    exact (rd_setReg _ _ _ _ (Ne.symm h1)).trans (rd_record _ _ _ _ _ h2)
  have hkeep : ∀ r : Reg, r.addr ≠ (Reg.seqInvoc c).addr →
      (r.addr < (Reg.seqCrec c 0).addr ∨ (Reg.seqCrec c 0).addr + 0x20 ≤ r.addr) →
      (r.addr < (Reg.strRingPtr c 0).addr ∨ (Reg.strRingPtr c 0).addr + 0x100 ≤ r.addr) → rd b2 r = rd b r := by
    intro r h1 h2 h3
    rw [hkeep1 r h1 h2, hrel.regs r fun x hx => by have := hwin x hx; omega]
  have hu2 : b2.toUnits = b1.toUnits := (Act.setReg_toUnits _ _ _).trans (Act.record_toUnits c e bs b1)
  have hpos : posOf b2 (.seq c) = posOf b (.seq c) := by
    show fld b2 _ _ _ = fld b _ _ _
    unfold fld; rw [hkeep] <;> simp
  have hlive : ∀ i, liveObj b2 f i = liveObj b f i := by
    intro i; apply liveObj_congr
    · rw [hu2, hrel.units]
    · intro o; apply hkeep <;> (simp [synBase]; omega)
  have ht : t = (Act.sigObj c f e).run b2 := by
    simp only [t, b2, Act.finish, Act.read_run, Act.all_cons, Act.all_nil, bs, sigRelease_run, hb1]
  have ht2 : t.regs = b2.regs ∧ t.mem = b2.mem ∧ t.toUnits = { b2.toUnits with syncNet := b2.syncNet ++ sigMsgs b c f e } := by
    rw [ht]
    unfold Act.sigObj sigMsgs
    by_cases hb : bitOf e.toNat 47 = true
    · simp only [sigSound, hb, Bool.not_true, Bool.false_or, Bool.and_eq_true] at hq
      obtain ⟨o, ho⟩ := Option.isSome_iff_exists.1 hq.1
      simp only [hb, Act.when_true, if_true]
      rw [issueSignal_run _ _ _ _ o b2 ((hlive _).trans ho), ho]
      refine ⟨by simp, by simp, ?_⟩
      have hp : posOf b2 (.seq c) = seqEntry b c := hpos
      simp [hp]
    · simp only [Bool.not_eq_true] at hb
      simp [hb]
  have hrd : ∀ r, rd t r = rd b2 r := fun r => rd_congr ht2.1 r
  have hmem : t.mem = if ef e 63 48 = 0xFFFF then b.mem else cellsPut b.mem (scratchAt c (ef e 63 48 * 32)) bs := by
    rw [ht2.2.1]; simp only [b2, Act.setReg_mem, record_mem, hrel.mem]
  have hlen : bs.length = 32 := creBytes_length _ _ _ _ _ _ _
  have hsn : b1.syncNet = b.syncNet := by rw [hrel.units]
  refine ⟨⟨?_, ?_, ?_⟩, ?_, ?_, ?_, ?_⟩
  · rw [hrd, rd_setReg_self, show (Reg.seqInvoc c).width = 64 from rfl, Nat.mod_mod]
  · intro w hw
    rw [hrd]
    refine (rd_setReg _ _ _ _ ?_).trans (rd_record_crec _ _ _ _ w hw)
    (simp; omega)
  · intro hne
    rw [if_neg hne] at hmem
    have := bytesAt_cellsPut t _ _ _ hmem
    rw [hlen] at this; exact this
  · rw [ht2.2.2, hu2, hsn]
  · intro r hr
    have hp : rd t (.strRingPtr c r) = rd b1 (.strRingPtr c r) := by
      rw [hrd]; exact hkeep1 _ (by simp; omega) (by simp; omega)
    obtain ⟨h1, h2⟩ := hheads r hr
    unfold ringHead ringTail fld at *
    rw [hp]; exact ⟨h1, h2⟩
  · intro r hr
    simp only [List.cons_append, List.nil_append, Reg.window, List.mem_cons, forall_eq_or_imp] at hr
    rw [hrd, hkeep1 r (by omega) hr.2.1]
    exact hrel.regs r hr.2.2
  · unfold recordWindows
    split at hmem
    · next h => rw [if_pos h]; exact BytesKept.of_mem hmem
    · next h => rw [if_neg h]; exact bytesKept_cellsPut b t _ bs 32 hlen hmem

theorem loopNext_cons (b : Block) (c : Nat) (fr : LoopFrame) (r : List LoopFrame) (nx : Nat) :
    (loopNext b c (fr :: r) nx).2.2 = [] ∨ (∃ v, (loopNext b c (fr :: r) nx).2.2 = [(r.length, v)]) ∨
    (loopNext b c (fr :: r) nx).2.2 = (r.length, 0) :: (loopNext b c r nx).2.2 := by
  rw [loopNext]
  split
  · exact Or.inl rfl
  · dsimp only
    generalize (if fr.keep = true then fr.count else bitsOf (loopWord b c r.length) 31 16) = n
    split
    · exact Or.inr (Or.inl ⟨_, rfl⟩)
    · exact Or.inr (Or.inr rfl)

/-- The loop levels that closing and repeating loops write lie below the nesting depth. -/
theorem loopNext_level (b : Block) (c : Nat) (l : List LoopFrame) (nx : Nat) :
    ∀ p ∈ (loopNext b c l nx).2.2, p.1 < l.length := by
  induction l with
  | nil => simp [loopNext]
  | cons fr r ih =>
    intro p hp
    rcases loopNext_cons b c fr r nx with h | ⟨v, h⟩ | h <;> rw [h] at hp
    · simp at hp
    · simp at hp; subst hp; simp
    · simp only [List.mem_cons] at hp
      rcases hp with rfl | hp
      · simp
      · have := ih p hp; simp; omega

/-- Loop registers written one after another. -/
theorem setLoops_cons (c : Nat) (p : Nat × Nat) (l : List (Nat × Nat)) (b : Block) :
    (Act.setLoops c (p :: l)).run b =
      (Act.setLoops c l).run ((Act.when (decide (p.1 < 4)) (.setReg (.seqLoop c p.1) p.2)).run b) := (rfl)

/-- A register after loop registers are written. -/
theorem rd_setLoops (c : Nat) (l : List (Nat × Nat)) (b : Block) (r : Reg)
    (h : ∀ p ∈ l, p.1 < 4 → (Reg.seqLoop c p.1).addr ≠ r.addr) : rd ((Act.setLoops c l).run b) r = rd b r := by
  induction l generalizing b with
  | nil => rfl
  | cons p q ih =>
    rw [setLoops_cons, ih _ fun x hx => h x (List.mem_cons_of_mem _ hx)]
    unfold Act.when
    split
    · next hp => exact rd_setReg _ _ _ _ (h p List.mem_cons_self (by simpa using hp))
    · rfl

/-- The registers SEQ_LOOP of the levels that close or repeat. -/
theorem setLoops_same (c : Nat) (l : List LoopFrame) (a b : Block) (nx : Nat) :
    ∀ p ∈ (loopNext a c l nx).2.2, p.1 < 4 →
      rd ((Act.setLoops c (loopNext a c l nx).2.2).run b) (.seqLoop c p.1) = p.2 % 2 ^ 32 := by
  induction l generalizing b with
  | nil => simp [loopNext]
  | cons fr r ih =>
    intro p hp h4
    have hlev := loopNext_level a c r nx
    rcases loopNext_cons a c fr r nx with h | ⟨v, h⟩ | h <;> rw [h] at hp ⊢
    · simp at hp
    · simp at hp; subst hp
      rw [setLoops_cons, show decide (r.length < 4) = true by simpa using h4, Act.when_true]
      exact rd_setReg_self _ _ _
    · simp only [List.mem_cons] at hp
      rw [setLoops_cons]
      rcases hp with rfl | hp
      · rw [rd_setLoops, show decide (r.length < 4) = true by simpa using h4, Act.when_true, rd_setReg_self]
        · rfl
        · intro q hq _; have := hlev q hq; simp only [Reg.addr_seqLoop, ne_eq]; omega
      · exact ih _ p hp h4

@[simp] theorem setLoops_toUnits (c : Nat) (l : List (Nat × Nat)) (b : Block) :
    ((Act.setLoops c l).run b).toUnits = b.toUnits := by
  induction l generalizing b with
  | nil => rfl
  | cons p q ih => rw [setLoops_cons, ih]; unfold Act.when; split <;> rfl
@[simp] theorem setLoops_mem (c : Nat) (l : List (Nat × Nat)) (b : Block) :
    ((Act.setLoops c l).run b).mem = b.mem := by
  induction l generalizing b with
  | nil => rfl
  | cons p q ih => rw [setLoops_cons, ih]; unfold Act.when; split <;> rfl

/-- The registers that going to another entry writes. -/
def goWindows (c : Nat) : List (Nat × Nat) :=
  [(Reg.seqStatus c).window, (Reg.coreStatus c).window, ((Reg.seqLoop c 0).addr, 0x10)]

/-- Where a sequencer goes, in a partition that lets it go on. -/
theorem goTo_run (b : Block) (c f nx : Nat) (hc : c < 25600)
    (ho : ownerOfCore b c = some f) (hg : agentMayGo b f = true) (hs : seqState b c ≠ seqFaulted) :
    let t := (Act.goTo c nx).run b
    WentTo b t c nx ∧ core t c = { core b c with
      loops := (loopNext b c (core b c).loops nx).1, inv := none, seqWaiting := false } ∧
    OtherCoresKept b t c ∧ t.toUnits = { b.toUnits with cores := t.cores } ∧ RegsKept b t (goWindows c) ∧
    t.mem = b.mem := by
  have hlt := coreBase_lt hc
  have hsame := setLoops_same c (core b c).loops b
  generalize ht : (Act.goTo c nx).run b = t
  obtain ⟨b1, hb1⟩ : ∃ y, y = (Act.onCore c (fun s => { s with
    loops := (loopNext b c (core b c).loops nx).1, inv := none, seqWaiting := false })).run b := ⟨_, rfl⟩
  obtain ⟨b2, hb2⟩ : ∃ y, y = (Act.setLoops c (loopNext b c (core b c).loops nx).2.2).run b1 :=
    ⟨_, rfl⟩
  obtain ⟨b3, hb3⟩ : ∃ y, y = (Act.setSeqEntry c (loopNext b c (core b c).loops nx).2.1).run b2 := ⟨_, rfl⟩
  obtain ⟨b4, hb4⟩ : ∃ y, y = (Act.setFld (.coreStatus c) 0 0 0).run b3 := ⟨_, rfl⟩
  obtain ⟨b5, hb5⟩ : ∃ y, y = (Act.setSeqState c seqRunning).run b4 := ⟨_, rfl⟩
  have ht5 : t = b5 := by
    rw [← ht, hb5, hb4, hb3, hb2, hb1]
    simp only [Act.goTo, Act.read_run, Act.all_cons, Act.all_nil, ho, hg, if_true]
    rw [show (seqState b c != seqFaulted) = true by simpa using hs, Act.when_true]
  have hl2 : ∀ p ∈ (loopNext b c (core b c).loops nx).2.2, p.1 < 4 → rd b2 (.seqLoop c p.1) = p.2 % 2 ^ 32 := by
    intro p hp; rw [hb2]; exact hsame b1 nx p hp
  clear hsame
  unfold WentTo goWindows
  generalize loopNext b c (core b c).loops nx = x at *
  have h12 : ∀ r : Reg, (∀ p ∈ x.2.2, p.1 < 4 → (Reg.seqLoop c p.1).addr ≠ r.addr) → rd b2 r = rd b r := by
    intro r hr; rw [hb2, rd_setLoops _ _ _ _ hr, hb1, rd_onCore]
  have h23 : ∀ r : Reg, (Reg.seqStatus c).addr ≠ r.addr → rd b3 r = rd b2 r := by
    intro r hr; rw [hb3]; exact rd_setFld_other _ _ _ _ _ _ hr
  have h34 : ∀ r : Reg, (Reg.coreStatus c).addr ≠ r.addr → rd b4 r = rd b3 r := by
    intro r hr; rw [hb4]; exact rd_setFld_other _ _ _ _ _ _ hr
  have h45 : ∀ r : Reg, (Reg.seqStatus c).addr ≠ r.addr → rd b5 r = rd b4 r := by
    intro r hr; rw [hb5]; exact rd_setFld_other _ _ _ _ _ _ hr
  have hu : b5.toUnits = b1.toUnits := by
    rw [hb5, hb4, hb3, hb2]
    simp only [Act.setSeqState, Act.setSeqEntry, setFld_run, Act.setReg_toUnits, setLoops_toUnits]
  have hu1 : b1.toUnits = { b.toUnits with
      cores := smPut b.cores c { core b c with loops := x.1, inv := none, seqWaiting := false } } := by rw [hb1]; rfl
  have hmem : b5.mem = b.mem := by
    rw [hb5, hb4, hb3, hb2, hb1]
    simp only [Act.setSeqState, Act.setSeqEntry, setFld_run, Act.setReg_mem, setLoops_mem]; rfl
  have hcore : ∀ d, core b5 d = if c = d then { core b c with loops := x.1, inv := none, seqWaiting := false } else core b d := by
    intro d
    rw [show core b5 d = core b1 d by unfold core; rw [hu], hb1]; exact core_onCore c d _ b
  rw [ht5]
  refine ⟨⟨?_, ?_, ?_, ?_, ?_, ?_, ?_⟩, ?_, ?_, ?_, ?_, hmem⟩
  · rw [hcore, if_pos rfl]
  · rw [hcore, if_pos rfl]
  · rw [hcore, if_pos rfl]
  · intro p hp h4
    rw [h45 _ (by simp; omega), h34 _ (by simp; omega), h23 _ (by simp; omega)]
    exact hl2 p hp h4
  · unfold seqEntry
    rw [hb5, Act.setSeqState, fld_setFld_other (Reg.seqStatus c) _ _ _ 11 0 _ (Reg.width_le _) (by simp [Reg.width]) (by omega) (by omega) (by omega)]
    unfold fld; rw [h34 _ (by simp), hb3]
    exact fld_setFld (Reg.seqStatus c) 11 0 _ _ (Reg.width_le _) (by simp [Reg.width]) (by omega)
  · unfold seqState
    rw [hb5]
    exact fld_setFld (Reg.seqStatus c) 19 16 _ _ (Reg.width_le _) (by simp [Reg.width]) (by omega)
  · have : fld b5 (.coreStatus c) 0 0 = 0 := by
      unfold fld; rw [h45 _ (by simp), hb4]
      exact fld_setFld (Reg.coreStatus c) 0 0 0 _ (Reg.width_le _) (by simp [Reg.width]) (by omega)
    simpa [flag, bitOf, fld, bitsOf] using this
  · rw [hcore, if_pos rfl]
  · intro d hd; rw [hcore, if_neg (Ne.symm hd)]
  · rw [hu, hu1]
  · intro r hr
    have h1 := hr (Reg.seqStatus c).window (by simp)
    have h2 := hr (Reg.coreStatus c).window (by simp)
    simp only [Reg.window] at h1 h2
    rw [h45 r (by omega), h34 r (by omega), h23 r (by omega)]
    apply h12
    intro p _ h4
    have h3 := hr ((Reg.seqLoop c 0).addr, 0x10) (by simp)
    simp only [Reg.addr_seqLoop] at h3 ⊢
    omega

theorem loopNext_congr {b b' : Block} (c : Nat) (h : ∀ n < 4, rd b' (.seqLoop c n) = rd b (.seqLoop c n))
    (l : List LoopFrame) (nx : Nat) : loopNext b' c l nx = loopNext b c l nx := by
  have hw : ∀ n, loopWord b' c n = loopWord b c n := fun n => by
    unfold loopWord; split
    · next hn => exact h n hn
    · rfl
  induction l with
  | nil => rfl
  | cons fr r ih => simp only [loopNext, hw, ih]

theorem agentMayGo_congr {b b' : Block} (f : Nat) (h : b'.parts = b.parts) : agentMayGo b' f = agentMayGo b f := by
  unfold agentMayGo part; rw [h]

theorem ownerOfCore_congr {b b' : Block} (c : Nat) (h : b'.parts = b.parts) : ownerOfCore b' c = ownerOfCore b c := by
  unfold ownerOfCore ownerOfPlot owners part; rw [h]

variable {c f : Nat} {e : BitVec 512} {st : Nat} {fl : BitVec 4} {sk : Nat} {k : Counters}

/-- An entry is recorded and its sequencer goes on. -/
theorem complete_run (b : Block) (nx : Nat) (hc : c < 25600) (hq : sigSound b c f e = true)
    (ho : ownerOfCore b c = some f) (hg : agentMayGo b f = true) (hs : seqState b c ≠ seqFaulted) :
    EntryCompleted b ((Act.goTo c nx).run ((Act.finish c f e st fl sk k).run b)) c f e
      (creBytes (seqEntry b c) (opcodeOf e) st fl (rd b (.seqInvoc c) % 2 ^ 32) sk k) nx := by
  unfold EntryCompleted
  have hlt := coreBase_lt hc
  obtain ⟨hr, hu, hh, hk, hm⟩ := finish_run (st := st) (fl := fl) (sk := sk) (k := k) b hc hq
  obtain ⟨hrel, _⟩ := sigReleased_spec hq
  generalize (Act.finish c f e st fl sk k).run b = m at *
  have hwin := sigWindows_ring b c e
  generalize sigReleased b c f e = b1 at *
  generalize sigWindows b c e = w at *
  have hkeep : ∀ r : Reg, r.addr ≠ (Reg.seqInvoc c).addr →
      (r.addr < (Reg.seqCrec c 0).addr ∨ (Reg.seqCrec c 0).addr + 0x20 ≤ r.addr) →
      (r.addr < (Reg.strRingPtr c 0).addr ∨ (Reg.strRingPtr c 0).addr + 0x100 ≤ r.addr) → rd m r = rd b r := by
    intro r h1 h2 h3
    apply hk
    simp only [List.cons_append, List.nil_append, Reg.window, List.mem_cons, forall_eq_or_imp]
    exact ⟨by omega, h2, fun x hx => by have := hwin x hx; omega⟩
  have hparts : m.parts = b.parts := by rw [hu, hrel.units]
  have hcores : m.cores = b1.cores := by rw [hu]
  have hcore : ∀ d, core m d = core b1 d := fun d => by unfold core; rw [hcores]
  have hloops : (core b1 c).loops = (core b c).loops := by rw [hrel.core]
  have hst : rd m (.seqStatus c) = rd b (.seqStatus c) := hkeep _ (by simp) (by simp) (by simp)
  obtain ⟨hw, hcc, hoc, hu2, hk2, hm2⟩ := goTo_run m c f nx hc ((ownerOfCore_congr c hparts).trans ho)
    ((agentMayGo_congr f hparts).trans hg) (by unfold seqState fld; rw [hst]; exact hs)
  generalize (Act.goTo c nx).run m = t at *
  have hl : ∀ l, loopNext m c l nx = loopNext b c l nx := fun l =>
    loopNext_congr c (fun n _ => hkeep _ (by simp; omega) (by simp) (by simp; omega)) l nx
  have hk3 : ∀ r : Reg, r.addr ≠ (Reg.seqStatus c).addr → r.addr ≠ (Reg.coreStatus c).addr →
      (r.addr < (Reg.seqLoop c 0).addr ∨ (Reg.seqLoop c 0).addr + 0x10 ≤ r.addr) → rd t r = rd m r := by
    intro r h1 h2 h3
    apply hk2
    simp only [goWindows, Reg.window, List.mem_cons, List.not_mem_nil, or_false, forall_eq_or_imp, forall_eq]
    exact ⟨by omega, by omega, h3⟩
  refine ⟨⟨?_, ?_, ?_⟩, ?_, ?_, ?_, ?_, ?_, ?_, ?_⟩
  · rw [hk3 _ (by simp) (by simp) (by simp)]; exact hr.1
  · intro w hw
    rw [hk3 _ (by simp ; omega) (by simp ; omega) (by simp ; omega)]; exact hr.2.1 w hw
  · intro h
    have : scr t c (ef e 63 48 * 32) 32 = scr m c (ef e 63 48 * 32) 32 := by
      unfold scr bytesAt byteAt; rw [hm2]
    rw [this]; exact hr.2.2 h
  · unfold WentTo at hw ⊢
    rw [hcore, hl, hloops] at hw
    exact hw
  · intro d hd; rw [hoc d hd, hcore]; exact hrel.others d hd
  · rw [hu2, hu, hrel.units]
  · rw [hcc, hcore, hl, hloops, hrel.core]
  · intro r hr
    have hp : rd t (.strRingPtr c r) = rd m (.strRingPtr c r) :=
      hk3 _ (by simp ; omega) (by simp [coreBase] ; omega) (by simp ; omega)
    obtain ⟨h1, h2⟩ := hh r hr
    unfold ringHead ringTail fld at *
    rw [hp]; exact ⟨h1, h2⟩
  · intro r hx
    have h1 : RegsKept m t (goWindows c) := hk2
    simp only [entryWindows, Reg.window, List.cons_append, List.nil_append, List.mem_cons, forall_eq_or_imp] at hx
    rw [h1 r, hk r]
    · simp only [Reg.window, List.cons_append, List.nil_append, List.mem_cons, forall_eq_or_imp]
      exact ⟨hx.2.2.1, by omega, hx.2.2.2.2⟩
    · simp only [goWindows, Reg.window, List.mem_cons, List.not_mem_nil, or_false, forall_eq_or_imp, forall_eq]
      simp only [Reg.addr_seqCrec, Reg.addr_seqLoop] at hx ⊢
      exact ⟨hx.1, hx.2.1, by omega⟩
  · intro a ha
    have := hm a ha
    unfold byteAt at this ⊢
    rw [hm2]; exact this

/-- Block m agrees with b on what the sequencer of core c reads as it completes an entry. -/
structure SeqSame (c : Nat) (b m : Block) : Prop where
  status : rd m (.seqStatus c) = rd b (.seqStatus c)
  invoc : rd m (.seqInvoc c) = rd b (.seqInvoc c)
  loop : ∀ n < 4, rd m (.seqLoop c n) = rd b (.seqLoop c n)
  geom : ∀ r, rd m (.strRingGeom c r) = rd b (.strRingGeom c r)
  robj : ∀ r, rd m (.strRingObj c r) = rd b (.strRingObj c r)
  ptr : ∀ r, rd m (.strRingPtr c r) = rd b (.strRingPtr c r)
  cfg : ∀ o, rd m (.synObjCfg o) = rd b (.synObjCfg o)
  loops : (core m c).loops = (core b c).loops
  same : RelSame c b m

theorem SeqSame.entry {c : Nat} {b m : Block} (h : SeqSame c b m) : seqEntry m c = seqEntry b c := by
  unfold seqEntry fld; rw [h.status]
theorem SeqSame.state {c : Nat} {b m : Block} (h : SeqSame c b m) : seqState m c = seqState b c := by
  unfold seqState fld; rw [h.status]
theorem SeqSame.live {c : Nat} {b m : Block} (h : SeqSame c b m) (f i : Nat) : liveObj m f i = liveObj b f i :=
  liveObj_congr f i h.same.parts h.cfg
theorem SeqSame.freed {c : Nat} {b m : Block} (h : SeqSame c b m) (o : Nat) : freedRings m c o = freedRings b c o := by
  unfold freedRings ringSlots ringFree fld; simp only [h.geom, h.robj]
theorem SeqSame.sound {c : Nat} {b m : Block} (h : SeqSame c b m) (f : Nat) (e : BitVec 512) :
    sigSound m c f e = sigSound b c f e := by
  unfold sigSound slotsSound; rw [h.live, h.freed]
  simp only [ringSound_congr h.same]
theorem SeqSame.windows {c : Nat} {b m : Block} (h : SeqSame c b m) (e : BitVec 512) :
    sigWindows m c e = sigWindows b c e := by unfold sigWindows ringWindows; rw [h.freed]
theorem SeqSame.step {c : Nat} {b m : Block} (h : SeqSame c b m) (e : BitVec 512) : sigStep m c e = sigStep b c e := by
  funext r; unfold sigStep headStep; rw [h.freed]
theorem SeqSame.heads {c : Nat} {b m t : Block} (h : SeqSame c b m) {k : Nat → Nat} (hk : HeadsMoved m t c k) :
    HeadsMoved b t c k := by
  intro r hr
  have h1 : ringHead m c r = ringHead b c r := by unfold ringHead fld; rw [h.ptr]
  have h2 : ringTail m c r = ringTail b c r := by unfold ringTail fld; rw [h.ptr]
  rw [← h1, ← h2]; exact hk r hr
theorem SeqSame.msgs {c : Nat} {b m : Block} (h : SeqSame c b m) (f : Nat) (e : BitVec 512) :
    sigMsgs m c f e = sigMsgs b c f e := by unfold sigMsgs; rw [h.live, h.entry]
theorem SeqSame.next {c : Nat} {b m : Block} (h : SeqSame c b m) (nx : Nat) :
    loopNext m c (core m c).loops nx = loopNext b c (core b c).loops nx := by
  rw [h.loops]; exact loopNext_congr c h.loop _ nx

/-- An entry's own effect has made m of b; it is recorded and its sequencer goes on. -/
theorem complete_from {b m : Block} (h : SeqSame c b m) (nx : Nat) (hc : c < 25600) (hq : sigSound b c f e = true)
    (ho : ownerOfCore b c = some f) (hg : agentMayGo b f = true) (hs : seqState b c ≠ seqFaulted) :
    let t := (Act.goTo c nx).run ((Act.finish c f e st fl sk k).run m)
    RecordWritten b t c e (creBytes (seqEntry b c) (opcodeOf e) st fl (rd b (.seqInvoc c) % 2 ^ 32) sk k) ∧
    WentTo b t c nx ∧ OtherCoresKept m t c ∧
    t.toUnits = { m.toUnits with
      cores := t.cores, ports := (sigReleased b c f e).ports, syncNet := m.syncNet ++ sigMsgs b c f e } ∧
    core t c = { core m c with
      loops := (loopNext b c (core b c).loops nx).1, inv := none, seqWaiting := false,
      ringRel := (core (sigReleased b c f e) c).ringRel } ∧
    HeadsMoved b t c (sigStep b c e) ∧
    RegsKept m t (entryWindows c ++ sigWindows b c e) ∧ BytesKept m t (recordWindows c e) := by
  obtain ⟨h1, h2, h3, h4, h5, h6, h7, h8⟩ := complete_run (st := st) (fl := fl) (sk := sk) (k := k) m nx hc
    ((h.sound f e).trans hq) ((ownerOfCore_congr c h.same.parts).trans ho) ((agentMayGo_congr f h.same.parts).trans hg)
    (by rw [h.state]; exact hs)
  have hf : RelSame c (sigReleased b c f e) (sigReleased m c f e) :=
    sigReleased_follow h.same (fun r _ => h.geom r) (fun r _ => h.robj r) hq
  refine ⟨?_, ?_, h3, ?_, ?_, ?_, ?_, h8⟩
  · unfold RecordWritten at h1 ⊢
    rw [h.entry, h.invoc] at h1; exact h1
  · unfold WentTo at h2 ⊢
    rw [h.next] at h2; exact h2
  · rw [h4, h.msgs, hf.ports]
  · rw [h5, h.next, hf.rel]
  · rw [h.step] at h6; exact h.heads h6
  · rw [h.windows] at h7; exact h7

/-- The same for a control entry. -/
theorem finishControl_from {b m : Block} (h : SeqSame c b m) (hc : c < 25600) (hq : sigSound b c f e = true)
    (ho : ownerOfCore b c = some f) (hg : agentMayGo b f = true) (hs : seqState b c ≠ seqFaulted) :
    let t := (Act.finishControl c f e).run m
    RecordWritten b t c e (ctlRecord b c e 0) ∧ WentTo b t c (seqEntry b c + 1) ∧ OtherCoresKept m t c ∧
    t.toUnits = { m.toUnits with
      cores := t.cores, ports := (sigReleased b c f e).ports, syncNet := m.syncNet ++ sigMsgs b c f e } ∧
    core t c = { core m c with
      loops := (loopNext b c (core b c).loops (seqEntry b c + 1)).1, inv := none, seqWaiting := false,
      ringRel := (core (sigReleased b c f e) c).ringRel } ∧
    HeadsMoved b t c (sigStep b c e) ∧
    RegsKept m t (entryWindows c ++ sigWindows b c e) ∧ BytesKept m t (recordWindows c e) := by
  have := complete_from (st := 0) (fl := 0) (sk := 0) (k := Counters.zero) h (seqEntry b c + 1) hc hq ho hg hs
  unfold Act.finishControl
  simp only [Act.read_run, Act.all_cons, Act.all_nil, h.entry]
  exact this

theorem SeqSame.refl (c : Nat) (b : Block) : SeqSame c b b :=
  ⟨rfl, rfl, fun _ _ => rfl, fun _ => rfl, fun _ => rfl, fun _ => rfl, fun _ => rfl, rfl, rfl, rfl, rfl, rfl, rfl⟩

/-- What a ready entry says of the sequencer. -/
theorem readyOp_spec {b : Block} {c op f : Nat} {e : BitVec 512} (h : readyOp b c op = some (f, e)) :
    ownerOfCore b c = some f ∧ agentMayGo b f = true ∧ seqState b c = seqRunning ∧ (core b c).inv = none ∧
    (core b c).ended = false ∧ entryAt b c = some e ∧ opcodeOf e = op := by
  unfold readyOp readyEntry at h
  cases ho : ownerOfCore b c with
  | none => simp [ho] at h
  | some g =>
    rw [ho] at h
    simp only at h
    by_cases hg : (agentMayGo b g && seqState b c == seqRunning && (core b c).inv.isNone && !(core b c).ended) = true
    · rw [if_pos hg] at h
      cases he : entryAt b c with
      | none => simp [he] at h
      | some x =>
        simp only [he, Option.map_some] at h
        by_cases hp : opcodeOf x = op
        · rw [if_pos hp] at h
          simp only [Option.some.injEq, Prod.mk.injEq] at h
          obtain ⟨rfl, rfl⟩ := h
          simp only [Bool.and_eq_true, beq_iff_eq, Bool.not_eq_true', Option.isNone_iff_eq_none] at hg
          exact ⟨rfl, hg.1.1.1, hg.1.1.2, hg.1.2, hg.2, rfl, hp⟩
        · rw [if_neg hp] at h; exact absurd h (by simp)
    · rw [if_neg hg] at h; simp at h

end Sys2Proof.Machine
end

