-- ==== Sys2Proof/Tests/Slice0.lean ====
section
/-! SUPPORT. Tests: ill-formed commands, small tests of commands, and a state that meets each statement's hypotheses. -/

namespace Sys2Proof.Tests

open Sys2Proof Sys2Proof.Machine

set_option Elab.async false

/-! ## States -/

/-- A number made of fields, each with its lowest bit. -/
def word (fs : List (Nat × Nat)) : Nat := fs.foldl (fun n x => n + x.2 * 2 ^ x.1) 0

/-- A step-table entry, a stream instruction. -/
def ent (fs : List (Nat × Nat)) : BitVec 512 := BitVec.ofNat 512 (word fs)
def ins (fs : List (Nat × Nat)) : DWord := BitVec.ofNat 64 (word fs)

/-- The state that some acts make of the state after reset. -/
def made (l : List Act) : State := { State.reset with toBlock := (Act.all l).run State.reset.toBlock }

/-- An image of two logical cores on relative cores 0 and 1. -/
def image : Image :=
  { imageId := 7, nvar := 1, length := 0, planBeats := 10, plots := 1, cores := [], objs := [], parts := [],
    place := [[0, 1]], flows := [[]], peak := 0, energy := [], cache := none, domain := none, hasLink := false,
    plan := [] }

/-- A partition of plot 0 that runs the image. -/
def running : Partition :=
  { Partition.reset with st := .running, plots := 1, image := some image, variant := 0, started := true }

/-- Partition 1 runs entries es on core 0. -/
def runs (es : List (BitVec 512)) (l : List Act) : State :=
  made ([.onPart 1 fun _ => running, .onCore 0 fun k => { k with steps := es }, .setSeqState 0 seqRunning] ++ l)

/-- Object o is of type typ (1 semaphore, 2 barrier) with the state word st. -/
def object (o typ st : Nat) : Act :=
  Act.all [.setReg (.synObjCfg o) (typ * 2 ^ 30 + 5), .setReg (.synObjState o) st]

/-- Ring 2 of core 0: two slots of 256 bytes at 0x1000, FREE object 4, FULL object 5. -/
def ring2 : Act := Act.all [.setReg (.strRingBase 0 2) 256, .setReg (.strRingGeom 0 2) (2 * 256),
  .setReg (.strRingObj 0 2) (4 * 65536 + 5), .setReg (.strRingPtr 0 2) (65535 * 65536 + 65534)]

/-! ## Ill-formed commands: one for each check of Instr.wf -/

theorem test_wf_core : (Instr.wf (.matmul 25599)) = true ∧ (Instr.wf (.matmul 25600)) = false := by decide
theorem test_wf_array : (Instr.wf (.accumulatorSwap 0 1)) = true ∧ (Instr.wf (.accumulatorSwap 0 2)) = false := by decide
theorem test_wf_context : (Instr.wf (.yarrowEnd 0 3)) = true ∧ (Instr.wf (.yarrowEnd 0 4)) = false := by decide
theorem test_wf_virtual : (Instr.wf (.runStart 16)) = true ∧ (Instr.wf (.runStart 17)) = false ∧ (Instr.wf (.runStart 0)) = false := by
  decide
theorem test_wf_controller : (Instr.wf (.lpddrSlotService 15 63 none)) = true ∧ (Instr.wf (.lpddrSlotService 16 0 none)) = false ∧
    (Instr.wf (.lpddrSlotService 0 64 none)) = false ∧ (Instr.wf (.lpddrRequest 0 0 4 0 1 none)) = false := by decide
theorem test_wf_unit : (Instr.wf (.replayComplete 0 2 none [])) = true ∧ (Instr.wf (.replayComplete 0 3 none [])) = false ∧
    (Instr.wf (.arbitrationComplete 1 25600 true [])) = false := by decide
theorem test_wf_port : (Instr.wf (.frameStart 15)) = true ∧ (Instr.wf (.frameStart 16)) = false ∧
    (Instr.wf (.laneFailure 0 4 1)) = false := by decide
theorem test_wf_export : (Instr.wf (.exportEnd 127)) = true ∧ (Instr.wf (.exportEnd 128)) = false := by decide
theorem test_wf_mailbox : (Instr.wf (.getInfo 16 3)) = true ∧ (Instr.wf (.getInfo 17 0)) = false ∧ (Instr.wf (.getInfo 0 4)) = false := by
  decide
theorem test_wf_vector : (Instr.wf (.msixUnmask 0 63)) = true ∧ (Instr.wf (.msixUnmask 0 64)) = false := by decide
theorem test_wf_module : (Instr.wf (.ucieLaneFailure 2)) = false ∧ (Instr.wf (.ref156Lost 2)) = false ∧ (Instr.wf (.referenceRestored 3)) = false ∧
    (Instr.wf (.hardwareTrip 92)) = false := by decide
/-- A command that names no unit of the module stops by that name. -/
theorem test_no_such_unit : exec (.seqEnd 25600) State.reset = .fault .noSuchUnit := rfl

/-! ## The spec's worked examples -/

/-- 01_module.md, after R18: core 14,567 is on die 4, row 22, column 7; X 7, Y 102, plot 36; its frame and its A1 registers. -/
theorem test_core_number : coreXY 14567 = (7, 102) ∧ plotOf 14567 = 36 ∧ coreBase 14567 = 0xF0038E70000 ∧
    (Reg.arrStatus 14567 1).addr = 0xF0038E72000 ∧ Reg.ofAddr 0xF0038E72000 = some (.arrStatus 14567 1) := by decide +kernel
/-- 02_formats.md, Worked conversions: mode fast, S = 1. Formats 1 BF16, 2 FP16, 3 WF8a, 4 WF8b. -/
theorem test_conversions :
    (convert .fast 3 true (val32 0x40533333) (Q.ofInt 1)).code = 0x4D ∧ (convert .fast 3 true (val32 0x40533333) (Q.ofInt 1)).sat = false ∧
    (convert .fast 4 false (val32 0xC47A0000) (Q.ofInt 1)).code = 0xE8 ∧
    (convert .fast 3 true (.fin (Q.ofInt 233)) (Q.ofInt 1)).code = 0x7E ∧ (convert .fast 3 true (.fin (Q.ofInt 233)) (Q.ofInt 1)).sat = true ∧
    (convert .fast 3 true (.fin (Q.ofInt 232)) (Q.ofInt 1)).code = 0x7E ∧ (convert .fast 3 true (.fin (Q.ofInt 232)) (Q.ofInt 1)).sat = false ∧
    (convert .fast 2 false (.fin (Q.ofInt 65520)) (Q.ofInt 1)).code = 0x7C00 ∧ (convert .fast 2 false (.fin (Q.ofInt 65520)) (Q.ofInt 1)).ovf = true ∧
    (convert .fast 2 true (.fin (Q.ofInt 65520)) (Q.ofInt 1)).code = 0x7BFF ∧ (convert .fast 2 true (.fin (Q.ofInt 65520)) (Q.ofInt 1)).sat = true ∧
    (convert .fast 1 false (val32 0x3F808000) (Q.ofInt 1)).code = 0x3F80 := by decide +kernel
/-- 02_formats.md, Decoding an operand: FP16 0xC248 is -3.140625. -/
theorem test_decode_operand : (match decodeCode 2 0xC248 with
    | .fin q => (q.neg.lt (Q.mk 201 64 0) || (Q.mk 201 64 0).lt q.neg) == false
    | _ => false) = true := by decide +kernel
/-- 02_formats.md, One WF4 block on output; the values are multiples of 1/64. -/
def wf4Block : List OutVal := ([56, -40, 20, 3, -10, 0, 28, -56, 12, 24, -4, 44, 8, -20, 36, 52] : List Int).map fun n =>
  { v := if n = 0 then .zero false else .fin (Q.mk n 1 (-6)), ovf := false, flush := false, flags := 0 }
theorem test_wf4_block :
    let out := convRow .fast { fmt := 7, blk := true, sat := true } (Q.ofInt 1) wf4Block
    packCodes 7 out.codes = [0xC6, 0x02, 0x09, 0xE4, 0x32, 0x58, 0xA1, 0x54] ∧ out.exps = [0x7D] ∧ out.tally.cnt.flush = 2 ∧
      out.tally.cnt.sat = 0 ∧ out.tally.cnt.nan = 0 := by decide +kernel
/-- 02_formats.md, A scale slot across two invocations: WF8a, HEADROOM 1. -/
theorem test_scale_slot : slotScale Q.zero 0x3F800000 3 1 false = 0x3F800000 ∧ amaxWord (Q.ofInt 1500) = 0x44BB8000 ∧
    slotScale (amaxIn 0x44BB8000) 0x3F800000 3 1 false = 0x41800000 ∧
    (convert .fast 3 true (.fin (Q.mk 1500 16 0)) (Q.ofInt 1)).code = 0x74 := by decide +kernel

/-! ## Control entries -/

def waitEntry : BitVec 512 := ent [(0, 0x10), (64, 3), (80, 2)]
def waitState : State := runs [waitEntry] [object 3 1 0]
def barrierEntry : BitVec 512 := ent [(0, 0x12), (64, 511)]
def barrierState : State := runs [barrierEntry] [object 511 2 (3 * 2 ^ 15)]

theorem hyp_wait : isCore 0 = true ∧ liveObj waitState.toBlock 1 (ctlObj waitEntry) = some 3 ∧
    readyOp waitState.toBlock 0 opWait = some (1, waitEntry) := by decide +kernel
theorem hyp_barrier : isCore 0 = true ∧ liveObj barrierState.toBlock 1 (ctlObj barrierEntry) = some 511 ∧
    readyOp barrierState.toBlock 0 opBarrier = some (1, barrierEntry) := by decide +kernel

def signalEntry : BitVec 512 := ent [(0, 0x11), (64, 3), (80, 1), (32, 3), (47, 1), (48, 100)]
def signalState : State := runs [signalEntry] [object 3 1 0]

theorem hyp_signal : readyOp signalState.toBlock 0 opSignal = some (1, signalEntry) ∧
    liveObj signalState.toBlock 1 (ctlObj signalEntry) = some 3 ∧
    slotsSound signalState.toBlock 0 (ctlObj signalEntry) (.seq 0) = true ∧
    sigSound signalState.toBlock 0 1 signalEntry = true := by decide +kernel

/-- The same of an entry whose object and SIGOBJ are the FREE object of ring 2: it releases slots. -/
def releaseEntry : BitVec 512 := ent [(0, 0x11), (64, 4), (80, 1), (32, 4), (47, 1), (48, 100)]
def releaseState : State := runs [releaseEntry] [object 4 1 0, ring2]
theorem hyp_signal_releases : readyOp releaseState.toBlock 0 opSignal = some (1, releaseEntry) ∧
    liveObj releaseState.toBlock 1 (ctlObj releaseEntry) = some 4 ∧ freedRings releaseState.toBlock 0 4 = [2] ∧
    slotsSound releaseState.toBlock 0 (ctlObj releaseEntry) (.seq 0) = true ∧
    sigSound releaseState.toBlock 0 1 releaseEntry = true := by decide +kernel

def streamEntry : BitVec 512 := ent [(0, 0x13), (64, 5), (96, 11), (128, 12), (160, 13), (192, 14), (48, 0xFFFF)]
def streamState : State := runs [streamEntry] [.setReg (.strCtx 0 0) (2 ^ 31), .setReg (.strStatus 0) 1]

theorem hyp_stream : readyOp streamState.toBlock 0 opStream = some (1, streamEntry) ∧
    freeCtxOf streamState.toBlock 0 = some 1 ∧ sigSound streamState.toBlock 0 1 streamEntry = true := by decide +kernel

/-- All four contexts are active. -/
def fullCtxState : State := runs [streamEntry] [.each (List.range 4) fun x => .setReg (.strCtx 0 x) (2 ^ 31), .setReg (.strStatus 0) 15]
theorem hyp_stream_full : readyOp fullCtxState.toBlock 0 opStream = some (1, streamEntry) ∧
    freeCtxOf fullCtxState.toBlock 0 = none ∧ isFunc 1 = true := by decide +kernel

/-- PARAM of an immediate to word 3 of set 15, and of word 7 of a table to scratch. -/
def paramEntry : BitVec 512 := ent [(0, 0x15), (72, 77), (120, 3), (123, 15), (48, 0xFFFF)]
def paramState : State := runs [paramEntry] []
def paramScratch : BitVec 512 := ent [(0, 0x15), (64, 1), (66, 1), (72, 64), (104, 4), (127, 33), (48, 0xFFFF)]
def paramScratchState : State := runs [paramScratch] [.setScr 0 256 [1, 2, 3, 4]]

theorem hyp_param : readyOp paramState.toBlock 0 opParam = some (1, paramEntry) ∧
    sigSound paramState.toBlock 0 1 paramEntry = true ∧ bitOf paramEntry.toNat 66 = false := by decide +kernel
theorem hyp_param_scratch : readyOp paramScratchState.toBlock 0 opParam = some (1, paramScratch) ∧
    sigSound paramScratchState.toBlock 0 1 paramScratch = true ∧ bitOf paramScratch.toNat 66 = true ∧
    ∀ x ∈ recordWindows 0 paramScratch, scratchAt 0 (ef paramScratch 145 127 * 4) + 4 ≤ x.1 ∨
      x.1 + x.2 ≤ scratchAt 0 (ef paramScratch 145 127 * 4) := by decide +kernel

/-- LOOP of its planned count, of a runtime count of 0 with KEEP, and of one without. -/
def loopEntry (k : Nat) : BitVec 512 := ent [(0, 0x14), (64, 2), (80, 1), (92, k % 2), (93, k / 2), (16, 4), (48, 0xFFFF)]
def loopState (k : Nat) : State := runs [loopEntry k, endEntry, endEntry] []
where endEntry : BitVec 512 := ent [(0, 0x1F), (48, 0xFFFF)]

theorem hyp_loop : ∀ k < 4, readyOp (loopState k).toBlock 0 opLoop = some (1, loopEntry k) ∧
    sigSound (loopState k).toBlock 0 1 (loopEntry k) = true ∧ ef (loopEntry k) 79 64 = 2 ∧
    ef (loopEntry k) 91 80 = 1 ∧ bitOf (loopEntry k).toNat 93 = decide (2 ≤ k) ∧
    bitOf (loopEntry k).toNat 92 = (k % 2 == 1) ∧ rd (loopState k).toBlock (.seqRs 0 4 0) = 0 := by decide +kernel

def endEntry : BitVec 512 := ent [(0, 0x1F), (48, 0xFFFF)]
def endState (other : Bool) : State := runs [endEntry] [.onCore 1 fun k => { k with ended := other }]

theorem hyp_end : ∀ other, readyOp (endState other).toBlock 0 opEnd = some (1, endEntry) ∧
    sigSound (endState other).toBlock 0 1 endEntry = true ∧
    ((coresOf (endState other).toBlock 1).all fun d => (d == 0 || (Machine.core (endState other).toBlock d).ended) &&
      (List.range 4).all fun x => !ctxActive (endState other).toBlock d x) = other := by decide +kernel

/-! ## Array, pooling, resize and vector entries -/

/-- The invocation of an entry that has done its work, on core 0. -/
def doneWork (e : BitVec 512) : Invocation :=
  { latch (runs [e] []).toBlock 0 e with workDone := true, cnt := { sat := 1, flush := 2, nan := 3, ovf := 4 } }
def normEntry : BitVec 512 := ent [(0, 4), (24, 5), (30, 1), (346, 100), (48, 0xFFFF), (145, 1), (157, 1), (216, 1)]
def doneState : State := runs [normEntry] [.onCore 0 fun k => { k with inv := some (doneWork normEntry) }]

theorem hyp_invocation_complete : (Machine.core doneState.toBlock 0).inv = some (doneWork normEntry) ∧
    ownerOfCore doneState.toBlock 0 = some 1 ∧ workOver (Machine.core doneState.toBlock 0) (doneWork normEntry) = true ∧
    (Machine.core doneState.toBlock 0).vecReplay = none ∧
    (doneWork normEntry).startBeat + natAt (Machine.core doneState.toBlock 0).durs (doneWork normEntry).index / 256 ≤
      beat doneState.toBlock ∧ agentMayGo doneState.toBlock 1 = true ∧
    seqState doneState.toBlock 0 ≠ seqFaulted ∧ sigSound doneState.toBlock 0 1 normEntry = true := by decide +kernel

/-- A small entry of opcode op: one row of 32 elements; for pooling and resize one image of one by one pixels. -/
def workEntry (op sub avg : Nat) : BitVec 512 :=
  if op = 5 then ent [(0, 5), (11, 1), (48, 0xFFFF), (297, 0x1FFFF), (319, 1), (327, 1), (338, 1), (349, 1), (357, 1),
    (368, 1), (472, 1), (388, 2), (468, avg)]
  else if op = 6 then ent [(0, 6), (48, 0xFFFF), (297, 0x1FFFF), (365, 1), (393, 1), (317, avg)]
  else ent [(0, op), (48, 0xFFFF), (139, sub), (145, 1), (157, 1), (216, 1), (98, 1000), (276, 1), (363, 500)]
def workState (e : BitVec 512) : State := runs [e] [.setScr 0 0 [0, 0, 0x80, 0x3F, 0, 0, 0, 0x40]]

/-- A vector entry of each opcode, and both kinds of pooling and resize entries, meet the hypotheses. -/
theorem hyp_units : ∀ x ∈ [(4, 0, 0), (7, 0, 0), (8, 0, 0), (9, 0, 0), (10, 0, 0), (11, 0, 0), (11, 1, 0), (5, 0, 0),
    (5, 0, 1), (6, 0, 0), (6, 0, 1)],
    let e := workEntry x.1 x.2.1 x.2.2
    let b := (workState e).toBlock
    (((workRows 0 none).filter fun r => r.2 e).length = 1) ∧ readyEntry b 0 = some (1, e) ∧ extentsRun b 0 e = true ∧
      (Machine.core b 0).vecArmed = false ∧ unitsInRange 0 (workOf 0 (latch b 0 e)) (workOf 0 (latch b 0 e)).count 0
        ((Act.latchWork 0 (latch b 0 e)).run b) = true := by decide +kernel

/-- A vector entry on one row of 32 FP32 elements: A at 0, B at granule 8, C in format f at granule 1000. -/
def vecEntry (op sub f : Nat) : BitVec 512 :=
  ent [(0, op), (48, 0xFFFF), (81, 8), (98, 1000), (131, f), (139, sub), (145, 1), (157, 1), (216, 1)]
/-- A holds 1.0 and 2.0, B holds 3.0 and -2.0, and zeros follow. -/
def vecState (e : BitVec 512) : State := runs [e] [.setScr 0 0 (leBytes 0x3F800000 4 ++ leBytes 0x40000000 4),
  .setScr 0 128 (leBytes 0x40400000 4 ++ leBytes 0xC0000000 4)]
/-- Element k of A and of B; SUB and LT of element 0, a reduction over a row and over a column. -/
theorem hyp_unit_values :
    (let e := vecEntry opElemwise 1 0
     let b := (vecState e).toBlock
     let x := ((xRow b 0 (latch b 0 e) 0 0 allColumns).vals[0]?).getD (.zero false)
     let y := ((yRow b 0 (latch b 0 e) 0 0 allColumns).vals[0]?).getD (.zero false)
     opcodeOf e = opElemwise ∧ subopOf e = 1 ∧ 0 < natAt (latch b 0 e).ext 1 ∧ x.isFinite = true ∧ y.isFinite = true ∧
       (elemRat 1 x.toQ.rat y.toQ.rat 0 y.sign 0 0).isSome = true ∧ subopOf (vecEntry opElemwise 0x0B 0) = 0x0B ∧
       x.isNaN = false ∧ (decodeElem 0 0x7FC00000 127).isNaN = true) ∧
    (∀ axis ∈ [0, 1], let e := vecEntry opReduce 2 0 ||| ent [(380, axis)]
     opcodeOf e = opReduce ∧ subopOf e ≤ 2 ∧ bitOf e.toNat 380 = decide (axis = 1) ∧ natAt (latch (vecState e).toBlock 0 e).ext 0 ≠ 0) ∧
    (∀ i ∈ [2, 3], let e := vecEntry opGather 1 0 ||| ent [(363, 500), (276, 3)]
     let b := (runs [e] [.setScr 0 8000 (leBytes i 4)]).toBlock
     opcodeOf e = opGather ∧ subopOf e ≤ 1 ∧ sameFormat e = true ∧ signedOf (scrWord b 0 (auxAt e)) 32 = i ∧
       signedOf (ef e 307 276) 32 = 3) := by decide +kernel

/-- MATMUL, SCORE and CONV entries on both arrays; array 1 has the next pair of columns. -/
def tileEntry (op pre ring : Nat) : BitVec 512 :=
  if op = 2 then ent [(0, 2), (12, 3), (48, 0xFFFF), (297, 0x1FFFF), (319, 32), (327, 1), (338, 1), (349, 1), (357, 1),
    (368, 1), (472, 1), (388, 4)]
  else ent [(0, op), (12, 3), (48, 0xFFFF), (297, 0x1FFFF), (315, 1), (323, 4), (331, 1), (392, 1), (404, 1),
    (287, pre), (314, ring), (98, 2)]
def tileState (op : Nat) : State := runs [tileEntry op 0 0] []

theorem hyp_tiles : ∀ op, 1 ≤ op → op ≤ 3 →
    (((tileRows 0).filter fun r => r.2 (tileEntry op 0 0)).length = 1) ∧
    readyEntry (tileState op).toBlock 0 = some (1, tileEntry op 0 0) ∧
    extentsRun (tileState op).toBlock 0 (tileEntry op 0 0) = true := by
  intro op h1 h2
  have : op = 1 ∨ op = 2 ∨ op = 3 := by omega
  obtain rfl | rfl | rfl := this <;> decide +kernel

/-- A zero extent (1 row of shape set 1), a shape overrun (3 rows), a null repetition, a LOOP overrun. -/
def emptyEntry : BitVec 512 := ent [(0, 7), (16, 1), (24, 5), (30, 1), (48, 7), (145, 2), (157, 1), (216, 1)]
def extentState (rows : Nat) (loops : List LoopFrame) : State :=
  runs [emptyEntry] [.setReg (.seqRs 0 1 0) rows, .setReg (.seqRs 0 1 1) 32, .setReg (.seqRs 0 1 2) 1,
    .onCore 0 fun k => { k with loops := loops }]
def nullLoop : LoopFrame := { entry := 0, len := 1, count := 2, keep := true }

theorem hyp_zero_extent :
    (let b := (extentState 0 []).toBlock
     readyEntry b 0 = some (1, emptyEntry) ∧ sigSound b 0 1 emptyEntry = true ∧
      shapeOverrun emptyEntry (latch b 0 emptyEntry).ext (latch b 0 emptyEntry).extw = false ∧
      zeroExtent (latch b 0 emptyEntry).ext = true) ∧
    (let b := (extentState 3 []).toBlock
     readyEntry b 0 = some (1, emptyEntry) ∧ nullRepetition b 0 = false ∧
      shapeOverrun emptyEntry (latch b 0 emptyEntry).ext (latch b 0 emptyEntry).extw = true) ∧
    (let b := (extentState 3 [nullLoop]).toBlock
     readyEntry b 0 = some (1, emptyEntry) ∧ sigSound b 0 1 emptyEntry = true ∧ nullRepetition b 0 = true) := by
  decide +kernel

def overLoop : State := runs [loopEntry 2] [.setReg (.seqRs 0 4 0) 3]
theorem hyp_loop_overrun : readyEntry overLoop.toBlock 0 = some (1, loopEntry 2) ∧ opcodeOf (loopEntry 2) = opLoop ∧
    ef (loopEntry 2) 79 64 < loopCount overLoop.toBlock 0 (loopEntry 2) := by decide +kernel

/-- An array of core 0 in the invocation of an entry. -/
def arrayWork (e : BitVec 512) : Invocation := latch (runs [e] []).toBlock 0 e
def tile0 : Tile := { b2 := 0, b1 := 0, mt := 0, nt := 0 }
def arrayState (e : BitVec 512) (g : ArrState → ArrState) (l : List Act) : State :=
  runs [e] ([.onCore 0 (fun k => { k with inv := some (arrayWork e) }), .onArr 0 0 g] ++ l)

def startState : State := arrayState (tileEntry 1 0 0) (fun x => { x with next := some tile0 }) []
/-- A causal mask whose first key comes after the last query: the tile is skipped. -/
def skippedEntry : BitVec 512 := ent [(0, 3), (12, 3), (14, 1), (48, 0xFFFF), (295, 1), (297, 0x1FFFF), (315, 1), (323, 8),
  (331, 1), (392, 1), (404, 1)]
def skippedTile : Tile := { tile0 with nt := 6 }
def skippedState : State := arrayState skippedEntry (fun x => { x with next := some skippedTile }) []
def swapState : State := arrayState (tileEntry 1 0 0) (fun x => { x with liveTile := some tile0 }) []
/-- Its shadow set still drains a tile: the next one is held. -/
def fullShadow : State := arrayState (tileEntry 1 0 0) (fun x => { x with next := some tile0, shadowTile := some tile0 }) []
def preloadState : State := arrayState (tileEntry 1 1 0) (fun x => { x with next := some tile0, liveTile := some tile0 }) []

theorem hyp_array_sets :
    ((Machine.core startState.toBlock 0).inv = some (arrayWork (tileEntry 1 0 0)) ∧
      ((Machine.core startState.toBlock 0).arr 0).replay = none ∧ ((Machine.core startState.toBlock 0).arr 0).next = some tile0 ∧
      ((Machine.core startState.toBlock 0).arr 0).liveTile = none ∧
      shadowFree (some (arrayWork (tileEntry 1 0 0))) 0 ((Machine.core startState.toBlock 0).arr 0) = true ∧ isSkipped (arrayWork (tileEntry 1 0 0)) tile0 = false) ∧
    (((Machine.core skippedState.toBlock 0).arr 0).next = some skippedTile ∧
      shadowFree (some (arrayWork skippedEntry)) 0 ((Machine.core skippedState.toBlock 0).arr 0) = true ∧
      isSkipped (arrayWork skippedEntry) skippedTile = true) ∧
    (((Machine.core swapState.toBlock 0).arr 0).liveTile = some tile0 ∧
      shadowFree (some (arrayWork (tileEntry 1 0 0))) 0 ((Machine.core swapState.toBlock 0).arr 0) = true ∧
      shadowReady (arrayWork (tileEntry 1 0 0)) 0 ((Machine.core swapState.toBlock 0).arr 0) = true) ∧
    (((Machine.core preloadState.toBlock 0).arr 0).liveTile.isSome = true ∧
      shadowReady (arrayWork (tileEntry 1 1 0)) 0 ((Machine.core preloadState.toBlock 0).arr 0) = false) ∧
    (((Machine.core fullShadow.toBlock 0).arr 0).next.isSome = true ∧
      shadowFree (some (arrayWork (tileEntry 1 0 0))) 0 ((Machine.core fullShadow.toBlock 0).arr 0) = false) ∧
    (shadowNext (arrayWork (tileEntry 1 1 0)) 0 ((Machine.core preloadState.toBlock 0).arr 0) = some tile0 ∧
      hasPreload (arrayWork (tileEntry 1 1 0)).entry = true ∧
      ((Machine.core preloadState.toBlock 0).arr 0).preloaded < 32) := by decide +kernel

def drainState (r : Nat) : State :=
  arrayState (tileEntry 1 0 0) (fun x => { x with shadowTile := some tile0, drained := r }) []
def queued : QRow := { tile := tile0, row := 31, puts := [(64, [1, 2]), (2097151, [3])] }
def queueState : State := arrayState (tileEntry 1 0 0) (fun x => { x with queue := [queued] }) []
def ringState (w : Nat) : State :=
  arrayState (tileEntry 1 0 1) (fun x => { x with queue := [{ queued with puts := [(0, [1, 2])] }], ringWait := w })
    [object 4 1 0, object 5 1 0, ring2]

/-- Detections of the checks of a drained row and of a queued one, with the syndromes that make them fire. -/
def rowDet (code : Nat) : Det :=
  { code := code, uclass := 1, uid := 0, unit := 0, syndrome := if code = 1 then 3 * 2 ^ 16 + 5 * 2 ^ 24 else 2 ^ 16 }

theorem hyp_drain_detections : (∀ k ∈ [1, 2, 4, 5], detFires (rowDet k) = true ∧ (rowDet k).code = k) ∧
    fired none = none ∧ ((Machine.core (drainState 3).toBlock 0).arr 0).queue.length < 64 := by decide +kernel

/-- A residue of element 5 of row 3 that is not the accumulator's, a drain parity of word 1 of the queued row that differs. -/
def residueDet : Det := { code := 1, uclass := 1, uid := 0, unit := 0, syndrome := 3 + 5 * 2 ^ 8 + 9 * 2 ^ 24 }
def parityDet : Det := { code := 5, uclass := 1, uid := 0, unit := 0, syndrome := 31 + 1 * 2 ^ 8 + 2 ^ 24 }
theorem hyp_drain_fires :
    (let b := (drainState 3).toBlock
     let x := (Machine.core b 0).arr 0
     detFires residueDet = true ∧ detByte residueDet 0 = x.drained ∧ detByte residueDet 1 < 32 ∧
       detByte residueDet 2 = rowExpected b 0 (arrayWork (tileEntry 1 0 0)) tile0 x residueDet) ∧
    ((Machine.core (drainState 0).toBlock 0).arr 0).drained = 0 ∧ detFires (rowDet 4) = true ∧
    (∀ ring ∈ [0, 1], detByte parityDet 0 = queued.row ∧ detByte parityDet 1 < 32 ∧
      detByte parityDet 2 = wordParity (rowWord (arrayWork (tileEntry 1 0 ring)) queued (detByte parityDet 1)) ∧
      detByte parityDet 3 = 1 - detByte parityDet 2) := by decide +kernel

theorem hyp_drain :
    (∀ r ∈ [0, 31], ((Machine.core (drainState r).toBlock 0).arr 0).shadowTile = some tile0 ∧
      ((Machine.core (drainState r).toBlock 0).arr 0).drained = r ∧ ((Machine.core (drainState r).toBlock 0).arr 0).armed = false) ∧
    ((Machine.core queueState.toBlock 0).arr 0).queue = [queued] ∧ ef (tileEntry 1 0 0) 314 314 = 0 ∧
    ef (tileEntry 1 0 1) 314 314 = 1 ∧ ef (tileEntry 1 0 1) 101 98 = 2 ∧
    (let b := (ringState 0).toBlock
     ((Machine.core b 0).arr 0).queue ≠ [] ∧ ownerOfCore b 0 = some 1 ∧ ((Machine.core b 0).arr 0).ringWait = 0 ∧
      liveObj b 1 (ringFree b 0 2) = some 4) ∧
    (let b := (ringState 2).toBlock
     ((Machine.core b 0).arr 0).ringWait = 2 ∧ liveObj b 1 (ringFull b 0 2) = some 5 ∧
      ringSound b 0 2 (.drain 0 0) true = true) := by decide +kernel

/-- A wait of 256 cycles on core 0, its units tested 256 beats ago; core 1 is the next core of the group. -/
def katState : State := runs [waitEntry] [.setReg .srlBeat 600,
  .onCore 0 fun k => { k with durs := [256], katTry := [344, 1, 2, 3, 344] }]

theorem hyp_known_answer : ∀ u < 5, hasUnit 0 u = true → katDue katState.toBlock 0 u = true := by decide +kernel
theorem hyp_known_answer_unit : hasUnit 0 0 = true ∧ hasUnit 0 1 = true ∧
    natAt (Machine.core katState.toBlock 0).katRun 0 % 256 = 0 ∧ katState.campion.hist.length < 131072 := by decide +kernel
theorem hyp_known_answer_agrees : katSignature 0 0 = crc32c (Config.katResult 0 0) := rfl

/-! ## Stream programs -/

/-- Context 1 of core 0 stands at instruction i, the last of program 0. -/
def yState (i : DWord) (l : List Act) : State :=
  runs [] ([.onCore 0 (fun k => { k with progs := [List.replicate 31 0 ++ [i]] }),
    .setReg (.strCtx 0 1) (2 ^ 31 + 31 * 2 ^ 16), .setReg (.strStatus 0) 2] ++ l)

def setbIns : DWord := ins [(58, 1), (55, 7), (53, 3), (50, 1), (51, 3), (0, 2 ^ 50 - 16)]
def setbState : State := yState setbIns [.onCtx 0 1 fun k => { k with args := [1, 2, 3, 4] }]
def setsIns : DWord := ins [(58, 2), (55, 7), (52, 7), (0, 2 ^ 32 - 16)]
def yloopIns (n : Nat) : DWord := ins [(58, 3), (52, 5), (24, 30), (0, n)]
def endlIns : DWord := ins [(58, 4), (52, 5), (24, 3)]
def endlState (lc : Nat) : State := yState endlIns [.onCtx 0 1 fun k => { k with
  lc := putAt k.lc 0 5 lc, lim := putAt k.lim 0 5 2, active := putAt k.active false 5 true }]

theorem hyp_yarrow_registers : isCtx 1 = true ∧ readyCtx setbState.toBlock 0 1 ySetb = some (1, setbIns) ∧
    readyCtx (yState setsIns []).toBlock 0 1 ySets = some (1, setsIns) ∧
    (∀ n ∈ [0, 2], readyCtx (yState (yloopIns n) []).toBlock 0 1 yLoop = some (1, yloopIns n)) ∧
    ∀ n ∈ [0, 1], readyCtx (endlState n).toBlock 0 1 yEndl = some (1, endlIns) := by decide +kernel

def syncIns (op : Nat) : DWord := ins [(58, op), (32, 4), (0, 2)]
def syncState (op typ : Nat) : State := yState (syncIns op) [object 4 typ 0, ring2]
/-- The same with a MOVE of the context in flight. -/
def flight (m : Move) : Act := .onCore 0 fun k => { k with moves := [m] }
def someMove : Move :=
  { ctx := 1, pc := 0, flow := 1, dst := .scratch 0x40, dstCore := 0, data := List.replicate 80 7, done := 0,
    pub := false, beat := 0, pages := [] }
def busyState (op : Nat) : State := yState (syncIns op) [object 4 1 0, ring2, flight { someMove with done := 2 }]

theorem hyp_yarrow_sync : liveObj (syncState 7 1).toBlock 1 4 = some 4 ∧
    readyCtx (syncState 7 1).toBlock 0 1 yWait = some (1, syncIns 7) ∧
    readyCtx (syncState 9 2).toBlock 0 1 yArrive = some (1, syncIns 9) ∧
    readyCtx (syncState 8 1).toBlock 0 1 ySignal = some (1, syncIns 8) ∧
    slotsSound (syncState 8 1).toBlock 0 4 (.ctx 0 1) = true ∧
    readyCtx (syncState 10 1).toBlock 0 1 yFence = some (1, syncIns 10) ∧
    readyCtx (syncState 0 1).toBlock 0 1 yEnd = some (1, syncIns 0) ∧
    ctxMoves (Machine.core (syncState 0 1).toBlock 0) 1 = [] := by decide +kernel
theorem hyp_yarrow_rel : let b := (syncState 6 1).toBlock
    readyCtx b 0 1 yRel = some (1, syncIns 6) ∧ yf (syncIns 6) 3 0 = 2 ∧ ringSlots b 0 2 ≠ 0 ∧
    liveObj b 1 (ringFree b 0 2) = some 4 ∧
    slotsSound b 0 (ringFree b 0 2) (.ctx 0 1) = true := by decide +kernel
theorem hyp_yarrow_deferred : ctxMoves (Machine.core (busyState 0).toBlock 0) 1 ≠ [] ∧
    ∀ x ∈ [(8, ySignal), (9, yArrive), (6, yRel), (10, yFence), (0, yEnd)],
      readyCtx (busyState x.1).toBlock 0 1 x.2 = some (1, syncIns x.1) := by decide +kernel

/-- A MOVE of 32 bytes from scratch to scratch within the core. -/
def moveIns : DWord := ins [(58, 5), (55, 1), (52, 0), (39, 0xFFF), (0, 2)]
def moveState : State := yState moveIns [.setScr 0 0 [1, 2, 3], .onCtx 0 1 fun k => { k with base := putAt k.base 0 1 0x800 }]
def moveChecked : Checked :=
  { data := [1, 2, 3] ++ List.replicate 29 0, dst := .scratch 0x800, dstCore := 0, used := [], reads := [], src := some (0, 0) }

theorem hyp_move : readyCtx moveState.toBlock 0 1 yMove = some (1, moveIns) ∧
    checkMove moveState.toBlock 1 0 1 moveIns = .ok moveChecked ∧ badIn moveState.toBlock moveChecked.reads = [] :=
  ⟨by decide +kernel, rfl, rfl⟩

/-- A MOVE to an offset beyond scratch, and one to an unmapped virtual address by flow 7 to controller 0. -/
def badIns (kind : Nat) : DWord := ins [(58, 5), (55, 1), (52, 0), (39, if kind = 0 then 0xFFF else 7), (0, 2)]
def badMove (kind : Nat) : State := yState (badIns kind) [.onCtx 0 1 (fun k =>
    { k with base := putAt k.base 0 1 (2 ^ 21 - 16), kind := putAt k.kind 0 1 kind }),
  .onPart 1 fun p => { p with image := some { image with
    flows := [[{ id := 7, srcKind := 0, dstKind := 2, src := 0, dst := 0, phases := 1 }]] } }]
theorem hyp_move_faults :
    (∀ kind ∈ [0, 1], readyCtx (badMove kind).toBlock 0 1 yMove = some (1, badIns kind)) ∧
    (match checkMove (badMove 0).toBlock 1 0 1 (badIns 0) with
     | .error (.address _) => true
     | _ => false) = true ∧
    (match checkMove (badMove 1).toBlock 1 0 1 (badIns 1) with
     | .error (.xlt _ _ _ _ _) => true
     | _ => false) = true := by decide +kernel

def flitState (done : Nat) : State := yState 0 [flight { someMove with done := done }]
theorem hyp_flit : ∀ done ∈ [0, 1], let b := (flitState done).toBlock
    (Machine.core b 0).moves[0]? = some { someMove with done := done } ∧ ownerOfCore b 0 = some 1 ∧
    moveAddr b 0 0 { someMove with done := done } (64 * done) = some (0x40 + 64 * done) ∧
    { someMove with done := done }.left = false ∧ inOrder b 0 0 { someMove with done := done } = true ∧
    (Machine.core b 0).inq.length < 64 := by decide +kernel

/-- 64 flits stand in the inbound queue. -/
def fullInq : State := yState 0 [flight someMove, .onCore 0 fun k => { k with inq := (List.range 64).map fun i => (64 * i, [0]) }]
theorem hyp_flit_full : let b := fullInq.toBlock
    (Machine.core b 0).moves[0]? = some someMove ∧ ownerOfCore b 0 = some 1 ∧ moveAddr b 0 0 someMove 0 = some 0x40 ∧
    someMove.left = false ∧ inOrder b 0 0 someMove = true ∧ 64 ≤ (Machine.core b 0).inq.length - 0 ∧ someMove.spoilt = [] := by decide +kernel

def localMove : Move := { someMove with flow := noFlow }
theorem hyp_move_complete : ∀ m ∈ [{ someMove with done := 2 }, localMove], let b := (yState moveIns [flight m]).toBlock
    (Machine.core b 0).moves[0]? = some m ∧ m.dst = .scratch 0x40 ∧ inOrder b 0 0 m = true ∧ (Machine.core b 0).inq = [] ∧
    ctxWaiting b 0 1 = false := by decide +kernel

/-! ## Objects -/

def sender : Waiter := { agent := .seq 0, n := 2, left := some 6 }
def other : Waiter := { agent := .ctx 1 2, n := 3, left := none }
def signalled (count n : Nat) (q : List Waiter) : State :=
  runs [] [object 3 1 count, .onObj 3 (fun o => { o with queue := q }), .issue (.sig 3 n (.seq 1) 0)]
def waiting (count : Nat) (q : List Waiter) : State :=
  runs [] [object 3 1 count, .onObj 3 (fun o => { o with queue := q }), .issue (.wait 3 sender)]

theorem hyp_semaphores :
    (∀ x ∈ [(65535, 0), (65530, 5), (0, 4)], let b := (signalled x.1 x.2 [sender, other]).toBlock
      objType b 3 = 1 ∧ (obj b 3).held = [] ∧ b.syncNet[0]? = some (.sig 3 x.2 (.seq 1) 0) ∧
        semCount b 3 + x.2 ≤ 65535) ∧
    (let b := (waiting 2 []).toBlock
     b.syncNet[0]? = some (.wait 3 sender) ∧ (obj b 3).queue = [] ∧ sender.n ≤ semCount b 3) ∧
    (let b := (waiting 1 []).toBlock
     b.syncNet[0]? = some (.wait 3 sender) ∧ semCount b 3 < sender.n) ∧
    (waiting 9 [other]).toBlock.syncNet[0]? = some (.wait 3 sender) ∧
      (obj (waiting 9 [other]).toBlock 3).queue ≠ [] := by decide +kernel

theorem hyp_signal_overflow : let b := (signalled 65535 1 []).toBlock
    objType b 3 = 1 ∧ b.syncNet[0]? = some (.sig 3 1 (.seq 1) 0) ∧ 65535 < semCount b 3 + 1 ∧ coreAgent b (.seq 1) 1 :=
  ⟨by decide +kernel, by decide +kernel, by decide +kernel, by decide +kernel, by decide +kernel, 1, by decide +kernel, .inl rfl⟩

/-- Barrier 3 of three participants, two of them in plot 0. -/
def barrierAt (arrived : Nat) (m : SyncMsg) (held : List Waiter) : State :=
  runs [] [object 3 2 (3 * 2 ^ 15 + arrived), .issue m,
    .onObj 3 (fun o => { o with shares := [(0, 2), (1, 1)], held := held, localCnt := if held = [] then [] else [(0, 1)] })]

theorem hyp_barriers :
    (let b := (barrierAt 0 (.arr 3 sender) []).toBlock
     b.syncNet[0]? = some (.arr 3 sender) ∧ objType b 3 = 2 ∧ ∀ v ∈ (obj b 3).held, v.agent ≠ sender.agent) ∧
    (let b := (barrierAt 0 (.arr 3 sender) [other]).toBlock
     b.syncNet[0]? = some (.arr 3 sender) ∧ objType b 3 = 2 ∧ ∀ v ∈ (obj b 3).held, v.agent ≠ sender.agent) ∧
    (let b := (barrierAt 0 (.comb 3 0 2) []).toBlock
     b.syncNet[0]? = some (.comb 3 0 2) ∧ (obj b 3).home = none ∧ barArrived b 3 + 2 < barCount b 3) ∧
    (let b := (barrierAt 1 (.comb 3 0 2) [sender, other]).toBlock
     b.syncNet[0]? = some (.comb 3 0 2) ∧ (obj b 3).home = none ∧ (obj b 3).ports = [] ∧
       barCount b 3 ≤ barArrived b 3 + 2) ∧
    (barrierAt 0 (.bcast 3 0) [sender, other]).toBlock.syncNet[0]? = some (.bcast 3 0) := by decide +kernel

theorem hyp_second_arrival : let b := (barrierAt 1 (.arr 3 sender) [other, sender]).toBlock
    b.syncNet[0]? = some (.arr 3 sender) ∧ objType b 3 = 2 ∧ (∃ v ∈ (obj b 3).held, v.agent = sender.agent) ∧ coreAgent b sender.agent 1 :=
  ⟨by decide +kernel, by decide +kernel, by decide +kernel, by decide +kernel, by decide +kernel, 0, by decide +kernel, .inl rfl⟩

def heldEntry : State := runs [waitEntry] [.setSeqState 0 seqWaits, .onCore 0 (fun k => { k with seqWaiting := true }),
  .issue (.rel (.seq 0))]
def heldCtx : State := yState (syncIns 7) [.setCtxWaiting 0 1 true, .onCtx 0 1 (fun k => { k with waiting := true }),
  .issue (.rel (.ctx 0 1))]
def heldDrain : State := runs [] [.onArr 0 1 (fun x => { x with ringWait := 1 }), .issue (.rel (.drain 0 1))]
def heldSlot : RxChan :=
  { channel := 9, core := 0, ring := 2, func := 1, got := [1], epochs := [], wait := 1, complete := true, dueBeat := 0 }
def heldReceiver : State := runs [] [.onPort 3 (fun x => { x with rx := [{ heldSlot with wait := 2 }, heldSlot] }),
  .issue (.rel (.bind 3 9))]
def heldDir : State := runs [] [.onDir 1 (fun d => { d with qwait := 1 }), .issue (.rel (.dir 1))]

theorem hyp_releases :
    (let b := heldEntry.toBlock
     b.syncNet[0]? = some (.rel (.seq 0)) ∧ entryAt b 0 = some waitEntry ∧ ownerOfCore b 0 = some 1 ∧
       agentMayGo b 1 = true ∧ (Machine.core b 0).seqWaiting = true ∧ seqState b 0 = seqWaits ∧
       sigSound b 0 1 waitEntry = true) ∧
    (let b := heldCtx.toBlock
     b.syncNet[0]? = some (.rel (.ctx 0 1)) ∧ (ctxOf (Machine.core b 0) 1).waiting = true ∧ ctxWaiting b 0 1 = true) ∧
    (heldDrain.syncNet[0]? = some (.rel (.drain 0 1)) ∧ ((Machine.core heldDrain.toBlock 0).arr 1).ringWait = 1) ∧
    (heldReceiver.syncNet[0]? = some (.rel (.bind 3 9)) ∧ (port heldReceiver.toBlock 3).rx[1]? = some heldSlot ∧
      ∀ y ∈ (port heldReceiver.toBlock 3).rx.take 1, y.channel ≠ 9 ∨ y.wait ≠ 1) ∧
    heldDir.syncNet[0]? = some (.rel (.dir 1)) ∧ (dir heldDir.toBlock 1).qwait = 1 := by decide +kernel

def spent : Waiter := { sender with left := some 0 }
/-- One wait outlives its bound in its queue, another on its way there; a third, of another object, is in time. -/
def expired : State := runs [waitEntry] [.setSeqState 0 seqWaits, .onObj 3 (fun o => { o with queue := [spent] }),
  .onObj 9 (fun o => { o with queue := [other] }), .issue (.wait 3 { spent with agent := .ctx 1 2 })]
theorem hyp_expired : let b := expired.toBlock
    expiredAt b 3 = [spent, { spent with agent := .ctx 1 2 }] ∧ expiredAt b 9 = [] ∧ isVf 1 = true ∧
    (part b 1).st = .running ∧ ownerOfPlot b (3 / 512) = some 1 ∧ spent.agent = .seq 0 ∧ spent.agent.func b = some 1 ∧
    (9, other) ∈ pendingWaits b 1 ∧ other.expired = false ∧ isFunc 1 = true ∧ seqState b 0 ≠ seqFaulted := by decide +kernel

/-! ## Beats -/

def lockedState (l : List Act) : State := runs [] (.power (fun p => { p with phase := .locked }) :: l)
def startingState : State := lockedState [.setReg .srlBeat 2, .onPart 1 (fun p => { p with started := false, startBeat := 2 })]
def longRun : State := lockedState [.onPart 1 fun p => { p with beatsRun := 11 }]
def energyState : State := lockedState [.setModState 3, .setReg .srlBeat 128]

/-- The beat before the controllers' self-refresh ends; a master whose lock is lost, in a module that is OPERATIONAL. -/
def refreshState : State := lockedState [.setReg .srlBeat 3755, .power (fun p => { p with wake := some (5, 0, 2) }), .setLpdState 15 lpdSelfRefresh]
def relockState : State := lockedState [.setModState modOperational, .setReg .srlDomStatus (3 * 2 ^ 30 + 0xFF * 2 ^ 8),
  .onPart 1 fun p => { p with st := .ready }]

theorem hyp_beat_boundary :
    (let b := refreshState.toBlock
     b.power.phase = .locked ∧ b.power.wake.map (fun x => refreshEnd x.1) = some ((beat b + 1) % 2 ^ 64) ∧
       lpdState b 15 = lpdSelfRefresh) ∧
    (let b := relockState.toBlock
     b.power.phase = .locked ∧ modState b = modOperational ∧ domState b = 3 ∧ fld b .srlDomStatus 15 8 = 0xFF ∧
       anyActive b = false) := by decide +kernel

theorem hyp_beats : (lockedState []).power.phase = .locked ∧
    (let b := startingState.toBlock
     (part b 1).st = .running ∧ (part b 1).started = false ∧ beat b = (part b 1).startBeat) ∧
    (let b := longRun.toBlock
     (part b 1).started = true ∧ (part b 1).planLogged = false ∧ (part b 1).image = some image ∧
       image.planBeats < (part b 1).beatsRun) ∧
    (let b := energyState.toBlock
     modState b = 3 ∧ beat b % 64 = 0 ∧ allowedEnergy b < 10 * 1000000) := by decide +kernel

/-- Readings of two sensors, the last one of them out of range, and of the last plot's rail. -/
def readings : Sample := { vin := 5600, iin := 1, pin := 2, cool := 3, flow := 4, sensors := [(0, 300), (91, 0x7FFF)], rails := [(63, 700)] }
theorem hyp_readings : (lockedState []).power.phase = .locked ∧ (readings.sensors.map (·.1)).Nodup ∧ (readings.rails.map (·.1)).Nodup ∧
    outOfRange 300 = false ∧ outOfRange 0x7FFF = true ∧ (lockedState []).power.failed = [] := by decide +kernel

/-! ## Memory controllers -/

/-- Controller 15 is ready; partition 1 holds its last chunk. -/
def lpdStateOf (l : List Act) : State :=
  runs [] ([.setLpdState 15 lpdReady, .onPart 1 (fun p => { p with chunks := [(15, 70)] }),
    .setReg (.lpdSlot 15 15) (1 * 2 ^ 24)] ++ l)
def lpdTop : Nat := chunkAt (15, 70) + chunkBytes - 64
def lpdWrite : LpdReq := { owner := 1, addr := lpdTop, len := 1024, write := true, left := 1024, data := [] }
def slotState (left : Nat) : State := lpdStateOf [.setReg .srlBeat 2, .onLpd 15 fun k => { k with queue := [{ lpdWrite with left := left }] }]

theorem hyp_lpddr : isCtl 15 = true ∧
    (let b := (lpdStateOf []).toBlock
     lpdState b 15 = lpdReady ∧ ctlAt 15 ≤ lpdTop ∧ lpdTop + 64 ≤ ctlAt 15 + ctlBytes ∧
       mayQueue b 1 lpdTop 64 true = true ∧ mayQueue b 1 lpdTop 64 false = true ∧ scrubDue b 15 (ctlAt 15) = true ∧
       scrubDue b 15 lpdTop = false) ∧
    (∀ n ∈ [512, 1024], let b := (slotState n).toBlock
      lpdState b 15 = lpdReady ∧ (lpd b 15).queue = [{ lpdWrite with left := n }] ∧ slotOwner b 15 63 = 1 ∧ slotNow b 15 63 = true) ∧
    slotNow (slotState 512).toBlock 15 0 = false ∧
    (let b := (lockedState []).toBlock
     answers b 0 = true ∧ isFenced b 7 15 = false ∧ (∀ g ∈ owners b, (part b g).chunks.any (fun x => x.1 == 15) = false) ∧
       (0xC0000005 : Word).getLsbD 30 = true) := by decide +kernel

/-- Chunk 70 is the checkpoint area; a read, a write and another function's read wait for a slot. -/
def areaState : State := lpdStateOf [.onPart 1 fun p => { p with ckpts := [{ gen := 3, began := 0, pendingEpochs := [], beatsRun := 48, qidx := 0, qwait := 0, cores := [], objs := [] }] }]
def lpdRead (owner : Nat) : LpdReq := { owner := owner, addr := lpdTop, len := 64, write := false, left := 64, data := List.replicate 64 3 }
def queueState' : State := lpdStateOf [.setReg .srlBeat 2, .onLpd 15 fun k => { k with queue := [lpdRead 1, lpdRead 2, lpdWrite] }]
theorem hyp_lpddr_queue : areaOf areaState.toBlock lpdTop 64 = [1] ∧ areaOf (lpdStateOf []).toBlock lpdTop 64 = [] ∧
    mayQueue areaState.toBlock 1 lpdTop 64 true = true ∧
    (let b := queueState'.toBlock
     lpdState b 15 = lpdReady ∧ slotOwner b 15 63 = 1 ∧ slotNow b 15 63 = true ∧ (∀ q ∈ (lpd b 15).queue, 1 ≤ q.left) ∧
       (∃ q ∈ (lpd b 15).queue, q.owner = 1) ∧ (lpd b 15).bad = []) := by decide +kernel

/-! ## Detections, arbitration, rollback -/

/-- A replay of array 0 with n records held, one of them of a permanent fault if perm. -/
def replay (n : Nat) (attempt : Nat) (perm : Bool) : Replay :=
  { attempt := attempt, dp := 0, uclass := 1, uid := 0, tile := tile0, injected := false,
    pend := List.replicate n ((Tansy.none.body State.reset.toBlock), perm) }
def replayState (n : Nat) (attempt : Nat) (perm : Bool) : State := runs [normEntry] [.onArr 0 0 (fun x => { x with replay := some (replay n attempt perm) }),
  .onCore 0 fun k => { k with inv := some (doneWork normEntry) }]
def vecReplayState (attempt : Nat) : State := runs [workEntry 7 0 0] [.onCore 0 fun k => { k with
  inv := some (latch (workState (workEntry 7 0 0)).toBlock 0 (workEntry 7 0 0)), vecReplay := some (replay 1 attempt false) }]
def vecDet : Det := { code := 3, uclass := 2, uid := 0, unit := 0, syndrome := 2 ^ 32 }

theorem hyp_replays :
    (∀ perm, let b := (replayState 1 1 perm).toBlock
      ((Machine.core b 0).arr 0).replay = some (replay 1 1 perm) ∧ ((replay 1 1 perm).pend.map (·.1.length)) = [124] ∧
      ((replay 1 1 perm).pend.map (·.2)) = [perm] ∧ (replay 1 1 perm).uclass ≠ 7 ∧ b.campion.hist.length < 131072 ∧
      b.campion.buffer.length < 4096) ∧
    (∀ k ∈ [1, 2], replayOf (Machine.core (replayState 1 k false).toBlock 0) 0 = some (replay 1 k false) ∧
      replayOf (Machine.core (vecReplayState k).toBlock 0) 2 = some (replay 1 k false) ∧ (replay 1 k false).attempt = k) ∧
    fired (some (rowDet 1)) = some (rowDet 1) ∧ replayCode 0 (rowDet 1).code = true ∧ fired (some vecDet) = some vecDet ∧
    replayCode 2 vecDet.code = true ∧ ownerOfCore (replayState 1 2 false).toBlock 0 = some 1 ∧
    (part (replayState 1 2 false).toBlock 1).image.isSome = true ∧
    (Machine.core (replayState 1 2 false).toBlock 0).inv = some (doneWork normEntry) ∧
    mayInject (replayState 1 1 false).toBlock 0 = true ∧
    mayInject State.reset.toBlock 0 = false := by decide +kernel
theorem hyp_vector_replay : let b := (vecReplayState 1).toBlock
    let i := latch (workState (workEntry 7 0 0)).toBlock 0 (workEntry 7 0 0)
    (Machine.core b 0).vecReplay = some (replay 1 1 false) ∧ (Machine.core b 0).inv = some i ∧
    unitsInRange 0 (workOf 0 i) ((workOf 0 i).count - i.units) i.units ((Act.replayPassed 0 2 (replay 1 1 false)).run b) = true := by
  decide +kernel

/-- A row detection reports an array's replay; one of unit 2 of three is later than the one replayed. -/
def threeRows : BitVec 512 := ent [(0, 7), (48, 0xFFFF), (145, 3), (157, 1), (216, 1), (98, 1000), (276, 1), (363, 500)]
def laterState : State := runs [threeRows] [.onCore 0 fun k => { k with
  inv := some (latch (workState threeRows).toBlock 0 threeRows), vecReplay := some (replay 1 1 false) }]
theorem hyp_later_unit :
    replayReport 0 0 (rowDet 1) = true ∧ laterUnit (replayState 1 1 false).toBlock 0 0 (rowDet 1) = false ∧
    (let y := { vecDet with unit := 2 }
     let b := laterState.toBlock
     let i := latch (workState threeRows).toBlock 0 threeRows
     y.code = 0x03 ∧ detFires y = true ∧ i.units < y.unit ∧ y.unit < (workOf 0 i).count ∧ (workOf 0 i).replayable = true ∧
       laterUnit b 0 2 y = true ∧ unitsInRange 0 (workOf 0 i) (y.unit - i.units) i.units ((Act.replayPassed 0 2 (replay 1 1 false)).run b) = true) := by
  decide +kernel
theorem hyp_injections :
    (let b := (lockedState [.units fun u => { u with vfs := 1 }]).toBlock
     answers b 0 = true ∧ mayInject b 0 = true ∧ answers b 1 = true ∧ mayInject b 25599 = false) := by decide +kernel

/-- Core 0's escalation, with the arbiters 1 and 80; the second replay drained two bytes. -/
def arbState (tried : Nat) : State := runs [] [.onCore 0 (fun k => { k with
  escalated := some (replay 3 3 false), arbTried := tried, kept := [1, 2] }), .setFld (.chkStatus 0) 2 2 1]
theorem hyp_arbitration : ∀ tried ∈ [0, 1], let b := (arbState tried).toBlock
    escalatedCore b 1 = some 0 ∧ (Machine.core b 0).escalated = some (replay 3 3 false) ∧ (Machine.core b 0).kept = [1, 2] ∧
    (arbitersOf b 1 0).drop (Machine.core b 0).arbTried = [1, 80].drop tried ∧ b.campion.hist.length < 131072 := by decide +kernel

/-- A checkpoint of two cores that began at beat 0. -/
def ckpt : Ckpt := { gen := 3, began := 0, pendingEpochs := [], beatsRun := 48, qidx := 0, qwait := 0, cores := [], objs := [] }
def tainted (cks : List Ckpt) : State := runs [] [.onPart 1 fun p => { p with taint := some 5, ckpts := cks }]
def replaced (cks : List Ckpt) : State :=
  runs [] [.onPart 1 fun p => { p with replace := true, st := .paused, ckpts := cks }]

theorem hyp_rollback :
    (∀ l ∈ [[], [ckpt]], let b := (tainted l).toBlock
      (part b 1).taint.isSome = true ∧ escalatedCore b 1 = none ∧ (part b 1).st ≠ .empty ∧
        latestCkpt (part b 1) (rollbackOk (part b 1)) = l.head? ∧ (part b 1).image = some image ∧
        validVariant b 1 image = some 0 ∧ memoryLost b (part b 1) = false) ∧
    (∀ l ∈ [[], [ckpt]], let b := (replaced l).toBlock
      (part b 1).replace = true ∧ (part b 1).st ≠ .running ∧ (part b 1).taint = none ∧ (part b 1).poisonedBy = none ∧
        latestCkpt (part b 1) (fun _ => true) = l.head? ∧ validVariant b 1 image = some 0) := by decide +kernel

/-- Two records wait; the flash log is empty. -/
theorem hyp_tansy : State.reset.campion.current.gen + 1 < 2 ^ 32 := by decide +kernel
def tansyState : State := made [.log { Tansy.none with detector := 0x3A }, .log { Tansy.none with detector := 0x32 }]

/-! ## Links -/

/-- Logical core 0's ring 2 takes channel 9 of port 3; channel 10 is sent at plan position 1, its SEND object is 6. -/
def linkImage : Image := { image with
  hasLink := true
  plan := [{ port := 3, profile := 0, tx := [{ channel := 10, send := 6, flow := 1, pos := 2 }],
             rx := [{ channel := 9, lcore := 0, ring := 2, flow := 0 }] }] }

/-- Port 3 is up in Bindweed mode at full width, in beat 400. -/
def linkState (l : List Act) : State :=
  runs [] ([.onPart 1 (fun p => { p with image := some linkImage, ports := 8 }), .setReg (.lnkCfg 3) (2 ^ 30),
    .setReg (.lnkStatus 3) (15 * 2 ^ 28 + 2 * 2 ^ 20 + 4 * 2 ^ 16), .setReg .srlBeat 400, .onPort 3 (fun x => { x with func := 1 }),
    object 4 1 0, object 5 1 0, object 6 1 0, ring2] ++ l)

def message (t i x y : Nat) : CtlMsg := { mtype := t, id := i, arg0 := x, arg1 := y, beat := 400 }
def inboxState (m : CtlMsg) (l : List Act) : State := linkState (.onPort 3 (fun x => { x with inbox := [m] }) :: l)
/-- Frames 97 and 98 wait for their ACK. -/
def unacked : Act := .onPort 3 fun x => { x with
  replayBuf := [(97, [cellBytes 2 0 10 0 97 [1]]), (98, [cellBytes 2 1 10 0 98 [2]])], echoes := List.replicate 15 2000 }

theorem hyp_link_messages : isPort 3 = true ∧
    (∀ t ∈ [2, 3, 6, 9, 10, 11], nextMsg (inboxState (message t 10 5 97) [unacked]).toBlock 3 t =
      some (message t 10 5 97)) ∧
    ((port (inboxState (message 10 10 5 97) [unacked]).toBlock 3).echoes.length = 15) ∧
    (((portPlan (inboxState (message 6 10 5 97) []).toBlock 3).bind fun l =>
      l.tx.find? fun r => r.channel == 10 && r.channel != ctlChannel).isSome = true) ∧
    physObj (inboxState (message 6 10 5 97) []).toBlock 1 6 = some 6 ∧
    carries (inboxState (message 11 10 5 97) []).toBlock 3 = true ∧
    carries (inboxState (message 11 10 5 97) [.setPortState 3 lnkRetraining]).toBlock 3 = false := by decide +kernel

/-- Two slots of channel 10 and one of channel 11 wait to be sent. -/
def sendState (w : Nat) : State := linkState [.setFld (.lnkStatus 3) 19 16 w, .onPort 3 fun x => { x with
  txq := [{ channel := 10, data := List.replicate 400 1, last := true, epoch := 6, teasel := none },
          { channel := 11, data := [3], last := true, epoch := 6, teasel := none },
          { channel := 10, data := [2, 2], last := false, epoch := 6, teasel := none }] }]
theorem hyp_frame : ∀ w ∈ [1, 4], let b := (sendState w).toBlock
    carries b 3 = true ∧ beat b % 4 = 0 ∧ (port b 3).txFrame ≤ beat b / 4 ∧ portWidth b 3 = w ∧ (port b 3).replayQ = [] ∧
    ∀ i ∈ (port b 3).txq, i.data ≠ [] ∧ i.teasel = none ∧ i.channel < 4096 := by decide +kernel

def dataCell : Bytes := cellBytes 2 1 9 6 100 [7, 8]
def ctlCellOf : Bytes := cellBytes 1 0 0 0 100 (msgBytes (message 9 1 2 3))
def halfSlot : RxChan :=
  { channel := 9, core := 0, ring := 2, func := 1, got := [1], epochs := [], wait := 2, complete := false, dueBeat := 0 }
def slotAtPort (y : RxChan) : State := linkState [.onPort 3 fun x => { x with rx := [y] }]

/-- A data cell replayed once more, of a frame already acknowledged. -/
def againCell : Bytes := asReplay dataCell
theorem hyp_replayed_cell : againCell.length = 400 ∧ cellReplay againCell = true ∧ cellReplay dataCell = false ∧
    (port (linkState [.onPort 3 fun x => { x with rxFrame := 100, rxCount := 2 }]).toBlock 3).again (cellFrame againCell) 0 = true ∧
    (port (linkState [.onPort 3 fun x => { x with rxFrame := 99 }]).toBlock 3).again (cellFrame againCell) 0 = false := by
  decide +kernel
theorem hyp_cells : dataCell.length = 400 ∧ cellType dataCell = 2 ∧ ctlCellOf.length = 400 ∧
    cellType ctlCellOf = 1 ∧ carries (linkState []).toBlock 3 = true ∧ (port (linkState []).toBlock 3).badFrame = none ∧
    rxRec (linkState []).toBlock 3 (cellChannel dataCell) = some { channel := 9, lcore := 0, ring := 2, flow := 0 } ∧
    coreOfLogical (linkState []).toBlock 1 0 = some 0 ∧ liveObj (linkState []).toBlock 1 4 = some 4 ∧
    ringFree (linkState []).toBlock 0 2 = 4 ∧ (port (slotAtPort halfSlot).toBlock 3).rx = [halfSlot] ∧
    halfSlot.channel = cellChannel dataCell := by decide +kernel
theorem hyp_good_cells : cellOk dataCell = true ∧ cellOk ctlCellOf = true :=
  ⟨cellOk_cellBytes _ _ _ _ _ _ (by decide), cellOk_cellBytes _ _ _ _ _ _ (by decide)⟩

/-- Cells are being replayed to port 3: its own control cell comes first; a bad cell of frame 100 was NAKed. -/
def replayedTo (ahead : Bool) : State := linkState [.onPort 3 fun x => { x with
  rxReplay := true, rxPos := if ahead then 7 else 0, rxAhead := if ahead then some ctlCellOf else none }]
def nakedState : State := linkState [.onPort 3 fun x => { x with badFrame := some 100, rxFrame := 99 }]
def idleCell : Bytes := cellBytes 0 0 0 0 101 []
def replayedCtl : Bytes := cellBytes 1 2 0 0 100 (msgBytes (message 9 1 2 3))
theorem hyp_held_cells :
    (let x := port (replayedTo false).toBlock 3
     x.badFrame = none ∧ x.rxReplay = true ∧ x.rxPos = 0 ∧ cellReplay ctlCellOf = false) ∧
    (let x := port (replayedTo true).toBlock 3
     x.badFrame = none ∧ x.rxReplay = true ∧ idleCell.length = 400 ∧ cellType idleCell = 0 ∧
       cellReplay idleCell = false) ∧
    (let x := port nakedState.toBlock 3
     x.badFrame = some 100 ∧ cellReplay dataCell = false ∧ replayedCtl.length = 400 ∧ cellReplay replayedCtl = true ∧
       cellType replayedCtl = 1 ∧ cellFrame replayedCtl = 100 ∧ x.again 100 0 = false) := by decide +kernel
theorem hyp_held_ahead : (port (replayedTo true).toBlock 3).rxAhead = some ctlCellOf := rfl
theorem hyp_good_held_cells : cellOk idleCell = true ∧ cellOk replayedCtl = true :=
  ⟨cellOk_cellBytes _ _ _ _ _ _ (by decide), cellOk_cellBytes _ _ _ _ _ _ (by decide)⟩

def fullSlot : RxChan := { halfSlot with complete := true, dueBeat := 400, got := List.replicate 256 9, epochs := [6] }
theorem hyp_publish : let b := (slotAtPort fullSlot).toBlock
    ((port b 3).rx.find? fun z => z.channel == 9) = some fullSlot ∧ fullSlot.dueBeat ≤ beat b ∧
    fullSlot.got.length ≤ ringSlotSize b 0 2 ∧ liveObj b 1 (ringFull b 0 2) = some 5 ∧
    ringSound b 0 2 (.bind 3 9) true = true ∧ portState b 3 ≠ lnkDown := by decide +kernel

/-- The module's domain is 77, its UPPORT is port 3; d is SRL_DOM_STATE. -/
def domainState (d bad beatNow : Nat) (active : Bool) : State := inboxState (message 1 0 77 500) [.setReg .srlDomId 77,
  .setReg .srlDomStatus (d * 2 ^ 30 + 3 * 2 ^ 8), .setReg .srlBeat beatNow, .lock (fun l => { l with badMarkers := bad, sinceMarker := 256 }),
  .onPart 1 fun p => { p with st := if active then .running else .ready }]
theorem hyp_markers :
    (let b := (domainState 1 0 500 true).toBlock
     nextMsg b 3 1 = some (message 1 0 77 500) ∧ 3 = fld b .srlDomStatus 15 8 ∧ 77 = rd b .srlDomId % 2 ^ 32 ∧
       domState b = 1 ∧ beat b = 500) ∧
    (let b := (domainState 3 0 600 false).toBlock
     domState b = 3 ∧ anyActive b = false) ∧
    (let b := (domainState 1 0 600 true).toBlock
     domState b = 1 ∧ anyActive b = true ∧ beat b ≠ 500) ∧
    (∀ n ∈ [0, 2, 3], let b := (domainState 2 n 600 true).toBlock
      domState b = 2 ∧ b.lock.badMarkers = n ∧ fld b .srlDomStatus 15 8 ≠ 0xFF ∧ 256 ≤ b.lock.sinceMarker) ∧
    (signedOf (80 : BitVec 8).toNat 8).natAbs ≤ 80 ∧ 80 < (signedOf (175 : BitVec 8).toNat 8).natAbs := by decide +kernel

/-- Barrier 7 of n remote participants, and of two local ones in plot 0. -/
def remoteState (n : Nat) (m : CtlMsg) : State := inboxState m [object 7 2 ((n + 2) * 2 ^ 15 + 2),
  .onObj 7 fun o => { o with shares := [(0, 2)], held := [sender, other] }]
def proxyState : State := inboxState (message 5 4 0 0) [object 7 2 (3 * 2 ^ 15 + 2), .onObj 7 fun o => { o with
  shares := [(0, 2)], held := [sender, other], home := some (3, 4), sent := true }]
theorem hyp_remote :
    (∀ n ∈ [1, 2], let b := (remoteState n (message 4 7 0 0)).toBlock
      ownerOfPlot b (7 / 512) = some 1 ∧ (port b 3).func = 1 ∧ nextMsg b 3 4 = some (message 4 7 0 0) ∧
        physObj b 1 7 = some 7 ∧ objType b 7 = 2 ∧ (obj b 7).ports = [] ∧ (obj b 7).home = none ∧
        decide (barArrived b 7 + 1 < barCount b 7) = (n == 2)) ∧
    (let b := proxyState.toBlock
     nextMsg b 3 5 = some (message 5 4 0 0) ∧ (obj b 7).ports = [] ∧
       ((objsOf b 1).filter fun o => (obj b o).home == some (3, 4) && (obj b o).sent) = [7]) := by decide +kernel

/-- Slots of two channels are held; a checkpoint waits for epoch 24 received and sent. -/
def epochCkpt : Ckpt := { ckpt with pendingEpochs := [2 * 24, 2 * rxKey 3 24 + 1] }
def epochParts : Act := .onPart 1 fun p => { p with recvEpochs := [rxKey 3 24], sentEpochs := [24, 25], ckpts := [ckpt, epochCkpt] }
def epochState (m : CtlMsg) : State := inboxState m [epochParts, .onPort 3 fun x => { x with
  rx := [fullSlot], held := [{ channel := 9, epochs := [24], freed := true }, { channel := 9, epochs := [24, 25], freed := true },
    { channel := 8, epochs := [], freed := false }] }]
def verdictState (profile : Nat) (fails : Bool) : State := linkState [epochParts, .setFld (.lnkCfg 3) 29 28 profile,
  .setReg .srlBeat 416, .onPart 1 (fun p => { p with taints := if fails then [(390, noBeat)] else [] }),
  .onPort 3 fun x => { x with epochs := [24], txq := [{ channel := 10, data := [1], last := true, epoch := 24, teasel := none }] }]
/-- Port 3 carried segments of an export in epoch 24, by its descriptor. -/
def segmentState : State := linkState [epochParts, .setReg .srlBeat 416, .onPort 3 fun x => { x with ethSent := [(24, 1, List.replicate 64 3)] }]
theorem hyp_sent_segments : let b := segmentState.toBlock
    16 * 24 + 32 ≤ beat b ∧ b.exports = [] ∧ (port b 3).ethSent.filter (fun x => x.1 == 24) = [(24, 1, List.replicate 64 3)] ∧
    (∀ q < 16, q ≠ 3 → ∀ x ∈ (port b q).ethSent, x.1 ≠ 24) ∧ b.campion.buffer.length + 17 ≤ 4096 := by decide +kernel
theorem hyp_epochs :
    nextMsg (epochState (message 7 0 24 0)).toBlock 3 7 = some (message 7 0 24 0) ∧
    (let b := (epochState (message 8 0 24 0)).toBlock
     nextMsg b 3 8 = some (message 8 0 24 0) ∧ (part b 1).image.isSome = true ∧ pendingWaits b 1 = []) ∧
    (∀ x ∈ [(0, true), (0, false), (2, true), (2, false)], let b := (verdictState x.1 x.2).toBlock
      16 * 24 + 32 ≤ beat b ∧ b.exports = [] ∧ (∀ q < 16, ∀ z ∈ (port b q).ethSent, z.1 ≠ 24) ∧ 24 ∈ (port b 3).epochs ∧ portProfile b 3 = x.1 ∧ portMode b 3 = 1 ∧
        1 ∈ owners b ∧ 24 ∈ (part b 1).sentEpochs ∧ failsEpoch (part b 1) 24 = x.2) := by decide +kernel

/-- Port 3 retrains since beat n: the peer has the lanes told, or has told none yet; every lane is tested again or not. -/
def retrainState (n : Nat) (told : Option (Nat × Nat)) (retest : Bool) : State :=
  linkState [.setPortState 3 lnkRetraining, unacked, .setReg .srlBeat 5000,
    .onPort 3 fun x => { x with peerLanes := told, downSince := n, retest := retest }]
/-- Port 3 before a bring-up, in mode m at rate r, its partition in state st; lane 1 failed training before. -/
def bringUpState (m r fall : Nat) (st : PState) : State := linkState [.setReg (.lnkCfg 3) (m * 2 ^ 30 + r * 2 ^ 26 + fall * 2 ^ 25),
  .onPart 1 (fun p => { p with st := st }), .setPortState 3 lnkDown, .onPort 3 fun x => { x with laneFails := 2 }]
/-- Port 3 with three NAKs of frame 97 sent. -/
def nakState : State := linkState [unacked, .onPort 3 fun x => { x with nakSent := [(97, 3)] }]
theorem hyp_lanes :
    (let b := nakState.toBlock
     portMode b 3 = 1 ∧ portState b 3 = lnkUp ∧ flag b (.lnkStatus 3) (28 + 3) = true ∧ b.campion.hist.length < 131072 ∧
       (∃ y ∈ (port b 3).nakCounts ++ (port b 3).nakSent, 3 ≤ y.2) ∧ (port b 3).replayBuf ≠ [] ∧ (port b 3).lastProgress + 256 ≤ beat b) ∧
    (∀ n ∈ [904, 903], ∀ told ∈ [none, some (7, 0)], ∀ retest, let b := (retrainState n told retest).toBlock
      portState b 3 = lnkRetraining ∧ decide (beat b ≤ (port b 3).downSince + 4096) = (n == 904) ∧
        (port b 3).peerLanes = told ∧ (port b 3).retest = retest) ∧
    (∀ m ∈ [1, 2], ∀ st ∈ [PState.loaded, .running, .paused], let b := (bringUpState m 0 1 st).toBlock
      isVf (port b 3).func = true ∧ portMode b 3 = m ∧ refLost b (edgeOf 3) = false ∧ (part b 1).st = st ∧ portState b 3 = lnkDown ∧
        ∀ i < 4, (7 : BitVec 4).getLsbD i = true ∨ (port b 3).laneFails.getLsbD i = false) := by decide +kernel

/-! ## Ethernet and exports -/

/-- Port 3 is up in Ethernet mode; its addresses are set. -/
def ethState (l : List Act) : State := linkState ([.setReg (.lnkCfg 3) (2 ^ 31), .setReg (.lnkEthMac 3) 0x020304050607,
  .setReg (.lnkEthIp4 3) 0x0A000001, .setReg (.lnkEthL4 3) (5000 * 65536), .setReg (.lnkEthRto 3) 100] ++ l)
def arpFrame (ip : Nat) : Bytes := withFcs (beBytes (2 ^ 48 - 1) 6 ++ beBytes 0xA0 6 ++ beBytes 0x0806 2 ++
  beBytes 0x0001080006040001 8 ++ beBytes 0xA0 6 ++ beBytes 0x0A000002 4 ++ beBytes 0 6 ++ beBytes ip 4)
/-- An IPv4 frame to the port with a segment for UDP port u. -/
def segmentFrame (u : Nat) (seg : Bytes) : Bytes :=
  let src := beBytes 0x0A000002 4
  let dst := beBytes 0x0A000001 4
  let h (sum : Nat) : Bytes := [0x45, 0] ++ beBytes (28 + seg.length) 2 ++ beBytes 0 4 ++ [64, 17] ++ beBytes sum 2 ++ src ++ dst
  withFcs (beBytes 0x020304050607 6 ++ beBytes 0xA0 6 ++ beBytes 0x0800 2 ++ h (inetSum (h 0)) ++
    udpBytes (src ++ dst ++ beBytes 17 2 ++ beBytes (8 + seg.length) 2) 5000 u seg)
/-- An ACK up to n for export 99, its CRC left 0. -/
def ackSegment (n : Nat) : Bytes := [2, 1, 0, 0] ++ leBytes 0 4 ++ leBytes 99 8 ++ leBytes 0 4 ++ leBytes n 4 ++ leBytes 0 8

theorem hyp_ethernet : (let b := (ethState []).toBlock
    portMode b 3 = 2 ∧ portState b 3 = lnkUp ∧
    beNat (((arpFrame 0x0A000001).drop 12).take 2) = 0x0806 ∧ (arpReply b 3 (arpFrame 0x0A000001)).isSome = true ∧
    arpReply b 3 (arpFrame 5) = none ∧ udpPayload b 3 (arpFrame 5) = none) := by
  decide +kernel
theorem hyp_segment : (let b := (ethState []).toBlock
    udpPayload b 3 (segmentFrame 5000 (ackSegment 1)) = some (ackSegment 1) ∧
    udpPayload b 3 (segmentFrame 5001 (ackSegment 1)) = none ∧ frameOk [1, 2] = false) := by decide +kernel

/-- An export descriptor: id 99, slot 0 of the cache, tokens 0 to 64 in format 0, by port 3. -/
def descriptor (credits : Nat) : Bytes := leBytes 99 8 ++ leBytes 0 4 ++ leBytes 0 4 ++ leBytes 64 4 ++ leBytes 0 1 ++
  leBytes 3 1 ++ leBytes 0 1 ++ leBytes credits 1 ++ leBytes 11 2 ++ leBytes 4000 2 ++ leBytes 256 4 ++ List.replicate 32 0
def geometry : Geometry :=
  { l := 1, h := 1, d := 64, efmt := 0x25, re := 128, rx := 64, pmax := 64, tmax := 128, nseq := 2,
    seqBase := 0, seqStride := 2 ^ 20, seed := 5, qva := 0x40000000, qlen := 4, req := 4, rsp := 5, sscale := [0, 0] }
def cachePage : Page :=
  { num := 0, st := .sealed, t0 := 0, len := 64, dataPA := 0x10000000000, sidePA := 0x10000002000,
    dataLen := 8192, sideLen := 4096, slots := [0], exports := 1, pin := 0, stamp := 3 }
def someExport : Export :=
  { func := 1, desc := descriptor 4, geom := some geometry, pages := [0], nextPage := 0, totalPages := 1, buf := [],
    unacked := [], heldSegs := [], seqno := 3, ackno := 1, lastAck := 0, timeouts := 0, credits := 4,
    epochs := [], ending := none, accNo := 1, convPend := [], readBeat := 0 }
/-- The image has a cache; page 0 is sealed. -/
def cacheActs : List Act := [.onPart 1 (fun p =>
    { p with image := some { linkImage with cache := some geometry }, chunks := [(0, 0), (0, 1)], poolmib := 1024,
             maps := mapPage (fun _ => 0x111C0000000) [] { va := 0x40000000, size := 20, pa := 0x10000400000, r := true, w := true } }),
  .onDir 1 (fun d => { d with pages := [cachePage] }), .setFld (.tslDirCfg 0 1) 31 31 1, .setFld (.tslDirCfg 0 1) 23 12 0xFFF]
def exporting (eth : Bool) (x : Export) (l : List Act) : State :=
  (fun l => if eth then ethState l else linkState l)
    (cacheActs ++ [.units fun u => { u with exports := [(7, x)] }] ++ l)

/-- The same descriptor with HOLD. -/
def holdDescriptor : Bytes := (descriptor 4).set 22 1
def waitingExport : Export := { someExport with unacked := [(1, [1]), (2, [2])] }
theorem hyp_good_frames : frameOk (arpFrame 0x0A000001) = true ∧ frameOk (arpFrame 5) = true ∧
    frameOk (segmentFrame 5000 (ackSegment 1)) = true ∧ frameOk (segmentFrame 5001 (ackSegment 1)) = true :=
  ⟨frameOk_withFcs _ (by decide), frameOk_withFcs _ (by decide), frameOk_withFcs _ (by decide), frameOk_withFcs _ (by decide)⟩
theorem hyp_export :
    (let b := (exporting true waitingExport [.onPort 3 fun x => { x with ethIn := [ackSegment 2] }]).toBlock
     (port b 3).ethIn = [ackSegment 2] ∧ b.exports = [(7, waitingExport)] ∧ exPort waitingExport = 3 ∧
       exId waitingExport = leAt (ackSegment 2) 8 8 ∧ leAt (ackSegment 2) 0x14 4 = 2 ∧ leAt (ackSegment 9) 0x14 4 = 9) ∧
    (∀ n ∈ [14, 15], let b := (exporting true { waitingExport with timeouts := n } []).toBlock
      exportOf? b 7 = some { waitingExport with timeouts := n } ∧ portMode b 3 = 2 ∧
        waitingExport.lastAck + fld b (.lnkEthRto 3) 15 0 ≤ beat b) ∧
    (let b := (exporting false someExport []).toBlock
     exportOf? b 7 = some someExport ∧ someExport.geom = some geometry ∧ someExport.canRead b = true ∧
       nextTurn b 1 3 = some 1 ∧ badIn b ((pagesRead b someExport).flatMap fun q => [(q.dataPA, q.dataLen), (q.sidePA, q.sideLen)]) = [] ∧
       pagesRead b someExport ≠ [] ∧ portMode b 3 ≠ 2) ∧
    (let x := { someExport with desc := holdDescriptor }
     let b := (exporting true x []).toBlock
     x.canRead b = true ∧ nextTurn b 1 3 = some 1 ∧ exHold x = true ∧ portMode b 3 = 2) ∧
    (∀ st ∈ [0, 2], let b := (exporting false { someExport with nextPage := 1, ending := if st = 0 then none else some 2 } []).toBlock
      endStatus b 7 { someExport with nextPage := 1, ending := if st = 0 then none else some 2 } = some st) := by decide +kernel

/-! ## Mailbox commands -/

/-- A request's bytes: code, TARGET and payload, tag 77. -/
def req (code target : Nat) (p : Bytes) : Bytes :=
  leBytes code 2 ++ leBytes target 1 ++ [0] ++ leBytes p.length 4 ++ leBytes 77 8 ++ p
/-- Mailbox m of f holds request r: its place in the order of acceptance, and whether its execution has begun. -/
def latchAt (f m : Nat) (r : Bytes) (order : Nat) (begun : Bool) : Act :=
  .onFunc f fun x => { x with latched := smPut x.latched m { bytes := r, order := order, begun := begun } }
def latch (f m : Nat) (r : Bytes) : Act := latchAt f m r 0 false
def operational : Act := .setFld .pwrModstate 2 0 modOperational
/-- Function 0's mailbox 2, or another's, holds r; the module is OPERATIONAL. -/
def asked (f m : Nat) (r : Bytes) (l : List Act) : State := linkState ([operational, latch f m r] ++ l)

/-! ## The directory -/

/-- A record: OP, slot, n tokens at the mapped page. -/
def record (op seq n : Nat) : Bytes := leBytes op 4 ++ leBytes seq 4 ++ leBytes 0x40000800 8 ++ leBytes n 4 ++ List.replicate 44 0
/-- Token ids 1 to 128 stand at the records' address; page 0's side records name the first 64. -/
def tokens : Bytes := (List.range 128).flatMap fun i => leBytes (i + 1) 4
def tokenActs : List Act := [.setMem 0x10000400800 tokens,
  .each (List.range 64) fun i => .setMem (0x10000002000 + 64 * i + 8) (leBytes (i + 1) 4)]
def hashAt (l : List DWord) (i : Nat) : DWord := (l[i]?).getD 0
def entryOf (i : Nat) : DirEntry :=
  { set := 0, way := i, hash := hashAt (hashes 5 ((List.range 64).map (· + 1))) i, seed := 5, page := 0, pos := 16 * i, stamp := 2 }
def openPage : Page := { cachePage with num := 1, st := .opened, t0 := 64, dataPA := 0x10000010000, sidePA := 0x10000020000, exports := 0 }

/-- Page 0 is sealed and named by its blocks' entries, page 1 is open; acts follow. -/
def dirState (r : Bytes) (l : List Act) : State := asked 0 2 r (cacheActs ++ tokenActs ++
  [.setReg (.tslDirQuota 0 1) 16, .setReg (.tslDirPool 0 1) 262144,
   .onDir 1 fun d => { d with pages := [cachePage, openPage], entries := (List.range 4).map entryOf }] ++ l)
def askedDir (r : Bytes) : DirReq := { func := 1, issuer := 0, mbox := 2, record := r }
def served (r : Bytes) (l : List Act) : State :=
  dirState (req 0x60 1 r) (l ++ [.units fun u => { u with dirReqs := [askedDir r] }])

theorem hyp_prefix_query : (let b := (dirState (req 0x60 1 (record 1 0 64)) []).toBlock
    isFunc 0 = true ∧ isMbox 2 = true ∧ request b 0 2 = some (req 0x60 1 (record 1 0 64)) ∧
    reqCode (req 0x60 1 (record 1 0 64)) = cmdPrefixQuery.code ∧ waits b 0 2 cmdPrefixQuery.code = false ∧
    cmdPrefixQuery.refusal b 0 (req 0x60 1 (record 1 0 64)) = none ∧ b.dirReqs = []) := by decide +kernel
theorem hyp_directory : ∀ r ∈ [record 1 0 64, record 2 0 64, record 8 0 64, record 4 1 64, record 5 1 64, record 6 1 64, record 7 0 0],
    let b := (served r []).toBlock
    (b.dirReqs.find? fun y => y.func == 1) = some (askedDir r) ∧ (request b 0 2).isSome = true ∧ dirShare b 1 true = true ∧
      slotQuiet b 1 (drSeq r) = true := by decide +kernel
/-- ATTACH of slot 1 matches page 0 and opens a page of 64 tokens; PUBLISH of slot 0 seals page 1. -/
theorem hyp_attach : (let b := (served (record 2 1 128) []).toBlock
    (dirAttach b 1 (record 2 1 128)).status = 0 ∧ (dirAttach b 1 (record 2 1 128)).matched = 64 ∧
    geomOf b 1 = some geometry ∧ 16 ≤ geometry.pmax ∧ (dir b 1).pages = [cachePage, openPage]) := by decide +kernel
theorem hyp_publish_pages : (let b := (served (record 3 0 128) []).toBlock
    (dirPublish b 1 (record 3 0 128)).status = 0 ∧ (dirPublish b 1 (record 3 0 128)).pages = 1) ∧
    (dirRelease (served (record 4 0 0) []).toBlock 1 (record 4 0 0)).status = 0 ∧
    drTokens (served (record 5 1 64) []).toBlock 1 (record 5 1 64) = some ((List.range 64).map (· + 1)) := by decide +kernel
theorem hyp_queue : (let b := (dirState [] [.onDir 1 fun d => { d with qwait := 2 }, .setMem 0x10000400000 (record 1 0 64),
      object 4 1 0, object 5 1 0]).toBlock
    geomOf b 1 = some geometry ∧ dirRequest b 1 false = some (record 1 0 64) ∧ drOp (record 1 0 64) = 1 ∧
    dirShare b 1 false = true ∧ physObj b 1 geometry.rsp = some 5 ∧ physObj b 1 geometry.req = some 4 ∧
    (match translate b 1 true (queueVA b 1 geometry : Nat) 64 with
     | .ok segs _ => segs == [(0x10000400000, 64)]
     | .fault _ _ _ => false) = true) := by decide +kernel
/-- The schedule queue holds r. -/
def queued' (r : Bytes) : State := dirState [] [.onDir 1 fun d => { d with qwait := 2 }, .setMem 0x10000400000 r, object 4 1 0, object 5 1 0]
theorem hyp_queue_rows : ∀ r ∈ [record 2 0 64, record 3 0 128, record 4 0 0, record 5 1 64, record 6 1 64, record 7 0 0, record 0 0 0, record 8 0 0],
    let b := (queued' r).toBlock
    dirRequest b 1 false = some r ∧ dirShare b 1 false = true ∧ slotQuiet b 1 (drSeq r) = true ∧ b.lpds = [] ∧
      (decide (1 ≤ drOp r ∧ drOp r ≤ 7) = ((dirRows b 1 false r).any fun x => x.2.1 == drOp r)) := by decide +kernel
theorem hyp_kv_export : (∀ c ∈ [2, 4], let b := (asked 0 2 (req 0x61 1 (descriptor c)) cacheActs).toBlock
    isFunc 0 = true ∧ isMbox 2 = true ∧ request b 0 2 = some (req 0x61 1 (descriptor c)) ∧
    reqCode (req 0x61 1 (descriptor c)) = cmdKvExport.code ∧ waits b 0 2 cmdKvExport.code = false ∧
    cmdKvExport.refusal b 0 (req 0x61 1 (descriptor c)) = none ∧
    (match checkExport b 1 (descriptor c) with
     | .ok ps => c == 4 && ps == [cachePage]
     | .error st => c == 2 && st == stBadArg) = true) := by decide +kernel

/-! ## Module commands -/

/-- Mailbox m of f holds a request that its command accepts. -/
def takes (b : Block) (f m : Nat) (c : Cmd) (r : Bytes) : Bool :=
  isFunc f && isMbox m && request b f m == some r && reqCode r == c.code && !waits b f m c.code &&
    c.refusal b f r == none
theorem takes_accepts (b : Block) (f m : Nat) (c : Cmd) (r : Bytes) (h : takes b f m c r = true) : Accepts b f m c r := by
  simp [takes] at h
  simp_all [Accepts]

theorem hyp_mailbox :
    (let b := (asked 3 2 (req 0x53 0 [4]) []).toBlock
     request b 3 2 = some (req 0x53 0 [4]) ∧ reqCode (req 0x53 0 [4]) = cmdRunSelftest.code ∧ waits b 3 2 cmdRunSelftest.code = false ∧
       cmdRunSelftest.refusal b 3 (req 0x53 0 [4]) = some stBadArg) ∧
    (let b := (asked 3 2 (req 0x83 0 []) []).toBlock
     cmdFwAbort.refusal b 3 (req 0x83 0 []) = some stDenied ∧ cmdFwAbort.func0 = true ∧ cmdFwAbort.payload [] = true) ∧
    (let b := (asked 0 2 (req 0x99 1 []) []).toBlock
     request b 0 2 = some (req 0x99 1 []) ∧ waits b 0 2 0x99 = false ∧ knownCodes.contains (reqCode (req 0x99 1 [])) = false) ∧
    takes (asked 3 2 (req 1 0 [0, 0, 0, 0]) []).toBlock 3 2 cmdGetInfo (req 1 0 [0, 0, 0, 0]) = true ∧
    takes (asked 3 2 (req 2 0 []) []).toBlock 3 2 cmdGetState (req 2 0 []) = true ∧
    takes (asked 3 2 (req 0x50 0 [0, 0, 0, 0, 9, 0]) []).toBlock 3 2 cmdReadLog (req 0x50 0 [0, 0, 0, 0, 9, 0]) = true := by
  decide +kernel

/-- An earlier command on the same partition; a long command of the same function in execution. -/
theorem hyp_mailbox_order :
    (let b := (asked 0 2 (req 0x32 1 []) [latchAt 0 2 (req 0x32 1 []) 5 false, latchAt 3 1 (req 0x33 1 []) 4 false]).toBlock
     request b 0 2 = some (req 0x32 1 []) ∧ ((smGet (func b 0).latched 2).map (·.order)) = some 5 ∧
       ((outstanding b).any fun y => y.l.order == 4 && y.target == 1 && !reportCode y.code) = true ∧
       waits b 0 2 cmdResume.code = true) ∧
    (let b := (asked 0 2 (req 0x21 1 []) [latchAt 0 2 (req 0x21 1 []) 5 false, latchAt 0 1 (req 0x31 3 []) 4 true]).toBlock
     longCode cmdUnload.code = true ∧ ((outstanding b).any fun y => y.f == 0 && longCode y.code && y.l.begun) = true ∧
       waits b 0 2 cmdUnload.code = true) := by decide +kernel

/-- A unit's class and number as a payload. -/
def unitIs (c u : Nat) : Bytes := leBytes c 4 ++ leBytes u 4
/-- Partition 1 runs variant 1 of two, because core 0 is fenced. -/
def secondVariant : List Act := [.fence 2 0 9, .onPart 1 (fun p =>
  { p with variant := 1, image := some { linkImage with
      nvar := 2, place := [[0, 1], [2, 3]], flows := [[], []]
      cores := List.replicate 2 { steps := [], durs := [], progs := [], rings := [], slots := [], shapes := [], scratch := [] } } })]
theorem hyp_units_fenced :
    (∀ x ∈ [(8, 3), (8, 200)], let b := (asked 0 2 (req 0x51 0 (unitIs x.1 x.2)) []).toBlock
      takes b 0 2 cmdFenceUnit (req 0x51 0 (unitIs x.1 x.2)) = true ∧ unitExists x.1 x.2 = decide (x.2 < 64) ∧ isFenced b x.1 x.2 = false) ∧
    (let b := (asked 0 2 (req 0x52 0 (unitIs 8 3)) [.fence 8 3 9]).toBlock
     takes b 0 2 cmdUnfenceUnit (req 0x52 0 (unitIs 8 3)) = true ∧ isFenced b 8 3 = true ∧ avoidsOnly b 8 3 = false) ∧
    (let b := (asked 0 2 (req 0x52 0 (unitIs 2 0)) secondVariant).toBlock
     takes b 0 2 cmdUnfenceUnit (req 0x52 0 (unitIs 2 0)) = true ∧ isFenced b 2 0 = true ∧ avoidsOnly b 2 0 = true) ∧
    (let b := (asked 0 2 (req 0x53 0 (leBytes 1 2 ++ leBytes 2 2 ++ unitIs 3 4)) [.onPart 1 fun p => { p with st := .ready }]).toBlock
     takes b 0 2 cmdRunSelftest (req 0x53 0 (leBytes 1 2 ++ leBytes 2 2 ++ unitIs 3 4)) = true ∧ powerBusy b 0 2 = false ∧
       b.campion.hist = [] ∧ ∀ v ∈ [3, 4], unitExists 1 v = true ∧
         (unitOwners b 1 v).all (fun g => (part b g).st == .ready) = true) ∧
    (∀ g ≤ 16, (part (asked 0 2 [] []).toBlock g).pausing = none) := by decide +kernel

/-- The partition does not run; the module's state is st. -/
def quiet (r : Bytes) (st : Nat) (l : List Act) : State :=
  asked 0 2 r ([.onPart 1 (fun p => { p with st := .loaded }), .setFld .pwrModstate 2 0 st] ++ l)
theorem hyp_power_states :
    (∀ x ∈ [(1, 3), (0, 4), (0, 3)], let b := (quiet (req 0x70 0 [BitVec.ofNat 8 x.1]) x.2 []).toBlock
      takes b 0 2 cmdSetPower (req 0x70 0 [BitVec.ofNat 8 x.1]) = true ∧ b.power.dormantReq = none ∧ b.power.wake = none ∧
        modState b = x.2 ∧ (∀ g ∈ owners b, (part b g).st ≠ .running) ∧ keepsAwake b 0 2 = false) ∧
    (let b := (quiet (req 0x70 0 [1]) 4 [.power fun p => { p with dormantReq := some (0, 2) }]).toBlock
     request b 0 2 = some (req 0x70 0 [1]) ∧ b.power.dormantReq = some (0, 2) ∧ b.lpds = []) ∧
    (∀ w ∈ [100, 400], let b := (quiet (req 0x70 0 [0]) 4 [.power (fun p => { p with wake := some (w, 0, 2) }), .setReg .srlBeat 12900]).toBlock
     request b 0 2 = some (req 0x70 0 [0]) ∧ b.power.wake = some (w, 0, 2) ∧ (beat b = w + 12500 ↔ w = 400) ∧ modState b = modDormant ∧ ownerOfCore b 0 = some 1 ∧
         (part b 1).image.isSome = true ∧ pendingWaits b 1 = [] ∧ b.campion.hist.length < 131072) := by decide +kernel

/-- A session of mailbox 2 of function 0 on slot k, or another's. -/
def session (m k : Nat) : Act := .power fun p => { p with session := some { f := 0, m := m, slot := k } }
theorem hyp_firmware :
    (∀ x ∈ [(0, 1), (1, 1), (2, 1)], let b := (asked 0 2 (req 0x80 0 [1]) (if x.1 = 0 then [] else [session (x.1 + 1) 1])).toBlock
      takes b 0 2 cmdFwOpen (req 0x80 0 [1]) = true ∧ openSlot b 1 = 1 ∧ fld b .pwrBoot 16 16 = 0 ∧
        ((b.power.session = none ∨ ∃ y, b.power.session = some y ∧ y.f = 0 ∧ y.m = 2) ↔ x.1 ≤ 1)) ∧
    (let b := (asked 0 2 (req 0x81 0 (leBytes 4000 4 ++ leBytes 200 4 ++ leBytes 0 8)) [session 2 1, .onFunc 0 fun f => { f with bme := true }]).toBlock
     takes b 0 2 cmdFwWrite (req 0x81 0 (leBytes 4000 4 ++ leBytes 200 4 ++ leBytes 0 8)) = true ∧ ownSession b 0 2 = some 1 ∧
       4000 + 200 ≤ slotSize ∧ (func b 0).bme = true) ∧
    (∀ good ∈ [true, false], let b := (asked 0 2 (req 0x82 0 []) [session 2 1, .power fun p => { p with slotB := { p.slotB with factory := good } }]).toBlock
     takes b 0 2 cmdFwCommit (req 0x82 0 []) = true ∧ ownSession b 0 2 = some 1 ∧
       verifySlot b (fwSlot b 1) = (if good then none else some .header) ∧ (modState b = modMinimal ∨ 1 ≠ fld b .pwrBoot 16 16)) ∧
    (∀ m ∈ [2, 3], let b := (asked 0 2 (req 0x83 0 []) [session m 1]).toBlock
     takes b 0 2 cmdFwAbort (req 0x83 0 []) = true ∧ ownSession b 0 2 = (if m = 2 then some 1 else none)) := by
  decide +kernel

/-- Function 3's SPDM connection stands at x. -/
def spdmState (p : Bytes) (v c a : Bool) : State := asked 3 2 (req 0x90 0 p)
  [.onFunc 3 fun f => { f with spdm := { version := v, caps := c, algs := a, vca := [1], certs := [2], meas := [3] } }]
theorem hyp_spdm :
    ∀ x ∈ [(([0x10, 0x84, 0, 0] : Bytes), false, false, false),
      ([0x12, 0xE1, 0, 0, 0, 0, 0, 0] ++ leBytes 6 4 ++ leBytes 100 4 ++ leBytes 200 4, true, false, false),
      ([0x12, 0xE3, 0, 0] ++ leBytes 32 2 ++ [1, 0] ++ leBytes 0x40 4 ++ leBytes 4 4 ++ List.replicate 16 0, true, true, false),
      ([0x12, 0x81, 0, 0], true, true, true), ([0x12, 0x83, 0, 0] ++ List.replicate 32 7, true, true, true),
      ([0x12, 0xE0, 0, 255], true, true, true), ([0x12, 0x99, 0, 0], true, true, true)],
    let b := (spdmState x.1 x.2.1 x.2.2.1 x.2.2.2).toBlock
    takes b 3 2 cmdSpdm (req 0x90 0 x.1) = true ∧ (spdmError b 3 x.1 = none ↔ leAt x.1 1 1 ≠ 0x99) := by decide +kernel

/-! ## Partitions and images -/

/-- An image of one logical core with one END entry, and a DOMAIN section for member 1 where dom holds: the 40 bytes
before its CRC, and what follows. -/
def imageHead (dom : Bool) : Bytes := leBytes 0x57534931 4 ++ leBytes 1 2 ++ [3, 1] ++ leBytes 0x1234 8 ++
  leBytes (if dom then 0x280 else 0x240) 8 ++ leBytes 10 8 ++ leBytes 1 4 ++ [1, 0] ++ leBytes (if dom then 5 else 4) 2
/-- A section's bytes, from the start of a block of 64. -/
def block (d : Bytes) : Bytes := d ++ List.replicate ((64 - d.length % 64) % 64) 0
def sectionEntry (t off len : Nat) : Bytes := leBytes t 4 ++ leBytes off 4 ++ leBytes len 4 ++ leBytes 0 4
def spans (d : Bytes) : Bytes := block (leBytes 1 16 ++ leBytes 64 4 ++ leBytes 1 4) ++ d
def imageTail (dom : Bool) : Bytes := leBytes 0 20 ++
  block (sectionEntry secStep 0xC0 0x80 ++ sectionEntry secDuration 0x140 0x44 ++ sectionEntry secPlace 0x1C0 2 ++
    sectionEntry secEnergy 0x200 20 ++ (if dom then sectionEntry secDomain 0x240 48 else [])) ++
  (if dom then [] else List.replicate 64 0) ++
  block (spans (leBytes (endEntry.toNat) 64)) ++ block (spans (leBytes 0 4)) ++ block (leBytes 0 2) ++
  block (leBytes 1 8 ++ leBytes 5 4 ++ leBytes 0 4 ++ leBytes 5 4) ++
  (if dom then block (leBytes 77 8 ++ leBytes 2 2 ++ leBytes 1 2 ++ [3, 8, 0, 0] ++ List.replicate 16 0 ++ List.replicate 16 0) else [])
def imageFile (dom : Bool) : Bytes :=
  imageHead dom ++ leBytes (crc32c (imageHead dom ++ leBytes 0 4 ++ imageTail dom)).toNat 4 ++ imageTail dom

/-- The checks of an image after its CRC, in the state b for function 1. -/
def readsAs (b : Block) (img : Bytes) (ok : Image → Nat → Bool) : Bool :=
  match admission' b img with
  | .ok x => ok x.1 x.2
  | .error _ => false
where admission' (b : Block) (img : Bytes) : Except Rej (Image × Nat) := do
  let x ← readImage b 1 img
  resourcesOk x.1 x.2.1 x.2.2 (plotList (part b 1).plots).length
  let v ← chooseVariant b 1 x.1
  domainOk b 1 x.1 x.2.1
  energyOk b 1 x.1 x.2.1
  .ok (x.1, v)
theorem imageFile_crc (dom : Bool) : imageCrcOk (imageFile dom) = true :=
  imageCrcOk_of (imageHead dom) (imageTail dom) (by cases dom <;> decide)
/-- An image that passes is one whose checks after the CRC pass. -/
theorem admission_of (b : Block) (img : Bytes) (h : imageCrcOk img = true) : admission b 1 img = readsAs.admission' b img := by
  unfold admission readsAs.admission'
  rw [h]
  rfl

/-- Partition 1 is READY, with 100 W; r is its LOAD_IMAGE. -/
def emptyHouse (r : Bytes) (bme : Bool) (l : List Act) : State := asked 0 2 r
  ([.onPart 1 (fun p => { p with st := .ready, image := none, power := 100 }), .onFunc 0 fun f => { f with bme := bme }] ++ l)
def loadReq (src : Nat) : Bytes := req 0x20 1 (leBytes src 8 ++ leBytes 0x40000000 8)
theorem hyp_load :
    (∀ bme, takes (emptyHouse (loadReq 0) bme []).toBlock 0 2 cmdLoadImage (loadReq 0) = true ∧
      (func (emptyHouse (loadReq 0) bme []).toBlock 0).bme = bme) ∧
    (let b := (emptyHouse (loadReq 0) true []).toBlock
     imageBytes b 1 0 0x40000000 none = none ∧ domState b = 0 ∧ readsAs b (imageFile false) (fun im v => im.domain.isNone && v == 0) = true ∧
       readsAs b (imageFile true) (fun im _ => im.domain.any fun d => d.upport == 3 && !sameDomain b d) = true) := by
  decide +kernel
theorem imageBytes_dma (b : Block) (va : Nat) (d : Bytes) (hn : leAt (d.take 64) 0x10 8 = d.length)
    (hl : d.length % 64 = 0 ∧ 64 ≤ d.length ∧ d.length ≤ 2 ^ 30) : imageBytes b 1 0 va (some d) = some d := by
  unfold imageBytes
  simp only [Option.bind_some, if_pos hl.2.1, hn, if_pos hl, if_true, if_pos (Nat.le_refl _), List.take_length]
theorem hyp_load_file (b : Block) (va : Nat) (dom : Bool) : imageBytes b 1 0 va (some (imageFile dom)) = some (imageFile dom) :=
  imageBytes_dma b va _ (by cases dom <;> decide +kernel) (by cases dom <;> decide +kernel)
theorem hyp_load_error : (let b := (emptyHouse (loadReq 0) true []).toBlock
    (match readsAs.admission' b ((imageFile false).set 6 7) with
     | .error e => e.step == 2 && e.off == 6
     | .ok _ => false) = true) := by decide +kernel

/-- One record of SET_SHAPES: logical core 0, set 15, words 0 and 7. -/
def shapeReq : Bytes := req 0x40 1 (leBytes 1 8 ++ leBytes 0 4 ++ leBytes 15 1 ++ leBytes 129 3 ++ leBytes 5 32)
theorem hyp_images :
    takes (asked 0 2 (req 0x21 1 []) [.onPart 1 fun p => { p with st := .loaded }]).toBlock 0 2 cmdUnload (req 0x21 1 []) = true ∧
    (let b := (asked 0 2 shapeReq [.onPart 1 fun p => { p with st := .paused }]).toBlock
     takes b 0 2 cmdSetShapes shapeReq = true ∧ leAt (reqPayload shapeReq) 0 2 = 1 ∧ leAt (reqPayload shapeReq) 8 4 < (coresOf b 1).length) := by
  decide +kernel

/-- PARTITION_CREATE for plot n with mem GiB, 5 slot units, host window 2 and ports 4 and 5. -/
def createReq (n mem : Nat) : Bytes := req 0x10 5 (leBytes (2 ^ n) 8 ++ leBytes mem 2 ++ leBytes 5 1 ++ leBytes 2 1 ++ leBytes 0x30 2 ++ [0, 0] ++
  leBytes (0x101 * 2 ^ 32) 16 ++ leBytes 100 4 ++ leBytes 64 4 ++ [3, 4] ++ leBytes 10 2 ++ leBytes 20 2 ++ leBytes 0 2 ++ leBytes 1024 4 ++ leBytes 0 12)
/-- Nine functions are enabled, the memory is ready, 900 W are free. -/
def space : List Act := [.units (fun u => { u with vfs := 9 }), .each (List.range 16) (fun k => .setLpdState k lpdReady),
  .setReg .pwrLimit 1000, .setReg .pwrFix 100]
theorem hyp_create :
    ∀ x ∈ [(1, 3), (1, 0), (0, 3)], let b := (asked 0 2 (createReq x.1 x.2) space).toBlock
      takes b 0 2 (cmdCreate b) (createReq x.1 x.2) = true ∧
        let q := CreateReq.read (reqPayload (createReq x.1 x.2))
        firstBad q.ranges = (if x.2 = 0 then some 8 else none) ∧ firstBad (q.sums b 5) = (if x.1 = 0 then some 0 else none) := by
  decide +kernel
theorem hyp_destroy : (let b := (asked 0 2 (req 0x11 1 []) []).toBlock
    takes b 0 2 cmdDestroy (req 0x11 1 []) = true ∧ (part b 1).pausing = none ∧ (part b 1).plots = 1 ∧
      ∀ c ∈ coresOf b 1, (Machine.core b c).inv = none ∧ (Machine.core b c).moves = []) := by decide +kernel

/-! ## Runs and checkpoints -/

def startReq (q : Nat) : Bytes := req 0x30 1 (leBytes q 8)
/-- Partition 1 in state st holds r of mailbox 2 of function 0. -/
def inState (r : Bytes) (st : PState) (l : List Act) : State := asked 0 2 r (.onPart 1 (fun p => { p with st := st }) :: l)
def halted : Act := .setFld .pwrInStatus 8 8 1
theorem hyp_start :
    (∀ q ∈ [0, 601, 600], ∀ halt, let b := (inState (startReq q) .loaded (if halt then [halted] else [])).toBlock
      takes b 0 2 cmdStart (startReq q) = true ∧ (part b 1).image = some linkImage ∧ haltActive b = halt ∧
        startBeatFor b linkImage (leAt (reqPayload (startReq q)) 0 8) = (if q = 0 then some 468 else if q = 601 then none else some q) ∧
        ∀ x ∈ b.ports, x.2.func = 1 → x.2.rx = []) := by decide +kernel
/-- Partition 1 is RUNNING and pauses for w; a halt's record stands or not; core 0 is at work or not. -/
def pausingState (w : PauseWhy) (note busy : Bool) : State := asked 0 2 (req 0x31 1 []) [.onPart 1 (fun p => { p with
    pausing := some w, pauseBeats := pauseLimit, halted := if note then some (0x39, 5, 2080) else none }),
  .onCore 0 fun k => { k with inv := if busy then some (doneWork normEntry) else none }]
theorem hyp_pause :
    (let b := (asked 0 2 (req 0x31 1 []) []).toBlock
     takes b 0 2 cmdPause (req 0x31 1 []) = true ∧ (part b 1).pausing = none) ∧
    (∀ note, let b := (pausingState .halt note false).toBlock
     takes b 0 2 cmdPause (req 0x31 1 []) = true ∧ (part b 1).halted.isSome = note ∧ (part b 1).pausing = some .halt) ∧
    (∀ w ∈ [PauseWhy.command 0 2, .halt, .fence], ∀ note, ∀ busy, let b := (pausingState w note busy).toBlock
      (part b 1).st = .running ∧ (part b 1).pausing = some w ∧ (part b 1).halted = (if note then some (0x39, 5, 2080) else none) ∧
        (request b 0 2).isSome = true ∧ allStopped b 1 = !busy ∧ pauseLimit ≤ (part b 1).pauseBeats ∧
        b.campion.buffer.length < 4096) := by decide +kernel
/-- Partition 1 is PAUSED; context 1 of core 0 was held at a FENCE by MOVEs that have completed since. -/
def fencedCtx (started : Bool) : State := inState (req 0x32 1 []) .paused [.onPart 1 (fun p => { p with started := started, startBeat := 900 }),
  .onCore 0 (fun k => { k with progs := [List.replicate 31 0 ++ [syncIns 10]] }), .setReg (.strCtx 0 1) (2 ^ 31 + 31 * 2 ^ 16),
  .setReg (.strStatus 0) 2, .setCtxWaiting 0 1 true]
theorem hyp_resume_fence : ∀ started, let b := (fencedCtx started).toBlock
    takes b 0 2 cmdResume (req 0x32 1 []) = true ∧ haltActive b = false ∧ runOver b 1 = false ∧ (part b 1).taint = none ∧
    (part b 1).poisonedBy = none ∧ (coresOf b 1).Nodup ∧
    ((part b 1).started || decide ((part b 1).startBeat ≤ beat b)) = started ∧ ctxActive b 0 1 = true ∧
    ctxWaiting b 0 1 = true ∧ (ctxOf (Machine.core b 0) 1).waiting = false ∧ ctxMoves (Machine.core b 0) 1 = [] ∧
    instrAt b 0 1 = some (syncIns 10) ∧ yOp (syncIns 10) = yFence := by decide +kernel
theorem hyp_resume_stop :
    (∀ halt, let b := (inState (req 0x32 1 []) .paused (if halt then [halted] else [])).toBlock
      takes b 0 2 cmdResume (req 0x32 1 []) = true ∧ haltActive b = halt ∧ runOver b 1 = false ∧
        ∀ c ∈ coresOf b 1, ∀ x < 4, ctxWaiting b c x = false) ∧
    (let b := (asked 0 2 (req 0x33 1 []) [.onCore 0 fun k => { k with inv := some (doneWork normEntry) }]).toBlock
     takes b 0 2 cmdStop (req 0x33 1 []) = true ∧ (part b 1).pausing = none) := by decide +kernel

/-- An image whose cores have an entry each, and generation g of it. -/
def savedImage : Image :=
  { linkImage with cores := List.replicate 2 {
      steps := [normEntry], durs := [3], progs := [], rings := [], slots := [], shapes := [], scratch := [] } }
def saved (op gen : Nat) (ks : List Ckpt) (l : List Act) : State := inState (req 0x34 1 (leBytes op 4 ++ leBytes gen 4)) .paused
  (.onPart 1 (fun p => { p with image := some savedImage, nextGen := 6, ckpts := ks }) :: l)
def generation (g : Nat) : Ckpt := snapshot (saved 0 0 [] []).toBlock 1 g
theorem hyp_checkpoint :
    (∀ ok, let b := (saved 0 0 [generation 4, { generation 5 with pendingEpochs := if ok then [] else [9] }] []).toBlock
      takes b 0 2 (cmdCheckpoint [.loaded, .paused]) (req 0x34 1 (leBytes 0 4 ++ leBytes 0 4)) = true ∧
        (putCkpt (part b 1).ckpts (snapshot b 1 6)).isSome = ok) ∧
    (∀ g ∈ [4, 9], let b := (saved 1 g [generation 4] []).toBlock
      takes b 0 2 (cmdCheckpoint [.loaded, .paused, .faulted]) (req 0x34 1 (leBytes 1 4 ++ leBytes g 4)) = true ∧
        ((part b 1).ckpts.find? fun k => k.valid && k.gen == g) = (if g = 4 then some (generation 4) else none) ∧
        (part b 1).image = some savedImage ∧ validVariant b 1 savedImage = some 0 ∧ memoryLost b (part b 1) = false ∧
        (physCores (plotList (part b 1).plots) [0, 1]).Nodup ∧ (coresOf b 1).Nodup) ∧
    (let b := (saved 1 4 [generation 4] [.onPart 1 (fun p => { p with chunks := [(0, 0)] }), .fence 7 0 9]).toBlock
     memoryLost b (part b 1) = true) := by decide +kernel

/-- A release of core 0 is on its way; an area's controller is fenced. -/
theorem hyp_save_waits :
    (let b := (saved 0 0 [] [.issue (.rel (.seq 0))]).toBlock
     takes b 0 2 (cmdCheckpoint [.loaded, .paused]) (req 0x34 1 (leBytes 0 4 ++ leBytes 0 4)) = true ∧
       leAt (reqPayload (req 0x34 1 (leBytes 0 4 ++ leBytes 0 4))) 0 1 = 0 ∧ b.syncNet.any (msgOf b 1) = true) ∧
    (let b := (saved 0 0 [] [.fence 7 0 9, .onPart 1 fun p => { p with chunks := [(0, 0)] }]).toBlock
     takes b 0 2 (cmdCheckpoint [.loaded, .paused]) (req 0x34 1 (leBytes 0 4 ++ leBytes 0 4)) = true ∧
       b.syncNet.any (msgOf b 1) = false ∧ (putCkpt (part b 1).ckpts (snapshot b 1 (part b 1).nextGen)).isSome = true ∧
       memoryLost b (part b 1) = true) := by decide +kernel

/-! ## Host accesses, vectors, functions -/

/-- The module answers the host, with five functions enabled; partition 1's image is loaded. -/
def answering (l : List Act) : State :=
  inState [] .loaded (.units (fun u => { u with vfs := 5, power := { u.power with phase := .locked } }) :: l)
/-- The BAR0 offset of a register in function 0's view. -/
def offsetOf (r : Reg) : Nat := r.addr - coreBase 0
theorem hyp_host_register :
    answers State.reset.toBlock 0 = false ∧
    (let b := (answering [.setReg (.seqFault 0) 0xFFFF]).toBlock
     answers b 0 = true ∧ answers b 1 = true ∧
     (∀ r ∈ [Reg.pwrInLatch, .chkPerm, .seqRs 0 1 3, .lnkCfg 3], bar0Reg b 0 (offsetOf r) (r.width / 8) = some r ∧ offsetOf r < cfgBase ∧
       reaches b 0 r = true) ∧
     Reg.pwrInLatch.plain = true ∧ mayWrite b ((Act.setReg .pwrInLatch (wordAfter b .pwrInLatch 9)).run b) .pwrInLatch = true ∧
     mayWrite b ((Act.setReg .chkPerm (wordAfter b .chkPerm 5)).run b) .chkPerm = false ∧
     allocBreaks b .pwrInLatch 9 = false ∧ bar0Reg b 0 (offsetOf (.pwrAlloc 1)) 4 = some (.pwrAlloc 1) ∧
       allocBreaks b (.pwrAlloc 1) 60000 = true ∧ allocBreaks b (.pwrAlloc 1) 0 = false ∧
     bar0Reg b 0 (offsetOf (.mbxMb 0 1)) 4 = some (.mbxMb 0 1) ∧ flag b (.mbxMb 0 1) 1 = false ∧ flag b (.mbxFunc 0) 25 = false ∧
       modState b ≠ modBooting ∧ bar0Reg b 1 5 4 = none) := by decide +kernel
theorem hyp_host_memory :
    (let b := (answering [.setLpdState 0 lpdReady]).toBlock
     bar4Addr b 1 0x200010 16 = some (scratchAt 1 0x10) ∧ bar2Segs b 0 0x10 16 true = some ([(lpddrBase + 0x10, 16)], []) ∧
       bar2Segs b 0 0x10 16 false = some ([(lpddrBase + 0x10, 16)], []) ∧ areaOf b (lpddrBase + 0x10) 16 = [] ∧
       badIn b [(lpddrBase + 0x10, 16)] = [] ∧
       holdsData b (lpddrBase + 0x10) = true ∧ (part b 1).st ≠ .running) ∧
    (part (inState [] .running []).toBlock 1).st = .running ∧ (0x80000000 : Word).getLsbD 31 = true := by decide +kernel
theorem hyp_vectors :
    (let b := (asked 1 2 (req 1 0 [0, 0, 0, 0]) [.onFunc 1 (fun x => { x with msixEn := true }), .setReg (.msixTable 1 11) 0,
        .setFld (.mbxEvent 1) 1 1 1]).toBlock
     (request b 1 2).isSome = true ∧ (func b 1).msixEn = true ∧ flag b (.msixTable 1 (4 * 2 + 3)) 0 = false ∧
       flag b (.msixTable 1 (4 * 3 + 3)) 0 = true ∧ flag b (.mbxEvent 1) 1 = true ∧ flag b (.mbxEvent 1) 0 = false) ∧
    answers (answering []).toBlock 1 = true ∧ (func (answering []).toBlock 1).msixEn = false := by decide +kernel
theorem hyp_functions :
    (let b := (answering [.units fun u => { u with vfs := 0 }]).toBlock
     answers b 0 = true ∧ b.vfs = 0) ∧ answers State.reset.toBlock 0 = false ∧ (answering []).vfs = 5 ∧
    (let b := (answering [.units fun u => { u with ptm := true }, .setReg (.uciStatus 0) 0x800000]).toBlock
     answers b 0 = true ∧ b.ptm = true ∧ b.power.phase = .locked ∧ inLink b 0 = true) ∧
    (let b := (answering [.setFld (.mbxFunc 1) 25 25 1]).toBlock
     (part b 1).pausing = none ∧ zeroBusy b 1 = false ∧ flag b (.mbxFunc 1) 25 = true ∧ (part b 1).st ≠ .empty) := by
  decide +kernel

/-! ## The module -/

def atPhase (p : Phase) (l : List Act) : State := made (.power (fun x => { x with phase := p }) :: l)
def goodBoot : BootIn := { stage1 := true, stage2 := true, hangs := 0, trained := [3], bad := [], burnt := none }
def brokenSlots : Act := .power fun p =>
  { p with slotA := { p.slotA with factory := false }, slotB := { p.slotB with factory := false } }
theorem hyp_module :
    State.reset.power.phase = .off ∧
    (∀ trips ∈ [[], [2], [1, 2]], ∀ low, ∀ refs ∈ [[], [0]], let b := (atPhase .standby [.power fun x =>
        { x with trips := trips, mrstLow := low, refs := refs }]).toBlock
      b.power.phase = .standby ∧ b.power.trips = trips ∧ b.power.mrstLow = low ∧ b.power.refs = refs ∧ railsUp b = false) ∧
    (let b := (atPhase .rails []).toBlock
     b.power.phase = .rails ∧ b.power.refs = [] ∧ bootFails b = 0 ∧ chooseSlot b 0 = some 0 ∧ isFenced b 7 3 = false ∧ railsUp b = true ∧
       booting b = false ∧ b.power.stage1 = false ∧ b.power.cause = 0) ∧
    (∀ c < 3, chooseSlot (atPhase .rails [brokenSlots]).toBlock c = none) ∧
    (let b := (atPhase .locked [.power (fun x => { x with watchdog := true }), .setFld .pwrModstate 2 0 modBooting]).toBlock
     booting b = true ∧ b.power.refs = [] ∧ b.power.stage1 = false) ∧
    (atPhase .locked [.power fun x => { x with stage1 := true }]).power.stage1 = true ∧
    goodBoot.trained.contains 3 = true ∧ ({ goodBoot with stage1 := false } : BootIn).stage1 = false := by decide +kernel
/-- A boot whose burn of the arbitration counter is cut short: slot A's image has version 5, the counter stands at 2. -/
def burnState : State := atPhase .rails [.power (fun p => { p with slotA := { p.slotA with svn := 5 } }), .setFld .secArb 7 0 2]
theorem hyp_burn : let b := burnState.toBlock
    bootFails b < 3 ∧ chooseSlot b (bootFails b) = some 0 ∧ arbCount b = 2 ∧ slotSvn (fwSlot b 0) = 5 ∧
    (∀ n ∈ [2, 3], decide (arbCount b + n < max (arbCount b) (slotSvn (fwSlot b 0))) = (n == 2)) := by decide +kernel
/-- Sensor 5 stands at 130 °C, which is above every threshold. -/
theorem hyp_conditions :
    (let b := (atPhase .locked []).toBlock
     monitors b = true ∧ flag b .pwrInStatus 5 = false ∧ b.power.refs = [] ∧ refLost b 0 = false ∧ b.power.failed.contains 5 = false ∧
       b.power.hotSensors.contains 5 = false ∧ b.power.haltSensors.contains 5 = false ∧ b.power.haltCoolant = false ∧
       outOfRange 2080 = false ∧ outOfRange 2401 = true ∧ warnAt b 5 ≤ signedOf 2080 16 ∧ haltAt b 5 ≤ signedOf 2080 16) ∧
    (let b := (atPhase .locked [.setReg .pwrInStatus 0x138, .power fun x => { x with
        hotSensors := [5], haltSensors := [5], failed := [5, 90, 91], refs := [0, 1] }]).toBlock
     flag b .pwrInStatus (refBit 0) = true ∧ (∀ n ∈ b.power.refs, n < 3 → flag b .pwrInStatus (refBit n) = true) ∧ haltActive b = true ∧
       b.power.hotSensors.contains 5 = true ∧ b.power.failed.contains 5 = true ∧
       (b.power.failed.contains 90 && b.power.failed.contains 91) = true) ∧
    (720 : Int) < (721 : BitVec 16).toInt ∧ (899 : BitVec 16).toNat < 900 ∧ (5000 : BitVec 16).toNat ≤ 6300 := by decide +kernel
theorem hyp_sideband :
    (let b := (atPhase .locked []).toBlock
     pmbus b = true ∧ i3cUp b = true ∧ b.power.i3cAddr = none ∧ (1 : Nat) ∉ pmbSupported) ∧
    (atPhase .locked [.power fun x => { x with i3cAddr := some 9 }]).power.i3cAddr.isSome = true := by decide +kernel

/-! ## Steps, cores, formats -/

theorem hyp_step : ({ State.reset with pending := [.powerOn] } : State).pending = .powerOn :: [] ∧ State.reset.pending = [] ∧
    (Instr.wf .powerOn) = true ∧ (Instr.wf (.wait 25600)) = false := by decide +kernel
theorem hyp_canonical : State.reset.toBlock.Inv ∧ step State.reset = .next State.reset :=
  ⟨⟨by decide, by decide, by intro e h; simp [State.reset] at h⟩, rfl⟩
theorem hyp_apart : State.reset.toBlock.PlotsApart :=
  have h (f : Nat) : part State.reset.toBlock f = Partition.reset := rfl
  ⟨fun f g _ i => by simp [h, Partition.reset], fun f k => absurd (show (part State.reset.toBlock f).plots = 0 from rfl) k⟩
theorem hyp_cores : isCore 25599 = true ∧ plotOf 25599 = 63 ∧ coreXY 25599 = (159, 159) := by decide +kernel
theorem hyp_poison : (List.replicate 16 ({ v := .nan 0x7FC00000 false, ovf := false, flush := false, flags := 0 } : OutVal)).length % 16 = 0 ∧
    (Val.nan 0x7FC00000 false).isNaN = true := by decide +kernel
theorem hyp_convert : decodeCode 1 0x3F80 = .fin (Q.ofInt 1) ∨ (∃ q, decodeCode 1 0x3F80 = .fin q ∧ isSubnormal 1 0x3F80 = false) ∧
    (∃ n, decodeCode 1 0x8000 = .zero n) ∧ ∃ n, decodeCode 1 0x7F80 = .inf n :=
  .inr ⟨⟨_, rfl, by decide⟩, ⟨_, rfl⟩, ⟨_, rfl⟩⟩

/-! ## One step each -/

/-- The block after a command. -/
def after (i : Instr) (s : State) : Block :=
  match exec i s with
  | .next t => t.toBlock
  | _ => State.reset.toBlock

def cBytes (b : Block) (n : Nat) : Bytes := bytesAt b (scratchAt 0 16000) n
theorem test_elem_add : cBytes (after (.elemAdd 0 none) (vecState (vecEntry opElemwise 0 0))) 8 =
    leBytes 0x40800000 4 ++ leBytes 0 4 := by decide +kernel
theorem test_elem_sub : cBytes (after (.elemSub 0 none) (vecState (vecEntry opElemwise 1 0))) 8 =
    leBytes 0xC0000000 4 ++ leBytes 0x40800000 4 := by decide +kernel
theorem test_elem_mul : cBytes (after (.elemMul 0 none) (vecState (vecEntry opElemwise 2 0))) 8 =
    leBytes 0x40400000 4 ++ leBytes 0xC0800000 4 := by decide +kernel
theorem test_convert : cBytes (after (.convert 0 none) (vecState (vecEntry opConvert 0 1))) 6 = leBytes 0x40003F80 4 ++ [0, 0] := by
  decide +kernel

/-- A semaphore takes a SIGNAL and gives the count to the WAIT behind it (06_streams.md R158, R159). -/
theorem test_signal : rd (after (.signalAtHome 0) (made [object 3 1 2, .issue (.sig 3 5 (.seq 0) 0)])) (.synObjState 3) = 7 := by
  decide +kernel
theorem test_wait : rd (after (.waitAtHome 0) (made [object 3 1 7, .issue (.wait 3 { agent := .seq 0, n := 5, left := none })]))
    (.synObjState 3) = 2 := by decide +kernel
theorem test_ptm_response : rd (after (.ptmResponse 1000) (answering [.setReg .srlBeat 5, .units fun u => { u with ptm := true }]))
    .chkUtcOffset = 200 := by decide +kernel
theorem test_power_on : (after .powerOn State.reset).power.phase = .standby := by decide +kernel
theorem test_trip : (after .undervoltageTrip (atPhase .rails [])).power.trips = [2] ∧
    rd (after .undervoltageTrip (atPhase .rails [])) .pwrLastTrip = 2 := by decide +kernel
theorem test_supply_warning : flag (after (.supplyWarning 4900) (atPhase .locked [])) .pwrInStatus 7 = true ∧
    flag (after (.supplyWarning 5500) (atPhase .locked [.setFld .pwrInStatus 7 7 1])) .pwrInStatus 7 = false := by decide +kernel
theorem test_revision : (after .pmbusRevision (atPhase .standby [])).outbox = [.reply [0x33]] := by decide +kernel
theorem test_vin : (after .readVin (atPhase .locked [.setReg .pwrVin 5600])).outbox = [.reply (leBytes 0xE380 2)] := by decide +kernel
theorem test_vf_enable : (after (.vfEnable 16) (answering [.units fun u => { u with vfs := 0 }])).vfs = 16 ∧ (after (.vfEnable 16) State.reset).vfs = 0 := by decide +kernel
theorem test_write_one_clears : rd (after (.registerWrite 0 (offsetOf .pwrInLatch) 4 5) (answering [.setReg .pwrInLatch 0xF])) .pwrInLatch = 0xA := by
  decide +kernel
theorem test_read_clears :
    let b := after (.registerReadClear 0 (offsetOf (.coreCnvSat 0)) 4) (answering [.setReg (.coreCnvSat 0) 9])
    b.outbox = [.readData (leBytes 9 4)] ∧ rd b (.coreCnvSat 0) = 0 := by decide +kernel
theorem test_bar4_store : bytesAt (after (.hostBarAccess 1 2 0x200010 2 (some [7, 8])) (answering [])) (scratchAt 1 0x10) 2 = [7, 8] := by
  decide +kernel
theorem test_pause : (part (after (.pause 0 2) (asked 0 2 (req 0x31 1 []) [])) 1).pausing = some (.command 0 2) := by decide +kernel
theorem test_denied : rd (after (.fwAbort 3 2) (asked 3 2 (req 0x83 0 []) [])) (.mbxMb 3 2) = 0x04000004 := by decide +kernel
theorem test_fence_unit : isFenced (after (.fenceUnit 0 2) (asked 0 2 (req 0x51 0 (unitIs 8 3)) [])) 8 3 = true := by decide +kernel
theorem test_lookup : (match (after (.lookup 1 true) (served (record 1 0 64) [])).dirReqs with
    | [] => true
    | _ => false) = true := by decide +kernel
theorem test_lane_failure : portState (after (.laneFailure 3 0 1) (linkState [])) 3 = lnkRetraining := by decide +kernel
theorem test_marker_timeout_idle : domState (after .markerTimeout State.reset) = 0 := by decide +kernel
theorem test_idle_step : step State.reset = .next State.reset := rfl

end Sys2Proof.Tests
end

section
/-! PROOFS. The numbering of cores (01_module.md R17, R18), and which commands complete (R15). -/

namespace Sys2Proof.Machine

/-! ## Core ids and coordinates -/

/-- A core id's die, row and column are the ones it was made of. -/
theorem coreId_parts {d r c : Nat} (hr : r < 40) (hc : c < 80) :
    (d * 3200 + r * 80 + c) / 3200 = d ∧ (d * 3200 + r * 80 + c) % 3200 / 80 = r ∧ (d * 3200 + r * 80 + c) % 80 = c := by
  omega

theorem isCore_coreId {d r c : Nat} (hd : d < 8) (hr : r < 40) (hc : c < 80) : isCore (d * 3200 + r * 80 + c) = true :=
  decide_eq_true (by unfold Config.numCores; omega)

theorem coreId_of_isCore {k : Nat} (h : isCore k = true) :
    ∃ d r c, d < 8 ∧ r < 40 ∧ c < 80 ∧ k = d * 3200 + r * 80 + c :=
  have := isCore_lt h
  ⟨k / 3200, k % 3200 / 80, k % 80, by omega, by omega, by omega, by omega⟩

theorem coreXY_coreId {d r c : Nat} (hr : r < 40) (hc : c < 80) :
    coreXY (d * 3200 + r * 80 + c) = (d % 2 * 80 + c, d / 2 * 40 + r) := by
  obtain ⟨hdie, hrow, hcol⟩ := coreId_parts (d := d) hr hc
  simp only [coreXY, hdie, hrow, hcol]

theorem coreAtXY_coordinates {d r c : Nat} (hr : r < 40) (hc : c < 80) :
    coreAtXY (d % 2 * 80 + c) (d / 2 * 40 + r) = d * 3200 + r * 80 + c := by
  unfold coreAtXY; omega

theorem isCore_coreAtXY {x y : Nat} (hx : x ≤ 159) (hy : y ≤ 159) : isCore (coreAtXY x y) = true :=
  decide_eq_true (by unfold coreAtXY Config.numCores; omega)

theorem coreXY_coreAtXY {x y : Nat} (hx : x ≤ 159) : coreXY (coreAtXY x y) = (x, y) := by
  simp only [coreXY, coreAtXY, Prod.mk.injEq]; omega

/-- A plot id is made of the die, the plot row and the plot column (R18). -/
theorem plotOf_eq_iff (k j : Nat) : plotOf k = plotOf j ↔
    k / 3200 = j / 3200 ∧ k % 3200 / 80 / 20 = j % 3200 / 80 / 20 ∧ k % 80 / 20 = j % 80 / 20 := by
  unfold plotOf; omega

/-- Settles O58: ids, die coordinates and module coordinates are mixed-radix numbers of one another. -/
theorem coresAreNumbered : Obligations.CoresAreNumbered := by
  refine ⟨fun d r c hd hr hc => ?_, fun k => coreId_of_isCore, fun x y hx hy => ?_, fun k j _ _ => plotOf_eq_iff k j⟩
  · exact ⟨isCore_coreId hd hr hc, by omega, coreXY_coreId hr hc, by omega, by omega, coreAtXY_coordinates hr hc⟩
  · exact ⟨isCore_coreAtXY hx hy, coreXY_coreAtXY hx⟩

/-! ## Commands that complete -/

/-- Settles O55: every command is performed under the condition that its units exist. -/
theorem wellFormedCommandsComplete : Obligations.WellFormedCommandsComplete := by
  intro i s
  obtain ⟨x, hx⟩ := exec_performs i s
  rw [hx]
  constructor
  · intro hwf
    rw [hwf]
    exact ⟨_, perform_true x s, rfl⟩
  · intro hwf
    rw [hwf]
    exact perform_false x s

end Sys2Proof.Machine
end

section
/-! PROOFS. The boot whose burn is interrupted leaves PWR_MODSTATE as it finds it (15_power_boot.md R411). -/

namespace Sys2Proof.Machine

/-- The rails are up for the first time, slot A holds an image of SVN 1 above the anti-rollback count of 0, and PWR_MODSTATE
reads OPERATIONAL. The registers are canonical, but no run from reset has the rails coming up in this state. -/
def operationalAtRails : State :=
  { State.reset with toBlock := (Act.all [
      .power fun p => { p with phase := .rails, slotA := { p.slotA with svn := 1 } },
      .setReg .pwrModstate modOperational]).run State.reset.toBlock }

/-- Every test passes and controller 0 trains, and power fails before the first fuse is burnt. -/
def burnCutShort : BootIn :=
  { stage1 := true, stage2 := true, hangs := 0, trained := [0], bad := [], burnt := some 0 }

theorem modState_after_burnCutShort {t : State} (ht : execRootPllLock [burnCutShort] operationalAtRails = .next t) :
    modState t.toBlock = modOperational := by
  unfold execRootPllLock at ht
  obtain ⟨-, rfl⟩ := perform_next ht
  decide +kernel

/-- Refutes O51: the statement has every interrupted burn end in BOOTING, whatever PWR_MODSTATE held as the root PLL locked.
A boot writes that register only as it ends in OPERATIONAL or MINIMAL, or by a warm restart's reset, so from
`operationalAtRails`, which no hypothesis rules out, the module still reads OPERATIONAL. -/
theorem not_modulePowersUpTripsAndRestarts : ¬ Obligations.ModulePowersUpTripsAndRestarts := by
  intro h
  obtain ⟨-, -, hrails, -⟩ := h operationalAtRails
  obtain ⟨-, -, hgood, -⟩ := hrails rfl rfl
  have hslot : chooseSlot operationalAtRails.toBlock (bootFails operationalAtRails.toBlock) = some 0 := by decide +kernel
  obtain ⟨t, ht, -, -, -, -, -, -, -, hburn⟩ := hgood burnCutShort [] 0 rfl rfl rfl (by decide +kernel) hslot
    ⟨0, by decide, by decide, by decide +kernel⟩
  have hbooting : modState t.toBlock = modBooting := (hburn 0 rfl (by decide +kernel)).1
  rw [modState_after_burnCutShort ht] at hbooting
  exact absurd hbooting (by decide)

end Sys2Proof.Machine
end

section
/-! PROOFS. What events and records of the module leave, and what a record adds to the Tansy buffer (12_host.md R364,
11_integrity.md R333 to R335). -/

namespace Sys2Proof.Machine

/-! ## Memory and units -/

/-- What register writes, messages out and records leave: memory, and the units but for the outbox and Campion. -/
def Block.unrecorded (b : Block) : List Host.Cell × Units :=
  (b.mem, { b.toUnits with outbox := [], campion := Campion.reset })

theorem unrecorded_mem {b c : Block} (h : c.unrecorded = b.unrecorded) : c.mem = b.mem := congrArg (·.1) h
theorem unrecorded_cores {b c : Block} (h : c.unrecorded = b.unrecorded) : c.cores = b.cores := congrArg (·.2.cores) h
theorem unrecorded_parts {b c : Block} (h : c.unrecorded = b.unrecorded) : c.parts = b.parts := congrArg (·.2.parts) h
theorem unrecorded_part {b c : Block} (h : c.unrecorded = b.unrecorded) (f : Nat) : part c f = part b f := by
  unfold part; rw [unrecorded_parts h]
theorem unrecorded_power {b c : Block} (h : c.unrecorded = b.unrecorded) : c.power = b.power := congrArg (·.2.power) h
theorem unrecorded_lock {b c : Block} (h : c.unrecorded = b.unrecorded) : c.lock = b.lock := congrArg (·.2.lock) h

theorem setReg_unrecorded (r : Reg) (v : Nat) : (Act.setReg r v).Keeps Block.unrecorded := ⟨fun _ => rfl⟩
theorem setFld_unrecorded (r : Reg) (hi lo v : Nat) : (Act.setFld r hi lo v).Keeps Block.unrecorded :=
  .read fun _ => setReg_unrecorded _ _
theorem count_unrecorded (r : Reg) (n : Nat) : (Act.count r n).Keeps Block.unrecorded :=
  .read fun _ => setReg_unrecorded _ _
theorem emit_unrecorded (o : Output) : (Act.emit o).Keeps Block.unrecorded := ⟨fun _ => rfl⟩
theorem sendVector_unrecorded (f v : Nat) : (Act.sendVector f v).Keeps Block.unrecorded :=
  .read fun _ => .when (.ite (setFld_unrecorded _ _ _ _) (emit_unrecorded _))
theorem event_unrecorded (f i : Nat) : (Act.event f i).Keeps Block.unrecorded :=
  .read fun _ => .ite .nop (.cons (setFld_unrecorded _ _ _ _) (.cons (sendVector_unrecorded _ _) .nil))
theorem logBody_unrecorded (body : Bytes) : (Act.logBody body).Keeps Block.unrecorded :=
  .read fun _ => .ite (count_unrecorded _ _) (.cons (.when (count_unrecorded _ _)) (.cons (setReg_unrecorded _ _)
    (.cons ⟨fun _ => rfl⟩ (.cons (.when (event_unrecorded _ _)) .nil))))
theorem log_unrecorded (t : Tansy) : (Act.log t).Keeps Block.unrecorded := .read fun _ => logBody_unrecorded _

/-! ## Registers -/

/-- An event writes MBX_EVENT and MSIX_PBA of its function. -/
theorem event_wordAt {a f : Nat} (i : Nat) (he : (Reg.mbxEvent f).addr ≠ a) (hp : (Reg.msixPba f).addr ≠ a) :
    (Act.event f i).Keeps (wordAt a) :=
  .read fun _ => .ite .nop (.cons (.setFld he) (.cons (.read fun _ => .when (.ite (.setFld hp) (.units fun _ => rfl))) .nil))

/-- A record writes CHK_LOG_SEQ, CHK_LOG_DROPPED and the event registers of a function. -/
theorem logBody_wordAt {a : Nat} (body : Bytes) (hs : Reg.chkLogSeq.addr ≠ a) (hd : Reg.chkLogDropped.addr ≠ a)
    (hf : ∀ f ≤ 16, (Reg.mbxEvent f).addr ≠ a ∧ (Reg.msixPba f).addr ≠ a) : (Act.logBody body).Keeps (wordAt a) := by
  have hevent : (Act.when (isFunc (recFunc body)) (.event (recFunc body) 2)).Keeps (wordAt a) := by
    cases h : isFunc (recFunc body) with
    | false => exact .nop
    | true => exact event_wordAt 2 (hf _ (of_decide_eq_true h)).1 (hf _ (of_decide_eq_true h)).2
  exact .read fun _ => .ite (.count hd) (.cons (.when (.count hd)) (.cons (.setReg hs) (.cons (.units fun _ => rfl)
    (.cons hevent .nil))))

theorem event_campion (f i : Nat) : (Act.event f i).Keeps fun b => b.campion :=
  .read fun _ => .ite .nop (.cons ⟨fun _ => rfl⟩ (.cons (.read fun _ => .when (.ite ⟨fun _ => rfl⟩ ⟨fun _ => rfl⟩)) .nil))

theorem flag_eq_fld (b : Block) (r : Reg) (i : Nat) : flag b r i = (fld b r i i == 1) := by
  unfold flag fld bitOf bitsOf
  rw [Nat.add_sub_cancel_left, Nat.pow_one]

/-- An event's bit is set, whether the event set it or found it. -/
theorem flag_event (f i : Nat) (hi : i < 32) (b : Block) : flag ((Act.event f i).run b) (.mbxEvent f) i = true := by
  have hsend : (Act.sendVector f (4 + i)).Keeps (wordAt (Reg.mbxEvent f).addr) :=
    .read fun _ => .when (.ite (.setFld (by simp)) (.units fun _ => rfl))
  unfold Act.event
  rw [Act.read_run]
  split
  · assumption
  · rw [Act.all_cons, Act.all_cons, Act.all_nil, flag_eq_fld, fld, rd_of_wordAt (hsend.eq _)]
    change (fld _ _ i i == 1) = true
    rw [fld_setFld _ _ _ _ _ (Reg.width_le _) hi (Nat.le_refl i), Nat.add_sub_cancel_left]
    rfl

/-! ## Records -/

theorem leAt_append_left (l r : Bytes) (o n : Nat) (h : o + n ≤ l.length) : leAt (l ++ r) o n = leAt l o n := by
  unfold leAt
  rw [List.drop_append_of_le_length (by omega), List.take_append_of_le_length (by rw [List.length_drop]; omega)]

theorem leAt_append_right (l r : Bytes) (o n : Nat) (ho : l.length = o) (hn : r.length = n) : leAt (l ++ r) o n = leNat r := by
  subst ho hn
  unfold leAt
  rw [List.drop_left, List.take_length]

/-- The detector code stands at byte 0x4C of a record (R333). -/
theorem recDetector_body (t : Tansy) (b : Block) : recDetector (t.body b) = t.detector % 256 := by
  unfold recDetector Tansy.body
  iterate 6 rw [leAt_append_left _ _ _ _ (by simp only [List.length_append, leBytes_length]; omega)]
  rw [leAt_append_right _ _ _ _ (by simp only [List.length_append, leBytes_length]) (leBytes_length _ _), leNat_leBytes, Nat.pow_one]

/-- A buffer with room takes the record in its place. -/
theorem logBody_bufferTakes (body : Bytes) {b : Block} (h : b.campion.buffer.length < 4096) :
    BufferTakes b ((Act.logBody body).run b) body ((rd b .chkLogSeq + 1) % 2 ^ 32) := by
  have hroom : decide (4096 ≤ b.campion.buffer.length) = false := decide_eq_false (by omega)
  have hevent : (Act.when (isFunc (recFunc body)) (.event (recFunc body) 2)).Keeps fun b => b.campion :=
    .when (event_campion _ _)
  unfold BufferTakes Act.logBody
  simp only [Act.read_run, hroom, Bool.false_and, Bool.false_eq_true, if_false, Act.all_cons, Act.all_nil, Act.when_false,
    Act.nop_run, hevent.eq]
  rfl

/-- A record written into b' enters the buffer of b, where the record's number and the buffer are still those of b. -/
theorem LogsOne.of_log {b b' t : Block} (x : Tansy) (code : Nat) (hx : x.detector % 256 = code)
    (hc : b'.campion = b.campion) (hs : rd b' .chkLogSeq = rd b .chkLogSeq)
    (ht : t.campion = ((Act.log x).run b').campion) : LogsOne b t code := by
  intro hroom
  refine ⟨x.body b', (recDetector_body x b').trans hx, ?_⟩
  have h : BufferTakes b' _ _ _ := logBody_bufferTakes (x.body b') (b := b') (by rw [hc]; exact hroom)
  unfold BufferTakes at h ⊢
  rw [ht, ← hc, ← hs]
  exact h

end Sys2Proof.Machine
end

section
/-! PROOFS. The beat boundary (01_module.md R40, 09_schedules.md R265, 15_power_boot.md R417): what its steps do and leave. -/

namespace Sys2Proof.Machine

/-! ## The steps of a beat boundary -/

/-- A beat begins: it is counted, BSYNC pulses at every fourth, and all that counts beats is one beat on. -/
def Act.beginBeat : Act :=
  .read fun b => Act.all [
    .setReg .srlBeat ((beat b + 1) % 2 ^ 64), .whenB (fun b => b.power.bsync && beat b % 4 == 0) (.emit .bsync), .tickUnits]

/-- The master of an OPERATIONAL module takes its lost lock again. -/
def Act.retakeLock : Act := .whenB (fun b => modState b == modOperational) .relockMaster

/-- A beat boundary without readings. -/
def Act.boundary : Act := Act.all [.beginBeat, .leaveRefresh, .retakeLock]

/-- BEAT_BOUNDARY of a running module is the boundary, and then the readings. -/
theorem beatBoundary_runs (readings : Option Sample) {s : State} {P : Block → Prop} (hl : s.power.phase = .locked)
    (hP : P ((Act.opt readings .sample).run (Act.boundary.run s.toBlock))) : Runs (.beatBoundary readings) s P := by
  refine Runs.of_perform (u := true) rfl rfl ?_
  rw [Act.whenB_run, if_pos (by rw [hl]; rfl)]
  exact hP

/-! ## The beat begins -/

theorem beginBeat_wordAt {a : Nat} (h : Reg.srlBeat.addr ≠ a) : Act.beginBeat.Keeps (wordAt a) :=
  .read fun _ => .cons (.setReg h) (.cons (.whenB (.units fun _ => rfl)) (.cons (.read fun _ => .units fun _ => rfl) .nil))

theorem beginBeat_keeps : Act.beginBeat.Keeps fun b => (b.mem, b.cores, b.power) :=
  .read fun _ => .cons ⟨fun _ => rfl⟩ (.cons (.whenB ⟨fun _ => rfl⟩) (.cons (.read fun _ => ⟨fun _ => rfl⟩) .nil))

theorem beat_beginBeat (b : Block) : beat (Act.beginBeat.run b) = (beat b + 1) % 2 ^ 64 := by
  have hrest : (Act.all [.whenB (fun b => b.power.bsync && beat b % 4 == 0) (.emit .bsync), .tickUnits]).Keeps
      (wordAt Reg.srlBeat.addr) := .cons (.whenB (.units fun _ => rfl)) (.cons (.read fun _ => .units fun _ => rfl) .nil)
  have hset := rd_setReg_self .srlBeat ((beat b + 1) % 2 ^ 64) b
  exact (rd_of_wordAt (hrest.eq _)).trans (hset.trans (Nat.mod_mod _ _))

theorem smGet_map {α β : Type} (g : α → β) (l : List (Nat × α)) (k : Nat) :
    smGet (l.map fun x => (x.1, g x.2)) k = (smGet l k).map g := by
  induction l with
  | nil => rfl
  | cons x r ih =>
    rw [List.map_cons, smGet_cons, smGet_cons, ih]
    split <;> rfl

/-- Every partition is one beat on, the empty one of a function that has none too. -/
theorem part_beginBeat (b : Block) (f : Nat) : part (Act.beginBeat.run b) f = (part b f).tick := by
  have hparts : (Act.beginBeat.run b).parts = b.parts.map fun x => (x.1, x.2.tick) := by
    unfold Act.beginBeat Act.tickUnits
    simp only [Act.read_run, Act.all_cons, Act.all_nil, Act.whenB_run]
    split <;> rfl
  unfold part smGetD
  rw [hparts, smGet_map]
  cases smGet b.parts f <;> rfl

theorem sinceMarker_beginBeat (b : Block) : (Act.beginBeat.run b).lock.sinceMarker = b.lock.sinceMarker + 1 := by
  unfold Act.beginBeat Act.tickUnits
  simp only [Act.read_run, Act.all_cons, Act.all_nil, Act.whenB_run]
  split <;> rfl

/-- BSYNC pulses in a beat whose number is a multiple of 4 (14_module_hw.md R391). -/
theorem outbox_beginBeat (b : Block) : (Act.beginBeat.run b).outbox =
    b.outbox ++ (if b.power.bsync = true ∧ (beat b + 1) % 2 ^ 64 % 4 = 0 then [.bsync] else []) := by
  have hbeat : beat ((Act.setReg .srlBeat ((beat b + 1) % 2 ^ 64)).run b) = (beat b + 1) % 2 ^ 64 :=
    (rd_setReg_self .srlBeat _ b).trans (Nat.mod_mod _ _)
  unfold Act.beginBeat Act.tickUnits
  simp only [Act.read_run, Act.all_cons, Act.all_nil, Act.whenB_run, hbeat, Act.setReg_power, Bool.and_eq_true, beq_iff_eq]
  split
  · rfl
  · exact (List.append_nil _).symm

/-! ## Controllers leave self-refresh -/

/-- A wake's controllers leave self-refresh in this beat (R417). -/
def Block.endsRefresh (b : Block) : Prop := ∃ x, b.power.wake = some x ∧ beat b = refreshEnd x.1

theorem endsRefresh_iff (b : Block) : (b.power.wake.any fun x => beat b == refreshEnd x.1) = true ↔ b.endsRefresh := by
  simp only [Option.any_eq_true, beq_iff_eq, Block.endsRefresh]

theorem leaveRefresh_wordAt {a : Nat} (h : ∀ k < 16, (Reg.lpdStatus k).addr ≠ a) : Act.leaveRefresh.Keeps (wordAt a) :=
  .read fun _ => .when (.eachMem fun k hk => .setFld (h k (List.mem_range.1 (List.mem_filter.1 hk).1)))

theorem leaveRefresh_unrecorded : Act.leaveRefresh.Keeps Block.unrecorded :=
  .read fun _ => .when (.each fun _ => setFld_unrecorded _ _ _ _)

theorem leaveRefresh_of_not {b : Block} (h : ¬ b.endsRefresh) : Act.leaveRefresh.run b = b := by
  have hw : (b.power.wake.any fun x => beat b == refreshEnd x.1) = false := Bool.eq_false_iff.2 (mt (endsRefresh_iff b).1 h)
  unfold Act.leaveRefresh
  rw [Act.read_run, hw, Act.when_false, Act.nop_run]

theorem lpdState_setLpdState (j k st : Nat) (b : Block) :
    lpdState ((Act.setLpdState j st).run b) k = if j = k then st % 16 else lpdState b k := by
  unfold lpdState Act.setLpdState
  split
  · next h => subst h; exact fld_setFld _ _ _ _ _ (Reg.width_le _) (by decide : 31 < 32) (by decide)
  · next h =>
    unfold fld
    rw [rd_setFld_other _ _ _ _ _ _ (by simp only [Reg.addr_lpdStatus]; omega)]

theorem lpdState_each (l : List Nat) (st k : Nat) (b : Block) :
    lpdState ((Act.each l fun j => .setLpdState j st).run b) k = if k ∈ l then st % 16 else lpdState b k := by
  induction l generalizing b with
  | nil => rfl
  | cons j r ih =>
    rw [Act.each_cons, ih, lpdState_setLpdState]
    simp only [List.mem_cons, eq_comm (a := k)]
    by_cases hr : k ∈ r <;> by_cases hj : j = k <;> simp [hr, hj]

theorem lpdState_leaveRefresh (b : Block) {k : Nat} (hk : k < 16) [Decidable (b.endsRefresh ∧ lpdState b k = lpdSelfRefresh)] :
    lpdState (Act.leaveRefresh.run b) k =
      if b.endsRefresh ∧ lpdState b k = lpdSelfRefresh then lpdReady else lpdState b k := by
  by_cases hw : b.endsRefresh
  · unfold Act.leaveRefresh
    rw [Act.read_run, (endsRefresh_iff b).2 hw, Act.when_true, lpdState_each]
    simp only [List.mem_filter, List.mem_range, hk, hw, beq_iff_eq, true_and]
    rfl
  · rw [leaveRefresh_of_not hw, if_neg fun h => hw h.1]

/-! ## The master takes its lock again -/

/-- An OPERATIONAL module that is master of its domain, has lost its lock and has no active partition (09_schedules.md R265). -/
abbrev Block.relocks (b : Block) : Prop :=
  modState b = modOperational ∧ domState b = 3 ∧ fld b .srlDomStatus 15 8 = 0xFF ∧ anyActive b = false

theorem retakeLock_wordAt {a : Nat} (hd : Reg.srlDomStatus.addr ≠ a) (he : (Reg.mbxEvent 0).addr ≠ a)
    (hp : (Reg.msixPba 0).addr ≠ a) : Act.retakeLock.Keeps (wordAt a) :=
  .whenB (.whenB (.read fun _ => .when (.cons (.setFld hd) (.cons (event_wordAt 3 he hp) .nil))))

theorem retakeLock_unrecorded : Act.retakeLock.Keeps Block.unrecorded :=
  .whenB (.whenB (.read fun _ => .when (.cons (setFld_unrecorded _ _ _ _) (.cons (event_unrecorded _ _) .nil))))

theorem retakeLock_of_not {b : Block} (h : ¬ b.relocks) : Act.retakeLock.run b = b := by
  unfold Act.retakeLock Act.relockMaster
  simp only [Act.whenB_run, beq_iff_eq, Bool.and_eq_true, Bool.not_eq_true']
  split
  · next hm => exact if_neg fun hr => h ⟨hm, hr.1.1, hr.1.2, hr.2⟩
  · rfl

/-- The lock's new state is a module event. -/
theorem retakeLock_of_relocks {b : Block} (h : b.relocks) :
    Act.retakeLock.run b = (Act.event 0 3).run ((Act.setFld .srlDomStatus 31 30 2).run b) := by
  obtain ⟨hm, hd, hf, ha⟩ := h
  have hne : (3 != 2) = true := rfl
  unfold Act.retakeLock Act.relockMaster Act.setDomState
  simp only [Act.whenB_run, Act.read_run, hm, hd, hf, ha, hne, beq_self_eq_true, Bool.not_false, Bool.and_self, if_true,
    Act.when_true, Act.all_cons, Act.all_nil]

theorem domState_retakeLock (b : Block) [Decidable b.relocks] :
    domState (Act.retakeLock.run b) = if b.relocks then 2 else domState b := by
  split
  · next h =>
    have hevent : (Act.event 0 3).Keeps (wordAt Reg.srlDomStatus.addr) :=
      event_wordAt 3 (by simp [mbxBase, srlBase]) (by simp [mbxBase, srlBase])
    unfold domState fld
    rw [retakeLock_of_relocks h, rd_of_wordAt (hevent.eq _)]
    exact fld_setFld _ _ _ _ _ (Reg.width_le _) (by decide : 31 < 32) (by decide)
  · next h => rw [retakeLock_of_not h]

theorem anyActive_congr {b c : Block} (h : ∀ f, (part c f).st = (part b f).st) : anyActive c = anyActive b := by
  unfold anyActive owners
  simp only [h]

theorem relocks_congr {b c : Block} (hm : rd c .pwrModstate = rd b .pwrModstate) (hd : rd c .srlDomStatus = rd b .srlDomStatus)
    (hp : ∀ f, (part c f).st = (part b f).st) : c.relocks ↔ b.relocks := by
  unfold Block.relocks modState domState fld
  rw [hm, hd, anyActive_congr hp]

/-! ## The boundary -/

/-- The registers that a beat boundary may write. -/
def boundaryWindows : List (Nat × Nat) :=
  Reg.srlBeat.window :: Reg.srlDomStatus.window :: (Reg.mbxEvent 0).window :: (Reg.msixPba 0).window ::
    (List.range 16).map fun k => (Reg.lpdStatus k).window

theorem Reg.addr_ne_of_window {a : Nat} {r : Reg} (h : a < r.window.1 ∨ r.window.1 + r.window.2 ≤ a) : r.addr ≠ a := by
  simp only [Reg.window] at h; omega

theorem boundary_wordAt {a : Nat} (h : ∀ y ∈ boundaryWindows, a < y.1 ∨ y.1 + y.2 ≤ a) : Act.boundary.Keeps (wordAt a) := by
  simp only [boundaryWindows, List.mem_cons, List.mem_map, List.mem_range, forall_eq_or_imp, forall_exists_index, and_imp,
    forall_apply_eq_imp_iff₂] at h
  obtain ⟨hbeat, hdom, hevent, hpba, hlpd⟩ := h
  exact .cons (beginBeat_wordAt (Reg.addr_ne_of_window hbeat)) (.cons
    (leaveRefresh_wordAt fun k hk => Reg.addr_ne_of_window (hlpd k hk)) (.cons
    (retakeLock_wordAt (Reg.addr_ne_of_window hdom) (Reg.addr_ne_of_window hevent) (Reg.addr_ne_of_window hpba)) .nil))

theorem boundary_run (b : Block) :
    Act.boundary.run b = Act.retakeLock.run (Act.leaveRefresh.run (Act.beginBeat.run b)) := rfl

theorem boundary_unrecorded (b : Block) : (Act.boundary.run b).unrecorded = (Act.beginBeat.run b).unrecorded :=
  (retakeLock_unrecorded.eq _).trans (leaveRefresh_unrecorded.eq _)

theorem boundary_power (b : Block) : (Act.boundary.run b).power = b.power :=
  (unrecorded_power (boundary_unrecorded b)).trans (congrArg (·.2.2) (beginBeat_keeps.eq b))
theorem boundary_mem (b : Block) : (Act.boundary.run b).mem = b.mem :=
  (unrecorded_mem (boundary_unrecorded b)).trans (congrArg (·.1) (beginBeat_keeps.eq b))
theorem boundary_cores (b : Block) : (Act.boundary.run b).cores = b.cores :=
  (unrecorded_cores (boundary_unrecorded b)).trans (congrArg (·.2.1) (beginBeat_keeps.eq b))
theorem boundary_part (b : Block) (f : Nat) : part (Act.boundary.run b) f = (part b f).tick :=
  (unrecorded_part (boundary_unrecorded b) f).trans (part_beginBeat b f)
theorem boundary_sinceMarker (b : Block) : (Act.boundary.run b).lock.sinceMarker = b.lock.sinceMarker + 1 :=
  (congrArg Lock.sinceMarker (unrecorded_lock (boundary_unrecorded b))).trans (sinceMarker_beginBeat b)

theorem boundary_beat (b : Block) : beat (Act.boundary.run b) = (beat b + 1) % 2 ^ 64 := by
  have hrefresh := leaveRefresh_wordAt (a := Reg.srlBeat.addr) fun k _ => by simp [lpdBase, srlBase]; omega
  have hlock := retakeLock_wordAt (a := Reg.srlBeat.addr) (by simp) (by simp [mbxBase, srlBase]) (by simp [mbxBase, srlBase])
  exact (rd_of_wordAt (hlock.eq _)).trans ((rd_of_wordAt (hrefresh.eq _)).trans (beat_beginBeat b))

/-- Whether a wake ends its self-refresh, and whether the master takes its lock again, is decided by the block before the beat and
the number of the beat that begins. -/
theorem endsRefresh_beginBeat (b : Block) : (Act.beginBeat.run b).endsRefresh ↔
    ∃ x, b.power.wake = some x ∧ (beat b + 1) % 2 ^ 64 = refreshEnd x.1 := by
  unfold Block.endsRefresh
  rw [beat_beginBeat, show (Act.beginBeat.run b).power = b.power from congrArg (·.2.2) (beginBeat_keeps.eq b)]

theorem relocks_beforeLock (b : Block) : (Act.leaveRefresh.run (Act.beginBeat.run b)).relocks ↔ b.relocks := by
  refine relocks_congr ?_ ?_ fun f => ?_
  · exact (rd_of_wordAt ((leaveRefresh_wordAt fun k _ => by simp [lpdBase, pwrBase]; omega).eq _)).trans
      (rd_of_wordAt ((beginBeat_wordAt (by simp [srlBase, pwrBase])).eq b))
  · exact (rd_of_wordAt ((leaveRefresh_wordAt fun k _ => by simp [lpdBase, srlBase]; omega).eq _)).trans
      (rd_of_wordAt ((beginBeat_wordAt (by simp)).eq b))
  · rw [unrecorded_part (leaveRefresh_unrecorded.eq _), part_beginBeat]
    rfl

theorem boundary_lpdState (b : Block) {k : Nat} (hk : k < 16)
    [Decidable ((∃ x, b.power.wake = some x ∧ (beat b + 1) % 2 ^ 64 = refreshEnd x.1) ∧ lpdState b k = lpdSelfRefresh)] :
    lpdState (Act.boundary.run b) k =
      if (∃ x, b.power.wake = some x ∧ (beat b + 1) % 2 ^ 64 = refreshEnd x.1) ∧ lpdState b k = lpdSelfRefresh then lpdReady
      else lpdState b k := by
  classical
  have hlock := retakeLock_wordAt (a := (Reg.lpdStatus k).addr) (by simp [lpdBase, srlBase]; omega)
    (by simp [lpdBase, mbxBase]; omega) (by simp [lpdBase, mbxBase]; omega)
  have hbegin := beginBeat_wordAt (a := (Reg.lpdStatus k).addr) (by simp [lpdBase, srlBase]; omega)
  have hstate : lpdState (Act.beginBeat.run b) k = lpdState b k := by
    unfold lpdState fld
    rw [rd_of_wordAt (hbegin.eq b)]
  calc lpdState (Act.boundary.run b) k = lpdState (Act.leaveRefresh.run (Act.beginBeat.run b)) k := by
        unfold lpdState fld
        rw [boundary_run, rd_of_wordAt (hlock.eq _)]
    _ = _ := by simp only [lpdState_leaveRefresh _ hk, endsRefresh_beginBeat, hstate]

theorem boundary_domState (b : Block) [Decidable b.relocks] :
    domState (Act.boundary.run b) = if b.relocks then 2 else domState b := by
  classical
  have hstate : domState (Act.leaveRefresh.run (Act.beginBeat.run b)) = domState b := by
    unfold domState fld
    rw [rd_of_wordAt ((leaveRefresh_wordAt fun k _ => by simp [lpdBase, srlBase]; omega).eq _),
      rd_of_wordAt ((beginBeat_wordAt (by simp)).eq b)]
  simp only [boundary_run, domState_retakeLock, relocks_beforeLock, hstate]

/-- With no wake ending and no lock to take, the boundary is the beginning of the beat. -/
theorem boundary_eq_beginBeat {b : Block} (hw : ¬ ∃ x, b.power.wake = some x ∧ (beat b + 1) % 2 ^ 64 = refreshEnd x.1)
    (hr : ¬ b.relocks) : Act.boundary.run b = Act.beginBeat.run b := by
  rw [boundary_run, retakeLock_of_not (mt (relocks_beforeLock b).1 hr), leaveRefresh_of_not (mt (endsRefresh_beginBeat b).1 hw)]

end Sys2Proof.Machine
end

section
/-! PROOFS. Readings enter their registers (14_module_hw.md R399). -/

namespace Sys2Proof.Machine

/-! ## One reading of a sensor -/

/-- Sensor n reads as before and has failed as before. -/
def SensorKept (b t : Block) (n : Nat) : Prop :=
  rd t (.pwrSensor n) = rd b (.pwrSensor n) ∧ t.power.failed.contains n = b.power.failed.contains n

/-- Reading v of sensor n is in its register or has shown that the sensor has failed; a failed sensor takes no reading. -/
def SensorRead (b t : Block) (n : Nat) (v : BitVec 16) : Prop :=
  (b.power.failed.contains n = true → rd t (.pwrSensor n) = rd b (.pwrSensor n)) ∧
  (b.power.failed.contains n = false → outOfRange v = false →
    rd t (.pwrSensor n) = v.toNat ∧ t.power.failed.contains n = false) ∧
  (b.power.failed.contains n = false → outOfRange v = true →
    rd t (.pwrSensor n) = 0x8000 ∧ t.power.failed.contains n = true)

theorem SensorKept.trans {b c t : Block} {n : Nat} (h : SensorKept b c n) (k : SensorKept c t n) : SensorKept b t n :=
  ⟨k.1.trans h.1, k.2.trans h.2⟩

/-- What a sensor reads does not depend on what else happens before or after. -/
theorem SensorRead.congr {b b' t t' : Block} {n : Nat} {v : BitVec 16} (h : SensorRead b t n v) (hb : SensorKept b' b n)
    (ht : SensorKept t t' n) : SensorRead b' t' n v := by
  unfold SensorRead at h ⊢
  rwa [ht.1, ht.2, ← hb.1, ← hb.2]

theorem sensorFails_of_failed {b : Block} {i : Nat} (h : b.power.failed.contains i = true) : (Act.sensorFails i).run b = b := by
  unfold Act.sensorFails
  rw [Act.whenB_run, h]
  rfl

/-- A sensor that fails now reads 0x8000. -/
theorem sensorFails_of_sound {b : Block} {i : Nat} (h : b.power.failed.contains i = false) :
    rd ((Act.sensorFails i).run b) (.pwrSensor i) = 0x8000 ∧
      ((Act.sensorFails i).run b).power.failed = b.power.failed ++ [i] := by
  unfold Act.sensorFails
  rw [Act.whenB_run, h]
  exact ⟨rd_setReg_self (.pwrSensor i) 0x8000 b, rfl⟩

theorem sensorFails_wordAt {a i : Nat} (h : (Reg.pwrSensor i).addr ≠ a) : (Act.sensorFails i).Keeps (wordAt a) :=
  .whenB (.cons (.setReg h) (.cons (.units fun _ => rfl) .nil))

theorem sense_wordAt {a i : Nat} (v : BitVec 16) (h : (Reg.pwrSensor i).addr ≠ a) : (Act.sense i v).Keeps (wordAt a) :=
  .ite (sensorFails_wordAt h) (.whenB (.setReg h))

theorem sense_keeps (i : Nat) (v : BitVec 16) : (Act.sense i v).Keeps fun b => (b.mem, b.cores, b.power.rails) :=
  .ite (.whenB (.cons ⟨fun _ => rfl⟩ (.cons ⟨fun _ => rfl⟩ .nil))) (.whenB ⟨fun _ => rfl⟩)

theorem sense_failed_other {i n : Nat} (v : BitVec 16) (h : n ≠ i) : (Act.sense i v).Keeps fun b => b.power.failed.contains n := by
  have hadd (b : Block) : (b.power.failed ++ [i]).contains n = b.power.failed.contains n := by simp [h]
  exact .ite (.whenB (.cons ⟨fun _ => rfl⟩ (.cons ⟨hadd⟩ .nil))) (.whenB ⟨fun _ => rfl⟩)

theorem sense_other {i n : Nat} (v : BitVec 16) (h : n ≠ i) (b : Block) : SensorKept b ((Act.sense i v).run b) n :=
  ⟨rd_of_wordAt ((sense_wordAt v (by simp only [Reg.addr_pwrSensor]; omega)).eq b), (sense_failed_other v h).eq b⟩

theorem sense_self (i : Nat) (v : BitVec 16) (b : Block) : SensorRead b ((Act.sense i v).run b) i v := by
  cases hf : b.power.failed.contains i with
  | true =>
    have hrun : (Act.sense i v).run b = b := by
      unfold Act.sense
      split
      · exact sensorFails_of_failed hf
      · rw [Act.whenB_run, hf]; rfl
    exact ⟨fun _ => by rw [hrun], fun h => absurd (hf.symm.trans h) (by decide), fun h => absurd (hf.symm.trans h) (by decide)⟩
  | false =>
    refine ⟨fun h => absurd (hf.symm.trans h) (by decide), fun _ hv => ?_, fun _ hv => ?_⟩
    · unfold Act.sense
      rw [if_neg (by rw [hv]; decide), Act.whenB_run, hf]
      exact ⟨(rd_setReg_self (.pwrSensor i) v.toNat b).trans (Nat.mod_eq_of_lt (Nat.lt_trans v.isLt (by decide : 2 ^ 16 < 2 ^ 32))), hf⟩
    · unfold Act.sense
      rw [if_pos hv]
      obtain ⟨hrd, hfailed⟩ := sensorFails_of_sound hf
      exact ⟨hrd, by rw [hfailed]; simp⟩

/-! ## Many readings -/

/-- Each of the sensors that a sample names once takes its reading, and the others are left. -/
theorem each_sense (l : List (Nat × BitVec 16)) (hl : (l.map (·.1)).Nodup) (b : Block) :
    (∀ x ∈ l, SensorRead b ((Act.each l fun x => .sense x.1 x.2).run b) x.1 x.2) ∧
      ∀ n, (∀ x ∈ l, x.1 ≠ n) → SensorKept b ((Act.each l fun x => .sense x.1 x.2).run b) n := by
  induction l generalizing b with
  | nil => exact ⟨fun x hx => absurd hx (List.not_mem_nil), fun n _ => ⟨rfl, rfl⟩⟩
  | cons x r ih =>
    rw [List.map_cons, List.nodup_cons] at hl
    obtain ⟨hx, hr⟩ := hl
    have hne : ∀ y ∈ r, y.1 ≠ x.1 := fun y hy e => hx (e ▸ List.mem_map_of_mem hy)
    obtain ⟨hread, hkept⟩ := ih hr ((Act.sense x.1 x.2).run b)
    rw [Act.each_cons]
    refine ⟨fun y hy => ?_, fun n hn => ?_⟩
    · rcases List.mem_cons.1 hy with rfl | hy
      · exact (sense_self y.1 y.2 b).congr ⟨rfl, rfl⟩ (hkept y.1 hne)
      · exact (hread y hy).congr (sense_other x.2 (hne y hy) b) ⟨rfl, rfl⟩
    · rw [List.forall_mem_cons] at hn
      exact (sense_other x.2 (Ne.symm hn.1) b).trans (hkept n hn.2)

theorem smGet_foldl_smPut {α : Type} (l : List (Nat × α)) (hl : (l.map (·.1)).Nodup) (m : List (Nat × α)) :
    (∀ x ∈ l, smGet (l.foldl (fun m x => smPut m x.1 x.2) m) x.1 = some x.2) ∧
      ∀ p, (∀ x ∈ l, x.1 ≠ p) → smGet (l.foldl (fun m x => smPut m x.1 x.2) m) p = smGet m p := by
  induction l generalizing m with
  | nil => exact ⟨fun x hx => absurd hx (List.not_mem_nil), fun _ _ => rfl⟩
  | cons x r ih =>
    rw [List.map_cons, List.nodup_cons] at hl
    obtain ⟨hx, hr⟩ := hl
    obtain ⟨hin, hout⟩ := ih hr (smPut m x.1 x.2)
    rw [List.foldl_cons]
    refine ⟨fun y hy => ?_, fun p hp => ?_⟩
    · rcases List.mem_cons.1 hy with rfl | hy
      · rw [hout y.1 fun z hz e => hx (e ▸ List.mem_map_of_mem hz), smGet_smPut_same]
      · exact hin y hy
    · rw [List.forall_mem_cons] at hp
      rw [hout p hp.2, smGet_smPut_other _ _ hp.1]

theorem nodup_keys_filter {α : Type} {l : List (Nat × α)} (q : Nat × α → Bool) (h : (l.map (·.1)).Nodup) :
    ((l.filter q).map (·.1)).Nodup := (List.filter_sublist.map _).nodup h

/-! ## A sample -/

/-- The input monitor's readings. -/
def Act.inputs (m : Sample) : Act :=
  Act.all [.setReg .pwrVin m.vin.toNat, .setReg .pwrIin m.iin.toNat, .setReg .pwrPin m.pin.toNat,
    .setReg .pwrCool m.cool.toNat, .setReg .pwrFlow m.flow.toNat]

/-- The sensors' readings. -/
def Act.sensors (m : Sample) : Act := .each (m.sensors.filter fun x => decide (x.1 < 92)) fun x => .sense x.1 x.2

/-- The rails' readings. -/
def Act.railsRead (m : Sample) : Act :=
  .power fun p => { p with rails := (m.rails.filter fun x => decide (x.1 < 64)).foldl (fun l x => smPut l x.1 x.2) p.rails }

theorem sample_run (m : Sample) (b : Block) :
    (Act.sample m).run b = (Act.railsRead m).run ((Act.sensors m).run ((Act.inputs m).run b)) := rfl

theorem inputs_wordAt {a : Nat} (m : Sample) (hv : Reg.pwrVin.addr ≠ a) (hi : Reg.pwrIin.addr ≠ a) (hp : Reg.pwrPin.addr ≠ a)
    (hc : Reg.pwrCool.addr ≠ a) (hf : Reg.pwrFlow.addr ≠ a) : (Act.inputs m).Keeps (wordAt a) :=
  .cons (.setReg hv) (.cons (.setReg hi) (.cons (.setReg hp) (.cons (.setReg hc) (.cons (.setReg hf) .nil))))

theorem rd_inputs (m : Sample) (b : Block) :
    rd ((Act.inputs m).run b) .pwrVin = m.vin.toNat ∧ rd ((Act.inputs m).run b) .pwrIin = m.iin.toNat ∧
    rd ((Act.inputs m).run b) .pwrPin = m.pin.toNat ∧ rd ((Act.inputs m).run b) .pwrCool = m.cool.toNat ∧
    rd ((Act.inputs m).run b) .pwrFlow = m.flow.toNat := by
  have hhalf (v : BitVec 16) : v.toNat % 2 ^ 32 = v.toNat := Nat.mod_eq_of_lt (Nat.lt_trans v.isLt (by decide))
  have hfull (v : BitVec 32) : v.toNat % 2 ^ 32 = v.toNat := Nat.mod_eq_of_lt v.isLt
  unfold Act.inputs
  simp [rd_setReg, rd_setReg_self, Reg.width, hhalf, hfull, -Nat.reducePow]

theorem sensors_wordAt {a : Nat} (m : Sample) (h : ∀ i, (Reg.pwrSensor i).addr ≠ a) : (Act.sensors m).Keeps (wordAt a) :=
  .each fun x => sense_wordAt x.2 (h x.1)

theorem rd_sample (m : Sample) (b : Block) (r : Reg) (h : ∀ i, (Reg.pwrSensor i).addr ≠ r.addr) :
    rd ((Act.sample m).run b) r = rd ((Act.inputs m).run b) r := by
  rw [sample_run]
  exact rd_of_wordAt ((sensors_wordAt m h).eq _)

theorem rd_sample_inputs (m : Sample) (b : Block) :
    rd ((Act.sample m).run b) .pwrVin = m.vin.toNat ∧ rd ((Act.sample m).run b) .pwrIin = m.iin.toNat ∧
    rd ((Act.sample m).run b) .pwrPin = m.pin.toNat ∧ rd ((Act.sample m).run b) .pwrCool = m.cool.toNat ∧
    rd ((Act.sample m).run b) .pwrFlow = m.flow.toNat := by
  have hne (i o : Nat) (ho : o < 0x400) : (Reg.pwrSensor i).addr ≠ pwrBase + o := by simp only [Reg.addr_pwrSensor]; omega
  rw [rd_sample m b .pwrVin fun i => hne i 0x8 (by decide), rd_sample m b .pwrIin fun i => hne i 0xC (by decide),
    rd_sample m b .pwrPin fun i => hne i 0x10 (by decide), rd_sample m b .pwrCool fun i => hne i 0x14 (by decide),
    rd_sample m b .pwrFlow fun i => hne i 0x18 (by decide)]
  exact rd_inputs m b

/-- A sample writes its own registers alone. -/
theorem beat_sample (m : Sample) (b : Block) : beat ((Act.sample m).run b) = beat b := by
  have hinputs := inputs_wordAt (a := Reg.srlBeat.addr) m (by simp [pwrBase, srlBase]) (by simp [pwrBase, srlBase])
    (by simp [pwrBase, srlBase]) (by simp [pwrBase, srlBase]) (by simp [pwrBase, srlBase])
  exact (rd_sample m b .srlBeat fun i => by simp [pwrBase, srlBase]; omega).trans (rd_of_wordAt (hinputs.eq b))

theorem sensorKept_inputs (m : Sample) (b : Block) (n : Nat) : SensorKept b ((Act.inputs m).run b) n := by
  refine ⟨rd_of_wordAt ((inputs_wordAt m ?_ ?_ ?_ ?_ ?_).eq b), rfl⟩ <;> simp only [Reg.addr_pwrVin, Reg.addr_pwrIin,
    Reg.addr_pwrPin, Reg.addr_pwrCool, Reg.addr_pwrFlow, Reg.addr_pwrSensor] <;> omega

theorem sample_sensors (m : Sample) (hm : (m.sensors.map (·.1)).Nodup) (b : Block) :
    (∀ x ∈ m.sensors, x.1 < 92 → SensorRead b ((Act.sample m).run b) x.1 x.2) ∧
      ∀ n < 92, (∀ x ∈ m.sensors, x.1 ≠ n) → SensorKept b ((Act.sample m).run b) n := by
  obtain ⟨hread, hkept⟩ := each_sense _ (nodup_keys_filter (fun x => decide (x.1 < 92)) hm) ((Act.inputs m).run b)
  refine ⟨fun x hx hn => ?_, fun n _ hn => ?_⟩
  · exact (hread x (List.mem_filter.2 ⟨hx, decide_eq_true hn⟩)).congr (sensorKept_inputs m b x.1) ⟨rfl, rfl⟩
  · exact (sensorKept_inputs m b n).trans (hkept n fun x hx => hn x (List.mem_filter.1 hx).1)

theorem sample_frame (m : Sample) (b : Block) :
    ((Act.sample m).run b).mem = b.mem ∧ ((Act.sample m).run b).cores = b.cores ∧ ((Act.sample m).run b).power.rails =
      (m.rails.filter fun x => decide (x.1 < 64)).foldl (fun l x => smPut l x.1 x.2) b.power.rails := by
  have hsensors : (Act.sensors m).Keeps fun b => (b.mem, b.cores, b.power.rails) := .each fun x => sense_keeps x.1 x.2
  have h := hsensors.eq ((Act.inputs m).run b)
  have hrails : ((Act.sensors m).run ((Act.inputs m).run b)).power.rails = b.power.rails := congrArg (·.2.2) h
  exact ⟨congrArg (·.1) h, congrArg (·.2.1) h, by rw [← hrails]; rfl⟩

theorem sample_rails (m : Sample) (hm : (m.rails.map (·.1)).Nodup) (b : Block) :
    (∀ x ∈ m.rails, x.1 < 64 → smGet ((Act.sample m).run b).power.rails x.1 = some x.2) ∧
      ∀ p, (∀ x ∈ m.rails, x.1 ≠ p) → smGet ((Act.sample m).run b).power.rails p = smGet b.power.rails p := by
  obtain ⟨-, -, hrails⟩ := sample_frame m b
  obtain ⟨hin, hout⟩ := smGet_foldl_smPut _ (nodup_keys_filter (fun x => decide (x.1 < 64)) hm) b.power.rails
  rw [hrails]
  exact ⟨fun x hx hp => hin x (List.mem_filter.2 ⟨hx, decide_eq_true hp⟩),
    fun p hp => hout p fun x hx => hp x (List.mem_filter.1 hx).1⟩

/-- The boundary itself leaves the sensors. -/
theorem sensorKept_boundary (b : Block) (n : Nat) : SensorKept b (Act.boundary.run b) n := by
  refine ⟨rd_of_wordAt ((boundary_wordAt fun y hy => .inr ?_).eq b), by rw [boundary_power]⟩
  simp only [boundaryWindows, List.mem_cons, List.mem_map, List.mem_range] at hy
  rcases hy with rfl | rfl | rfl | rfl | ⟨k, hk, rfl⟩ <;>
    simp only [Reg.window, Reg.addr_srlBeat, Reg.addr_srlDomStatus, Reg.addr_mbxEvent, Reg.addr_msixPba, Reg.addr_lpdStatus,
      Reg.addr_pwrSensor, srlBase, mbxBase, lpdBase, pwrBase] <;> omega

end Sys2Proof.Machine
end

section
/-! PROOFS. The start of a run (09_schedules.md R257), the plan (R256) and the energy window (R261), and with the beat boundary
the statement on beats, runs and windows. -/

namespace Sys2Proof.Machine

/-! ## The start of a run -/

/-- A sequencer begins entry 0. -/
def Act.startSeq (c : Nat) : Act := Act.all [.setSeqState c seqRunning, .setSeqEntry c 0]

/-- Sequencer c runs at entry 0. -/
def SeqAtStart (b : Block) (c : Nat) : Prop := seqState b c = seqRunning ∧ seqEntry b c = 0

theorem startSeq_wordAt {a c : Nat} (h : (Reg.seqStatus c).addr ≠ a) : (Act.startSeq c).Keeps (wordAt a) :=
  .cons (.setFld h) (.cons (.setFld h) .nil)

theorem startSeq_self (c : Nat) (b : Block) : SeqAtStart ((Act.startSeq c).run b) c := by
  have hwidth : (Reg.seqStatus c).width = 32 := rfl
  simp only [SeqAtStart, seqState, seqEntry, Act.startSeq, Act.setSeqState, Act.setSeqEntry, Act.all_cons, Act.all_nil]
  rw [fld_setFld_other _ _ _ _ _ _ _ (Reg.width_le _) (by omega) (by decide) (by decide) (by decide),
    fld_setFld _ _ _ _ _ (Reg.width_le _) (by omega) (by decide), fld_setFld _ _ _ _ _ (Reg.width_le _) (by omega) (by decide)]
  exact ⟨rfl, rfl⟩

theorem startSeq_keeps_atStart {b : Block} {c : Nat} (d : Nat) (h : SeqAtStart b c) :
    SeqAtStart ((Act.startSeq d).run b) c := by
  by_cases hd : d = c
  · exact hd ▸ startSeq_self d b
  · have hne : (Reg.seqStatus d).addr ≠ (Reg.seqStatus c).addr := by simp only [Reg.addr_seqStatus, coreBase]; omega
    have hrd : rd ((Act.startSeq d).run b) (.seqStatus c) = rd b (.seqStatus c) := rd_of_wordAt ((startSeq_wordAt hne).eq b)
    unfold SeqAtStart seqState seqEntry fld at h ⊢
    rwa [hrd]

theorem each_startSeq (l : List Nat) (b : Block) (c : Nat) (h : c ∈ l ∨ SeqAtStart b c) :
    SeqAtStart ((Act.each l .startSeq).run b) c := by
  induction l generalizing b with
  | nil => exact h.resolve_left List.not_mem_nil
  | cons d r ih =>
    rw [Act.each_cons]
    apply ih
    rcases h with h | h
    · rcases List.mem_cons.1 h with rfl | h
      · exact .inr (startSeq_self c b)
      · exact .inl h
    · exact .inr (startSeq_keeps_atStart d h)

/-- The partition of f has started and the sequencers l stand at their first entry. -/
def Act.beginRun (f : Nat) (l : List Nat) : Act := .seq (.onPart f fun p => { p with started := true }) (.each l .startSeq)

/-- RUN_START in the start beat of a RUNNING partition that has not started (R257). -/
theorem runStart_runs {s : State} {P : Block → Prop} {f : Nat} (hf : isVf f = true)
    (hst : (part s.toBlock f).st = .running) (hnew : (part s.toBlock f).started = false)
    (hbeat : beat s.toBlock = (part s.toBlock f).startBeat)
    (hP : P ((Act.beginRun f (coresOf s.toBlock f)).run s.toBlock)) : Runs (.runStart f) s P := by
  have hnow : ((part s.toBlock f).st == .running && !(part s.toBlock f).started &&
      decide (beat s.toBlock = (part s.toBlock f).startBeat)) = true := by
    rw [hst, hnew, decide_eq_true hbeat]; rfl
  refine Runs.of_perform (u := isVf f) rfl hf ?_
  simp only [Act.read_run, hnow, Act.when_true]
  exact hP

theorem beginRun_unrecorded (f : Nat) (l : List Nat) (b : Block) : ((Act.beginRun f l).run b).unrecorded =
    ((Act.onPart f fun p => { p with started := true }).run b).unrecorded := by
  have hseqs : (Act.each l .startSeq).Keeps Block.unrecorded :=
    .each fun _ => .cons (setFld_unrecorded _ _ _ _) (.cons (setFld_unrecorded _ _ _ _) .nil)
  rw [Act.beginRun, Act.seq_run, hseqs.eq]

theorem part_beginRun (f : Nat) (l : List Nat) (b : Block) (g : Nat) :
    part ((Act.beginRun f l).run b) g = if f = g then { part b f with started := true } else part b g := by
  rw [unrecorded_part (beginRun_unrecorded f l b), part_onPart]

theorem beginRun_regsKept (f : Nat) (l : List Nat) (b : Block) :
    RegsKept b ((Act.beginRun f l).run b) (l.map fun c => (Reg.seqStatus c).window) :=
  Act.regsKept (fun _ ha => .seq (.units fun _ => rfl)
    (.eachMem fun c hc => startSeq_wordAt (Reg.addr_ne_of_window (ha _ (List.mem_map.2 ⟨c, hc, rfl⟩))))) b

/-! ## The plan -/

/-- The record of a plan exceeded (R256). -/
def planRecord (f : Nat) (im : Image) : Tansy :=
  { Tansy.none with func := f, image := im.imageId.toNat, detector := 0x3B, syndrome := im.planBeats % 2 ^ 64 * 65536 }

/-- The partition's plan is noted as exceeded, and logged. -/
def Act.notePlan (f : Nat) (im : Image) : Act :=
  .seq (.onPart f fun p => { p with planLogged := true }) (.log (planRecord f im))

/-- PLAN_EXCEEDED of a run past its plan that has not been logged (R256). -/
theorem planExceeded_runs {s : State} {P : Block → Prop} {f : Nat} {im : Image} (hf : isVf f = true)
    (hst : (part s.toBlock f).st = .running) (hgo : (part s.toBlock f).started = true)
    (hnew : (part s.toBlock f).planLogged = false) (him : (part s.toBlock f).image = some im)
    (hlate : im.planBeats < (part s.toBlock f).beatsRun) (hP : P ((Act.notePlan f im).run s.toBlock)) :
    Runs (.planExceeded f) s P := by
  have hnow : ((part s.toBlock f).st == .running && (part s.toBlock f).started && !(part s.toBlock f).planLogged &&
      decide (im.planBeats < (part s.toBlock f).beatsRun)) = true := by
    rw [hst, hgo, hnew, decide_eq_true hlate]; rfl
  refine Runs.of_perform (u := isVf f) rfl hf ?_
  simp only [Act.read_run, him, Act.opt_some, hnow, Act.when_true]
  exact hP

theorem notePlan_unrecorded (f : Nat) (im : Image) (b : Block) : ((Act.notePlan f im).run b).unrecorded =
    ((Act.onPart f fun p => { p with planLogged := true }).run b).unrecorded := by
  rw [Act.notePlan, Act.seq_run, (log_unrecorded _).eq]

theorem part_notePlan (f : Nat) (im : Image) (b : Block) :
    part ((Act.notePlan f im).run b) f = { part b f with planLogged := true } := by
  rw [unrecorded_part (notePlan_unrecorded f im b), part_onPart, if_pos rfl]

theorem notePlan_logs (f : Nat) (im : Image) (b : Block) : LogsOne b ((Act.notePlan f im).run b) 0x3B :=
  LogsOne.of_log (b' := (Act.onPart f fun p => { p with planLogged := true }).run b) (planRecord f im) 0x3B rfl rfl rfl rfl

/-! ## The energy window -/

/-- The record of an energy window exceeded (R261), as Act.logEvent makes it. -/
def energyRecord (metered : Nat) : Tansy :=
  { Tansy.none with detector := 0x32, disp := 0, syndrome := 0 % 65536 + metered % 2 ^ 64 * 65536 }

/-- An excess is counted, logged and made a module event. -/
def Act.noteExcess (metered : Nat) : Act :=
  Act.all [.count .pwrExcess 1, .log (energyRecord metered), .event 0 3]

/-- ENERGY_WINDOW_CHECK at the end of a window that held more than the allowed energy (R261). -/
theorem energyWindowCheck_runs {s : State} {P : Block → Prop} {metered : Nat} (hm : modState s.toBlock = modOperational)
    (hbeat : beat s.toBlock % 64 = 0) (hmore : allowedEnergy s.toBlock < 10 * metered)
    (hP : P ((Act.noteExcess metered).run s.toBlock)) : Runs (.energyWindowCheck metered) s P := by
  refine Runs.of_perform (u := true) rfl rfl ?_
  rw [Act.whenB_run, if_pos (by rw [hm, hbeat]; rfl), Act.read_run, decide_eq_true hmore]
  exact hP

theorem noteExcess_unrecorded (metered : Nat) : (Act.noteExcess metered).Keeps Block.unrecorded :=
  .cons (count_unrecorded _ _) (.cons (log_unrecorded _) (.cons (event_unrecorded _ _) .nil))

theorem rd_noteExcess (metered : Nat) (b : Block) :
    rd ((Act.noteExcess metered).run b) .pwrExcess = satAdd (rd b .pwrExcess) 1 32 := by
  have hmbx (f : Nat) (hf : f ≤ 16) : (Reg.mbxEvent f).addr ≠ Reg.pwrExcess.addr ∧ (Reg.msixPba f).addr ≠ Reg.pwrExcess.addr := by
    simp only [Reg.addr_mbxEvent, Reg.addr_msixPba, Reg.addr_pwrExcess, mbxBase, pwrBase]; omega
  have hrest : (Act.all [.log (energyRecord metered), .event 0 3]).Keeps (wordAt Reg.pwrExcess.addr) :=
    .cons (.read fun _ => logBody_wordAt _ (by simp [chkBase, pwrBase]) (by simp [chkBase, pwrBase]) hmbx)
      (.cons (event_wordAt 3 (hmbx 0 (by omega)).1 (hmbx 0 (by omega)).2) .nil)
  have hcount : rd ((Act.count .pwrExcess 1).run b) .pwrExcess = satAdd (rd b .pwrExcess) 1 32 % 2 ^ 32 :=
    rd_setReg_self .pwrExcess _ b
  unfold Act.noteExcess
  rw [Act.all_cons, rd_of_wordAt (hrest.eq _), hcount, Nat.mod_eq_of_lt]
  unfold satAdd
  omega

theorem noteExcess_logs (metered : Nat) (b : Block) : LogsOne b ((Act.noteExcess metered).run b) 0x32 := by
  refine LogsOne.of_log (b' := (Act.count .pwrExcess 1).run b) (energyRecord metered) 0x32 rfl rfl ?_ ((event_campion 0 3).eq _)
  exact rd_setReg _ _ _ _ (by simp [pwrBase, chkBase])

/-! ## The statement -/

/-- Settles O21: each command is run once, as its clause's hypotheses have it, and every clause is a fact about its effect. -/
theorem beatsRunsAndWindows : Obligations.BeatsRunsAndWindows := by
  intro s b
  refine ⟨fun hl => beatBoundary_runs none hl ?_, fun m hl hsensors hrails => beatBoundary_runs (some m) hl ?_,
    fun f hf hst hnew hbeat => runStart_runs hf hst hnew hbeat ?_,
    fun f im hf hst hgo hnew him hlate => planExceeded_runs hf hst hgo hnew him hlate ?_,
    fun metered hm hbeat hmore => energyWindowCheck_runs hm hbeat hmore ?_⟩
  · intro next wakes relocks
    refine ⟨boundary_beat b, boundary_mem b, Act.regsKept (fun _ => boundary_wordAt) b, fun hw hr => ?_,
      fun k hk => boundary_lpdState b hk, boundary_domState b, fun f hst hgo => ?_, fun f => ?_, boundary_cores b,
      boundary_sinceMarker b⟩
    · rw [Act.opt_none, Act.nop_run, boundary_eq_beginBeat hw hr]
      refine ⟨Act.regsKept (fun a ha => beginBeat_wordAt ?_) b, outbox_beginBeat b⟩
      exact Reg.addr_ne_of_window (ha _ List.mem_cons_self)
    · rw [Act.opt_none, Act.nop_run, boundary_part, Partition.tick, hst, hgo]
      rfl
    · rw [Act.opt_none, Act.nop_run, boundary_part]
      exact ⟨rfl, rfl⟩
  · rw [Act.opt_some]
    obtain ⟨hvin, hiin, hpin, hcool, hflow⟩ := rd_sample_inputs m (Act.boundary.run b)
    obtain ⟨hread, hkept⟩ := sample_sensors m hsensors (Act.boundary.run b)
    obtain ⟨hin, hout⟩ := sample_rails m hrails (Act.boundary.run b)
    obtain ⟨hmem, hcores, -⟩ := sample_frame m (Act.boundary.run b)
    refine ⟨(beat_sample m _).trans (boundary_beat b), hvin, hiin, hpin, hcool, hflow, fun x hx hn => ?_, fun n hn hne => ?_,
      hin, fun p hp => ?_, hmem.trans (boundary_mem b), hcores.trans (boundary_cores b)⟩
    · exact (hread x hx hn).congr (sensorKept_boundary b x.1) ⟨rfl, rfl⟩
    · exact ((sensorKept_boundary b n).trans (hkept n hn hne)).1
    · rw [hout p hp, boundary_power]
  · have hunits := beginRun_unrecorded f (coresOf b f) b
    refine ⟨?_, fun g hg => ?_, fun c hc => each_startSeq _ _ c (.inl hc), beginRun_regsKept f _ b, ?_, ?_⟩
    · rw [part_beginRun, if_pos rfl]
    · rw [part_beginRun, if_neg (Ne.symm hg)]
    · rw [unrecorded_mem hunits, Act.onPart_mem]
    · rw [unrecorded_cores hunits, Act.onPart_cores]
  · have hunits := notePlan_unrecorded f im b
    refine ⟨?_, ?_, notePlan_logs f im b, ?_, ?_⟩
    · rw [part_notePlan]
    · rw [part_notePlan]
      exact hst
    · rw [unrecorded_mem hunits, Act.onPart_mem]
    · rw [unrecorded_cores hunits, Act.onPart_cores]
  · have hunits := (noteExcess_unrecorded metered).eq b
    exact ⟨rd_noteExcess metered b, flag_event 0 3 (by decide) _, noteExcess_logs metered b, unrecorded_mem hunits,
      unrecorded_cores hunits, unrecorded_parts hunits⟩

end Sys2Proof.Machine
end

section
/-! PROOFS. A directory request of the host whose token array holds an uncorrectable block (08_attention.md R237,
13_memory.md R374, 11_integrity.md R323). -/

namespace Sys2Proof.Machine

/-- A cache of two slots of 128 tokens; it has no schedule queue. -/
def promptCache : Geometry :=
  { l := 1, h := 1, d := 64, efmt := 0x25, re := 128, rx := 64, pmax := 64, tmax := 128, nseq := 2, seqBase := 2 ^ 40,
    seqStride := 2 ^ 20, seed := 5, qva := 0, qlen := 0, req := 0, rsp := 0, sscale := [0, 0] }

/-- An image that has the cache and nothing else. -/
def promptImage : Image :=
  { imageId := 1, nvar := 1, length := 0, planBeats := 100, plots := 1, cores := [], objs := [], parts := [], place := [],
    flows := [], peak := 0, energy := [], cache := some promptCache, domain := none, hasLink := false, plan := [] }

/-- The first chunk of controller 0, mapped at virtual address 0. -/
def promptPage : Mapping := { va := 0, size := 30, pa := chunkAt (0, 0), r := true, w := true }

/-- Where its translation tables stand: in the reserve of controller 0 (R379). -/
def tablesAt : Nat := ctlAt 0 + 0x11C0000000

/-- LOOKUP of a prompt of one token, whose id stands at virtual address 0, in slot 0. -/
def promptRecord : Bytes := leBytes 1 0x10 ++ leBytes 1 0x30

/-- PREFIX_QUERY of the record with TARGET 1 (12_host.md R348). -/
def promptQuery : Latched :=
  { bytes := leBytes cmdPrefixQuery.code 2 ++ leBytes 1 2 ++ leBytes promptRecord.length 4 ++ leBytes 0 8 ++ promptRecord
    order := 0, begun := true }

/-- Mailbox 2 of function 0 asked for the lookup in function 1's directory. -/
def promptRequest : DirReq := { func := 1, issuer := 0, mbox := 2, record := promptRecord }

/-- Function 1's partition is LOADED with the image, its directory engine has a share for the host, and the request waits in
the engine. Controller 0's first block, where the token id stands, is uncorrectable. -/
def uncorrectablePrompt : State :=
  { State.reset with toBlock := (Act.all [
      .onPart 1 fun p => { p with
        st := .loaded, plots := 1, image := some promptImage, chunks := [(0, 0)],
        maps := mapPage (fun _ => tablesAt) [] promptPage },
      .setFld (.tslDirCfg 0 1) 31 31 1, .setFld (.tslDirCfg 0 1) 23 18 1,
      .onFunc 0 fun x => { x with latched := [(2, promptQuery)] },
      .units fun u => { u with dirReqs := [promptRequest] },
      .onLpd 0 fun k => { k with bad := [chunkAt (0, 0) / 64] }]).run State.reset.toBlock }

/-- The engine takes the request up. -/
theorem uncorrectablePrompt_asks :
    (uncorrectablePrompt.dirReqs.find? fun y => y.func == 1) = some promptRequest ∧
      (request uncorrectablePrompt.toBlock 0 2).isSome = true ∧ dirShare uncorrectablePrompt.toBlock 1 true = true ∧
      drOp promptRecord = 1 := by decide +kernel

theorem taint_uncorrectablePrompt : (part uncorrectablePrompt.toBlock 1).taint = none := by decide +kernel

/-- The lookup answers, and the detection that its read makes taints the partition from the current beat on. -/
theorem taint_after_lookup {t : State} (ht : execLookup 1 true uncorrectablePrompt = .next t) :
    (part t.toBlock 1).taint = some 0 := by
  unfold execLookup at ht
  obtain ⟨-, rfl⟩ := perform_next ht
  decide +kernel

/-- Refutes O38: the statement has every LOOKUP of the host leave the partitions. Its queue half assumes that no controller holds
an uncorrectable block, its host half does not, and in `uncorrectablePrompt` the engine's read of the prompt meets one: the
detection (R374) is uncontained and taints function 1's partition (R323). -/
theorem not_directoryOperationsAnswer : ¬ Obligations.DirectoryOperationsAnswer := by
  intro h
  obtain ⟨hreq, hlatched, hshare, hop⟩ := uncorrectablePrompt_asks
  obtain ⟨-, -, hhost⟩ := h 1 2 0 promptRequest uncorrectablePrompt rfl
  obtain ⟨hlookup, -⟩ := hhost hreq hlatched rfl rfl hshare
  obtain ⟨t, ht, -, -, -, hparts, -⟩ := hlookup hop
  have htaint : (part t.toBlock 1).taint = (part uncorrectablePrompt.toBlock 1).taint := by unfold part; rw [hparts]
  rw [taint_after_lookup ht, taint_uncorrectablePrompt] at htaint
  exact Option.some_ne_none 0 htaint

end Sys2Proof.Machine
end
